-- ==== Sys2Proof/Word.lean ====
section
/-! DEFINITION. The machine's data sizes (R3) and the words made of them. -/

namespace Sys2Proof

/-- 8 bits (R3). -/
abbrev Byte := BitVec 8
/-- 16 bits (R3). -/
abbrev Half := BitVec 16
/-- 32 bits (R3). -/
abbrev Word := BitVec 32
/-- 64 bits (R3). -/
abbrev Dword := BitVec 64

end Sys2Proof
end

