-- ==== Sys2Proof/Config.lean ====
section
/-! DEFINITION. What an implementation fixes (R1) and the free values: constants without a body for what the spec leaves
open. Nothing can evaluate a free value or prove what it is. -/

namespace Sys2Proof.Config

/-- Cores of the module (R1, R14). -/
def nCores : Nat := 96
/-- Hardware contexts per core (R1). -/
def nCtx : Nat := 8
/-- Commands the Mint queue holds (R166). -/
def mintQueue : Nat := 32
/-- Transfers a core holds in flight (R209). -/
def transferPool : Nat := 512
/-- Entries of the time buffer of timed copies (R213). -/
def timeBuffer : Nat := 64
/-- Engine records a context holds (R302). -/
def maxRecords : Nat := 8
/-- Rows a Vault's promotion queue holds (R328). -/
def promoQueue : Nat := 256
/-- Entries of a yard's translation cache, of a die's, and of a die's walk cache (R343). -/
def yardTlb : Nat := 2048
def dieTlb : Nat := 32768
def walkCache : Nat := 512
/-- Cards in flight on a die (R353). -/
def maxCards : Nat := 1024
/-- Micro-words an item may execute (R244). -/
def itemWords : Nat := 65536
/-- Bytes of an HBM stack: 64 GB, decimal (R1, R4). -/
def stackBytes : Nat := 64000000000
/-- One step of the Till carve-out: 1 GB, decimal (R4, R321). -/
def gigabyte : Nat := 1000000000
/-- Bytes of a Vault (R1). -/
def vaultBytes : Nat := 274877906944
/-- Bytes of the park space for chunks of absent pages: 4 MiB (R276). -/
def parkBytes : Nat := 4194304
/-- The FEAT word the JV-IFK2 publishes: bits 0 to 9 (R376). -/
def featPublished : Dword := 0x3FF

/-- Correctable errors that a memory domain is rated for in 30 days (R382: the spec gives no figure). -/
opaque ratedErrors : Nat → Nat
/-- Free value: a byte that a rule leaves unspecified (R206, R220, R10; the Mint record of a halt region, R313), by occasion
(DESIGN CHOICE, log entry 3). -/
opaque freeByte : Nat → Byte
/-- Free value: which of several handed sectors performs first (R256), by occasion. -/
opaque freeSector : Nat → Nat
/-- Free value: whether a refresh of a channel is due (R323), by channel and time. -/
opaque freeRefresh : Nat → Nat → Bool
/-- Free value: which entry a full translation cache gives up, the spec giving no replacement rule (R343), by occasion. -/
opaque freeWay : Nat → Nat
/-- Free value: whether a cache still holds a copy that differs from its entry in memory (R343, R344), by occasion. -/
opaque freeHeld : Nat → Bool
/-- Free value: whether a cache holds a leaf of a run as one 2 MiB entry (R341), by occasion. -/
opaque freeRun : Nat → Bool
/-- Free value: whether a malformed run translates by its own entry (R341), by occasion. -/
opaque freeRunOwn : Nat → Bool
/-- Free value: whether a byte that a Mint command reads or writes while it is in progress is seen old or new (R169), by
occasion. -/
opaque freeChoice : Nat → Bool
/-- Free value: a 32-bit value that a rule leaves undefined (the accumulator tile after a switch into WS, R179; a
DAYS that its field cannot hold, R383), by occasion. -/
opaque freeWord : Nat → Word
/-- Free value: a 64-bit value that no rule states (the place of a negative index in BUCKET's local indices, R263; the
transfer identifier in a slot that a work entry's GATHER writes, R253; fields of an event, R374; registers that a save area
does not hold, R313), by occasion. -/
opaque freeDword : Nat → Dword

end Sys2Proof.Config
end

