-- ==== Sys2Proof/Syntax.lean ====
section
/-! DEFINITION. The instructions and events of the machine: one constructor of `Instr` for each row of
spec/opcode_table.json, with the types of their operands. A row that is an event carries what says where it strikes:
the core `k`, the context `c`, the die `d`, the Vault `v`, the place in a list. -/

namespace Sys2Proof

/-- A scalar register number (R88), or a hand's register. -/
abbrev Reg := BitVec 5
/-- A predicate number (R112). -/
abbrev PReg := BitVec 3
/-- A row register number (R239). -/
abbrev RowReg := BitVec 3

/-- The formats of R87; reserved codes have no constructor. -/
inductive Fmt where
  | fp32 | fp16 | bf16 | e4m3 | e5m2 | int8 | uint8 | int16 | int32 | int4 | lns6 | e8m0 | triple | int64
  deriving DecidableEq, Repr

/-- The typed buffers (R20). -/
inductive Buf where
  | wb | ab | cb
  deriving DecidableEq, Repr

/-- The address spaces that SP names (R88). -/
inductive Space where
  | buf (b : Buf)
  | gv
  deriving DecidableEq, Repr

/-- The scopes of R97. -/
inductive Scope where
  | core | yard | die | module | system
  deriving DecidableEq, Repr

/-- A guard predicate and its sense (R88): `inv` executes when the predicate is 0. -/
structure Guard where
  pg : PReg
  inv : Bool
  deriving DecidableEq, Repr

/-- The two hands of a core (R14). -/
inductive Role where
  | load | store
  deriving DecidableEq, Repr

/-- The CSRs of R134 and R294. -/
inductive Csr where
  | fpcr | fflags | fevr | cstat | fovf | ctxid
  | cause | epcb | tval | tinfo | dcause | depc | erstat | erpop | errec (n : Fin 8) | hscr0 | hscr1
  deriving DecidableEq, Repr

/-- The writing CSR instructions (R133). -/
inductive CsrOp where
  | write | set | clear
  deriving DecidableEq, Repr

/-- Rounding mode field (R56). -/
inductive RmSel where
  | rne | rtz | rup | rdn | dyn
  deriving DecidableEq, Repr

/-- Flush setting field (R91). -/
inductive FlSel where
  | fpcr | never | always
  deriving DecidableEq, Repr

/-- The vector operations, one for each vector row of the table (R147). -/
inductive VOp where
  | vadd | vsub | vmul | vfma | vfnma | vmin | vmax | vabs | vneg | vaddi | vmuli | vand | vor | vxor
  | vshl | vshr | vsra | vcmpEq | vcmpNe | vcmpLt | vcmpLe | vcmpGt | vcmpGe | vcmpUn | vsel | vcvt | vbscl
  | vshuf | vbcast | vxmov | vgredAdd | vgredMax | vgredMin | vrcp | vrsqrt | vsqrt | vexp2 | vlog2 | vexp
  | vlog | vtanh | vsigm | vdiv | vld | vst | vldx | vstx | vrd | vwr | qclr | qupd | qupdW | qmrg | qmrgV
  | qred | qxm | qext | qraw | qnorm | qnormA | qld | qst | vfclr | vfevclr
  deriving DecidableEq, Repr

/-- A vector control word (R91) without its OP, with reserved codes taken out by the decoder. -/
structure Vcw where
  fa : Fmt
  fb : Fmt
  fd : Fmt
  rm : RmSel
  fli : FlSel
  flo : FlSel
  sat : Bool
  gmask : BitVec 8
  buf : Buf
  xb : Reg
  ring : BitVec 4
  exsel : BitVec 3
  emptynan : Bool
  imm0 : Word
  imm1 : Word
  shuf : Dword
  sfp : Half
  deriving DecidableEq, Repr

/-- A vector syllable (R90) with the control word it names: `v1` says which of the two slots holds it. -/
structure VArgs where
  v1 : Bool
  idx : BitVec 9
  vd : BitVec 6
  va : BitVec 6
  vb : BitVec 6
  g : Guard
  w : Vcw
  deriving DecidableEq, Repr

/-- IRMODE (R205). -/
inductive IrMode where
  | dflt | cont | trap
  deriving DecidableEq, Repr

/-- The count of a sync operation (R97, R221): N, or a scalar register. -/
inductive Cnt where
  | imm (n : BitVec 13)
  | reg (r : Reg)
  deriving DecidableEq, Repr

/-- Cause codes (R293). -/
inductive Cause where
  | illegalEncoding | reservedField | featureNotAccepted | privilege | bundleMisaligned | bundleKind
  | fetchOutsideCode | bufferBounds | bufferPermission | ringProtocol | syncTimeout | translationFault
  | pagePermission | cowWrite | pageAbsent | indexRange | fpTrap | windowRecordReserved | memoryError
  | breakpoint | softwareTrap | doubleFault | scaleAlignment | latchMode | remoteError
  deriving DecidableEq, Repr

/-! The hands' RISC-V instructions (R223). -/

inductive RvCond where
  | eq | ne | lt | ge | ltu | geu
  deriving DecidableEq, Repr
inductive RvLoad where
  | lb | lh | lw | ld | lbu | lhu | lwu
  deriving DecidableEq, Repr
inductive RvStore where
  | sb | sh | sw | sd
  deriving DecidableEq, Repr
/-- Register with 12-bit immediate. -/
inductive RvImm where
  | addi | slti | sltiu | xori | ori | andi | addiw
  deriving DecidableEq, Repr
/-- Register with shift amount. -/
inductive RvSh where
  | slli | srli | srai | rori | slliUw | slliw | srliw | sraiw | roriw
  deriving DecidableEq, Repr
/-- Register with register: RV64I, M, Zba and Zbb. -/
inductive RvRR where
  | add | sub | sll | slt | sltu | xor | srl | sra | orr | andd
  | addw | subw | sllw | srlw | sraw
  | mul | mulh | mulhsu | mulhu | div | divu | rem | remu | mulw | divw | divuw | remw | remuw
  | sh1add | sh2add | sh3add | addUw | sh1addUw | sh2addUw | sh3addUw
  | andn | orn | xnor | max | maxu | min | minu | rol | ror | rolw | rorw
  deriving DecidableEq, Repr
/-- One register: Zbb. -/
inductive RvUn where
  | clz | ctz | cpop | sextB | sextH | zextH | orcB | rev8 | clzw | ctzw | cpopw
  deriving DecidableEq, Repr
/-- The CSRs of a hand (R225). -/
inductive HCsr where
  | cycle | time | instret | hid | hfeat
  deriving DecidableEq, Repr

/-- An RV64IMC, Zicsr, Zba or Zbb instruction of a hand, compressed forms expanded. Offsets of `jal` and `branch`
count halfwords. A CSR form that would write is Illegal-Encoding (R225), so only reads remain: `clr` tells csrrc from
csrrs, `im` the immediate forms. -/
inductive RvOp where
  | lui (rd : Reg) (imm : BitVec 20)
  | auipc (rd : Reg) (imm : BitVec 20)
  | jal (rd : Reg) (off : BitVec 20)
  | jalr (rd rs1 : Reg) (imm : BitVec 12)
  | branch (c : RvCond) (rs1 rs2 : Reg) (off : BitVec 12)
  | load (o : RvLoad) (rd rs1 : Reg) (imm : BitVec 12)
  | store (o : RvStore) (rs1 rs2 : Reg) (imm : BitVec 12)
  | opImm (o : RvImm) (rd rs1 : Reg) (imm : BitVec 12)
  | shImm (o : RvSh) (rd rs1 : Reg) (sh : BitVec 6)
  | op (o : RvRR) (rd rs1 rs2 : Reg)
  | unary (o : RvUn) (rd rs1 : Reg)
  | csr (clr im : Bool) (rd : Reg) (num : HCsr)
  deriving DecidableEq, Repr

/-- The instruction stands in the code as a 32-bit word or as the compressed halfword given. -/
inductive RvForm where
  | full
  | compressed (h : Half)
  deriving DecidableEq, Repr

/-- The privileged operations that a hand refuses (R227). -/
inductive RvPriv where
  | mret | sret | wfi
  deriving DecidableEq, Repr

/-! Where events strike. -/

/-- A party that waits: the bundle stalled on core `k`, a context parked in a yield, a hand. -/
inductive Waiter where
  | core (k : Nat)
  | parked (k c : Nat)
  | hand (k : Nat) (r : Role)
  deriving DecidableEq, Repr

/-- A global write that has not yet performed everywhere: a committed store of core `k`, or a dirty byte of die
`d`'s L2 at physical byte `a`. -/
inductive StoreSel where
  | pending (k n : Nat)
  | dirty (d a : Nat)
  deriving DecidableEq, Repr

/-- A row unit (R237). -/
inductive UnitId where
  | vault (v u : Nat)
  | base (stack u : Nat)
  deriving DecidableEq, Repr

/-- A channel that alternates between row and ordinary service (R323). -/
inductive ChanId where
  | vault (v ch : Nat)
  | stack (s grp : Nat)
  deriving DecidableEq, Repr

/-- What an access waits for: a domain in RETENTION (R379), or a channel that a row unit holds (R323). -/
inductive Await where
  | domain (i : Nat)
  | channel (c : ChanId)
  deriving DecidableEq, Repr

/-- Who writes bag slots: a Vault's gather (R253) or a die's Exchange (R264). -/
inductive BagSrc where
  | vault (v : Nat)
  | exchange (d : Nat)
  deriving DecidableEq, Repr

/-- Where an error is found (R333 to R335): the sector that the scrubber reads, or that an agent reads, by its physical address
divided by 64; an 8-byte unit of a typed buffer; a line of a die's L2, in a slice of the yard `y`; another memory of a domain
(latches, snapshot buffers, L2 tags, registers, row-unit stores). -/
inductive ErrSite where
  | scrub (key : Nat)
  | sector (key : Nat)
  | unit (k : Nat) (b : Buf) (u : Nat)
  | line (d y u : Nat)
  | other (i : Nat)
  deriving DecidableEq, Repr

/-- What a scrub step finds (R335). -/
inductive ScrubResult where
  | clean | corrected | uncorrectable
  deriving DecidableEq, Repr

/-- A packet lost with its link, by the agent that it is reported to (R368): an engine command of core `k`, the row service of the
n-th command of a Vault, the global access of the bundle that core `k` holds, a committed store of core `k` by its place in commit
order, a line that the L2 of die `d` writes back, a work entry, an Exchange stage, a message in flight, the card that a Dispatcher
reads next, the report of a card, the save or the restore of a context, or an access of a die's page service. `memErr` says
which error it reports. -/
inductive HeldPacket where
  | transfer (k : Nat) (ch : BitVec 4) (id : Dword) (memErr : Bool)
  | access (k : Nat)
  | store (k ord : Nat)
  | entry (d qp eseq : Nat) (memErr : Bool)
  | stage (d uid : Nat) (memErr : Bool)
  | message (n : Nat)
  | row (v n : Nat) (memErr : Bool)
  | line (d a : Nat)
  | card (d : Nat)
  | report (n : Nat)
  | save (k c : Nat)
  | pageService (d : Nat)
  deriving DecidableEq, Repr

/-- What a wear computation reads of a domain's sensors (R382): the delay drift and its end-of-life value, the temperature and
the domain voltage over the nominal one of the last hour, the eye margin and its first value (0 over 0 where there is none). -/
structure WearSensors where
  drift : Nat × Nat
  temp : BitVec 16
  volt : Nat × Nat
  eye : Nat × Nat
  deriving DecidableEq, Repr

/-- What the host or the driver reaches beside memory: a BAR0 register that it writes or reads (R370); the address space that
it binds to a queue pair or a group entry (R336); a space's default tier (R350); and what firmware holds for it: a die's
supervisor root (R298), where a tier's frame table lies, a frame word (R345). -/
inductive HostAccess where
  | write (off : Nat)
  | read (off : Nat)
  | qpSpace (d qp : Nat)
  | groupSpace (g : Nat)
  | defaultTier (asid : BitVec 16)
  | supervisorRoot (d : Nat)
  | frameTable (tier : Nat)
  | frame (f : Nat)
  deriving DecidableEq, Repr

/-- MODE of a table command (R247). -/
inductive PoolMode where
  | sum | mean | max | stats
  deriving DecidableEq, Repr

/-- One position of a bag part on the wire (R264): list position, local index, weight. -/
structure PartPos where
  pos : Nat
  idx : Dword
  wt : Word
  deriving DecidableEq, Repr

/-- A bag's part for one owner. -/
structure BagPart where
  bag : Nat
  mem : List PartPos
  deriving DecidableEq, Repr

/-- A GATHER message to an owner (R262, R264). -/
structure PartReq where
  group : Nat
  srcRank : Nat
  dm1 : Nat
  b : Nat
  die : Nat
  stage : Nat
  table : BitVec 16
  mode : PoolMode
  fence : Bool
  parts : List BagPart
  deriving DecidableEq, Repr

/-- An owner's answer for one bag part: its partial, or the lowest position out of range. -/
structure PartialBag where
  bag : Nat
  poison : Option Nat
  split : Bool
  out : List Word
  deriving DecidableEq, Repr

/-- A GATHER answer; `ok` false ends the stage with a Remote-Error (R262). -/
structure PartialMsg where
  /-- The Vault that answers. -/
  vault : Nat
  die : Nat
  stage : Nat
  rank : Nat
  ok : Bool
  parts : List PartialBag
  deriving DecidableEq, Repr

/-- One pair of an UPDATE (R265): source position, local index, global index, gradient row. -/
structure UpdPair where
  pos : Nat
  idx : Int
  glob : Dword
  grad : List Word
  deriving DecidableEq, Repr

/-- A rank's count and pairs for one owner (R265). -/
structure CountMsg where
  group : Nat
  rank : Nat
  dm1 : Nat
  b : Nat
  tag : Word
  table : BitVec 16
  prog : BitVec 8
  seq : Bool
  fence : Bool
  consts : List Word
  die : Nat
  stage : Nat
  pairs : List UpdPair
  deriving DecidableEq, Repr

/-- An owner's acknowledgement to a rank (R266); the pairs it dropped for their index go with it (R265). -/
structure AckMsg where
  /-- The Vault that answers. -/
  vault : Nat
  die : Nat
  stage : Nat
  owner : Nat
  ok : Bool
  dropped : List (Nat × Dword)
  deriving DecidableEq, Repr

/-- What a Clearing chunk does to each destination element (R270). -/
inductive EntryOp where
  | copy | narrow | sum | max | min | triple | bxexp | bxsum | bxfin
  deriving DecidableEq, Repr

/-- The identity of an open entry at a target (R275). -/
structure EntryId where
  group : Nat
  srcRank : Nat
  die : Nat
  qp : Nat
  eseq : Nat
  deriving DecidableEq, Repr

/-- A chunk of at most 1,024 elements (R275): incoming values as integers of the wire form. -/
structure Chunk where
  id : EntryId
  c : Nat
  last : Bool
  op : EntryOp
  ddie : Nat
  dst : Dword
  data : List Int
  deriving DecidableEq, Repr

/-- What travels between modules, or between engines of this one. -/
inductive Msg where
  | notify (core : Nat) (flag : BitVec 5) (amt : Nat) (asid : BitVec 16) (fromK fromC : Nat) (ch : BitVec 4) (id : Dword)
      (src card : Nat) (baddr : Dword)
  | bagPart (m : PartReq)
  | bagDone (m : PartialMsg)
  | count (m : CountMsg)
  | ack (m : AckMsg)
  | chunk (m : Chunk)
  | chunkAck (id : EntryId) (c : Nat) (fl : BitVec 5) (fail : Option Cause) (src : Nat)
  | counter (group rank die ctr : Nat) (set : Bool) (amt : Word) (reply : Option EntryId) (src : Nat)
  | counterAck (id : EntryId) (src : Nat)
  deriving DecidableEq, Repr

/-- Where an arriving message comes from: the n-th message in flight inside this module, or another module (DESIGN
CHOICE, log entry 42). -/
inductive MsgSrc where
  | inFlight (n : Nat)
  | fromPeer (m : Msg)
  deriving DecidableEq, Repr

/-- A micro-word of a row program, as its decoder reads it (R240). -/
inductive RowOp where
  | rowNop
  | rowNext (lbl : BitVec 10)
  | rowBr (lbl : BitVec 10)
  | rowLoop (sa : BitVec 4) (lbl : BitVec 10)
  | rowHalt
  | rowLdt (gd : RowReg)
  | rowLdg (gd : RowReg)
  | rowLds (gd : RowReg) (p : Bool)
  | rowLdss (sd : BitVec 4) (q : BitVec 2)
  | rowLdc (sd : BitVec 4) (c : BitVec 3)
  | rowMovi (sd : BitVec 4) (imm : Word)
  | rowAdd (gd ga gb : RowReg)
  | rowSub (gd ga gb : RowReg)
  | rowMul (gd ga gb : RowReg)
  | rowMac (gd ga gb : RowReg)
  | rowSmul (gd ga : RowReg) (sb : BitVec 4)
  | rowSmac (gd ga : RowReg) (sb : BitVec 4)
  | rowSq (gd ga : RowReg)
  | rowMax (gd ga gb : RowReg)
  | rowHsum (sd : BitVec 4) (ga : RowReg)
  | rowRsq (gd ga : RowReg) (sb : BitVec 4)
  | rowSopAdd (sd sa sb : BitVec 4)
  | rowSopSub (sd sa sb : BitVec 4)
  | rowSopMul (sd sa sb : BitVec 4)
  | rowSopDiv (sd sa sb : BitVec 4)
  | rowSopMac (sd sa sb : BitVec 4)
  | rowSopRsqe (sd sa sb : BitVec 4)
  | rowSopMax (sd sa sb : BitVec 4)
  | rowSopMov (sd sa : BitVec 4)
  | rowQacc (t : Bool) (ga : RowReg) (sb : BitVec 4)
  | rowQmix (t u : Bool)
  | rowQnew (t : Bool)
  | rowStq (ga : RowReg)
  | rowStqRq (ga : RowReg)
  | rowSts (ga : RowReg) (p : Bool)
  | rowStss (sa : BitVec 4) (q : BitVec 2)
  | rowEmit (ga : RowReg)
  | rowEmitq (t : Bool)
  deriving DecidableEq, Repr

/-- What the host brings to a long move (R340, R351): the bytes of a page that was absent, by their places in it, or the
handle of one that is absent from now on. -/
structure HostPage where
  bytes : List (Nat × Byte) := []
  handle : BitVec 36 := 0
  deriving DecidableEq, Repr

/-- The instructions and events of the machine, one for each row of spec/opcode_table.json. -/
inductive Instr where
  /-- R81: An all-zero slot or bundle has no effect; a NOP bundle still counts as an issued bundle. -/
  | nop
  /-- R113: Writes a + b modulo 2^64 to rd. -/
  | add (g : Guard) (rd ra rb : Reg)
  /-- R113: Writes a − b modulo 2^64 to rd. -/
  | sub (g : Guard) (rd ra rb : Reg)
  /-- R113: Writes the bitwise and of a and b. -/
  | andR (g : Guard) (rd ra rb : Reg)
  /-- R113: Writes the bitwise or of a and b. -/
  | orR (g : Guard) (rd ra rb : Reg)
  /-- R113: Writes the bitwise xor of a and b. -/
  | xor (g : Guard) (rd ra rb : Reg)
  /-- R113: Shifts a left by b[5:0] bits. -/
  | sll (g : Guard) (rd ra rb : Reg)
  /-- R113: Shifts a right logically by b[5:0] bits. -/
  | srl (g : Guard) (rd ra rb : Reg)
  /-- R113: Shifts a right arithmetically by b[5:0] bits. -/
  | sra (g : Guard) (rd ra rb : Reg)
  /-- R113: Writes 1 if a is less than b as signed values, else 0. -/
  | slt (g : Guard) (rd ra rb : Reg)
  /-- R113: Writes 1 if a is less than b as unsigned values, else 0. -/
  | sltu (g : Guard) (rd ra rb : Reg)
  /-- R113: Writes the signed minimum of a and b. -/
  | min (g : Guard) (rd ra rb : Reg)
  /-- R113: Writes the signed maximum of a and b. -/
  | max (g : Guard) (rd ra rb : Reg)
  /-- R113: Writes the unsigned minimum of a and b. -/
  | minu (g : Guard) (rd ra rb : Reg)
  /-- R113: Writes the unsigned maximum of a and b. -/
  | maxu (g : Guard) (rd ra rb : Reg)
  /-- R114: Adds a sign-extended 28-bit immediate to a. -/
  | addi (g : Guard) (rd ra : Reg) (imm : BitVec 28)
  /-- R114: Ands a with a sign-extended 28-bit immediate. -/
  | andi (g : Guard) (rd ra : Reg) (imm : BitVec 28)
  /-- R114: Ors a with a sign-extended 28-bit immediate. -/
  | ori (g : Guard) (rd ra : Reg) (imm : BitVec 28)
  /-- R114: Xors a with a sign-extended 28-bit immediate. -/
  | xori (g : Guard) (rd ra : Reg) (imm : BitVec 28)
  /-- R114: Shifts a left by an immediate amount. -/
  | slli (g : Guard) (rd ra : Reg) (sh : BitVec 6)
  /-- R114: Shifts a right logically by an immediate amount. -/
  | srli (g : Guard) (rd ra : Reg) (sh : BitVec 6)
  /-- R114: Shifts a right arithmetically by an immediate amount. -/
  | srai (g : Guard) (rd ra : Reg) (sh : BitVec 6)
  /-- R115: Writes the sign-extended 33-bit immediate to rd. -/
  | li (g : Guard) (rd : Reg) (imm : BitVec 33)
  /-- R115: Replaces rd[63:31] with the immediate adjusted by rd[30], keeping rd[30:0]. -/
  | lih (g : Guard) (rd : Reg) (imm : BitVec 33)
  /-- R116: Writes the low 64 bits of a × b. -/
  | mul (g : Guard) (rd ra rb : Reg)
  /-- R116: Writes the high 64 bits of the signed product a × b. -/
  | mulh (g : Guard) (rd ra rb : Reg)
  /-- R116: Writes the high 64 bits of the unsigned product a × b. -/
  | mulhu (g : Guard) (rd ra rb : Reg)
  /-- R116: Writes the signed quotient rounded towards zero, with fixed results for division by zero and overflow. -/
  | div (g : Guard) (rd ra rb : Reg)
  /-- R116: Writes the unsigned quotient. -/
  | divu (g : Guard) (rd ra rb : Reg)
  /-- R116: Writes the signed remainder, whose sign follows a. -/
  | rem (g : Guard) (rd ra rb : Reg)
  /-- R116: Writes the unsigned remainder. -/
  | remu (g : Guard) (rd ra rb : Reg)
  /-- R117: Counts the leading zero bits of a. -/
  | clz (g : Guard) (rd ra : Reg)
  /-- R117: Counts the trailing zero bits of a. -/
  | ctz (g : Guard) (rd ra : Reg)
  /-- R117: Counts the one bits of a. -/
  | popc (g : Guard) (rd ra : Reg)
  /-- R117: Sign-extends the low byte of a. -/
  | sextB (g : Guard) (rd ra : Reg)
  /-- R117: Sign-extends the low half of a. -/
  | sextH (g : Guard) (rd ra : Reg)
  /-- R117: Sign-extends the low word of a. -/
  | sextW (g : Guard) (rd ra : Reg)
  /-- R117: Zero-extends the low byte of a. -/
  | zextB (g : Guard) (rd ra : Reg)
  /-- R117: Zero-extends the low half of a. -/
  | zextH (g : Guard) (rd ra : Reg)
  /-- R117: Zero-extends the low word of a. -/
  | zextW (g : Guard) (rd ra : Reg)
  /-- R118: Sets predicate pd if a = b. -/
  | cmpEq (g : Guard) (pd : PReg) (ra rb : Reg)
  /-- R118: Sets predicate pd if a ≠ b. -/
  | cmpNe (g : Guard) (pd : PReg) (ra rb : Reg)
  /-- R118: Sets predicate pd if a < b as signed values. -/
  | cmpLt (g : Guard) (pd : PReg) (ra rb : Reg)
  /-- R118: Sets predicate pd if a < b as unsigned values. -/
  | cmpLtu (g : Guard) (pd : PReg) (ra rb : Reg)
  /-- R118: Sets predicate pd if a ≥ b as signed values. -/
  | cmpGe (g : Guard) (pd : PReg) (ra rb : Reg)
  /-- R118: Sets predicate pd if a ≥ b as unsigned values. -/
  | cmpGeu (g : Guard) (pd : PReg) (ra rb : Reg)
  /-- R118: Sets predicate pd if a equals the 25-bit immediate. -/
  | cmpiEq (g : Guard) (pd : PReg) (ra : Reg) (imm : BitVec 25)
  /-- R118: Sets predicate pd if a differs from the immediate. -/
  | cmpiNe (g : Guard) (pd : PReg) (ra : Reg) (imm : BitVec 25)
  /-- R118: Sets predicate pd if a < immediate as signed values. -/
  | cmpiLt (g : Guard) (pd : PReg) (ra : Reg) (imm : BitVec 25)
  /-- R118: Sets predicate pd if a < immediate as unsigned values. -/
  | cmpiLtu (g : Guard) (pd : PReg) (ra : Reg) (imm : BitVec 25)
  /-- R118: Sets predicate pd if a ≥ immediate as signed values. -/
  | cmpiGe (g : Guard) (pd : PReg) (ra : Reg) (imm : BitVec 25)
  /-- R118: Sets predicate pd if a ≥ immediate as unsigned values. -/
  | cmpiGeu (g : Guard) (pd : PReg) (ra : Reg) (imm : BitVec 25)
  /-- R119: Writes pa and pb to pd. -/
  | pand (g : Guard) (pd pa pb : PReg)
  /-- R119: Writes pa or pb to pd. -/
  | por (g : Guard) (pd pa pb : PReg)
  /-- R119: Writes pa xor pb to pd. -/
  | pxor (g : Guard) (pd pa pb : PReg)
  /-- R119: Writes not pa to pd. -/
  | pnot (g : Guard) (pd pa : PReg)
  /-- R120: Loads a zero-extended byte from a buffer or global address. -/
  | ldB (g : Guard) (rd ra : Reg) (sp : Space) (imm : BitVec 23)
  /-- R120: Loads a sign-extended byte. -/
  | ldBs (g : Guard) (rd ra : Reg) (sp : Space) (imm : BitVec 23)
  /-- R120: Loads a zero-extended half. -/
  | ldH (g : Guard) (rd ra : Reg) (sp : Space) (imm : BitVec 23)
  /-- R120: Loads a sign-extended half. -/
  | ldHs (g : Guard) (rd ra : Reg) (sp : Space) (imm : BitVec 23)
  /-- R120: Loads a zero-extended word. -/
  | ldW (g : Guard) (rd ra : Reg) (sp : Space) (imm : BitVec 23)
  /-- R120: Loads a sign-extended word. -/
  | ldWs (g : Guard) (rd ra : Reg) (sp : Space) (imm : BitVec 23)
  /-- R120: Loads a dword. -/
  | ldD (g : Guard) (rd ra : Reg) (sp : Space) (imm : BitVec 23)
  /-- R120: Stores the low byte of rs. -/
  | stB (g : Guard) (rs ra : Reg) (sp : Space) (imm : BitVec 23)
  /-- R120: Stores the low half of rs. -/
  | stH (g : Guard) (rs ra : Reg) (sp : Space) (imm : BitVec 23)
  /-- R120: Stores the low word of rs. -/
  | stW (g : Guard) (rs ra : Reg) (sp : Space) (imm : BitVec 23)
  /-- R120: Stores rs as a dword. -/
  | stD (g : Guard) (rs ra : Reg) (sp : Space) (imm : BitVec 23)
  /-- R124: Atomically adds b to a global dword and returns the old value. -/
  | amoAdd (g : Guard) (rd ra rb : Reg) (sc : Scope)
  /-- R124: Atomically ands b into a global dword. -/
  | amoAnd (g : Guard) (rd ra rb : Reg) (sc : Scope)
  /-- R124: Atomically ors b into a global dword. -/
  | amoOr (g : Guard) (rd ra rb : Reg) (sc : Scope)
  /-- R124: Atomically xors b into a global dword. -/
  | amoXor (g : Guard) (rd ra rb : Reg) (sc : Scope)
  /-- R124: Atomically takes the signed minimum of a global dword and b. -/
  | amoMin (g : Guard) (rd ra rb : Reg) (sc : Scope)
  /-- R124: Atomically takes the signed maximum of a global dword and b. -/
  | amoMax (g : Guard) (rd ra rb : Reg) (sc : Scope)
  /-- R124: Atomically swaps b into a global dword. -/
  | amoSwap (g : Guard) (rd ra rb : Reg) (sc : Scope)
  /-- R124: Atomically writes b to a global dword if it equals RC's value. -/
  | amoCas (g : Guard) (rd ra rb rc : Reg) (sc : Scope)
  /-- R124: Word form of amo.add. -/
  | amoAddW (g : Guard) (rd ra rb : Reg) (sc : Scope)
  /-- R124: Word form of amo.and. -/
  | amoAndW (g : Guard) (rd ra rb : Reg) (sc : Scope)
  /-- R124: Word form of amo.or. -/
  | amoOrW (g : Guard) (rd ra rb : Reg) (sc : Scope)
  /-- R124: Word form of amo.xor. -/
  | amoXorW (g : Guard) (rd ra rb : Reg) (sc : Scope)
  /-- R124: Word form of amo.min. -/
  | amoMinW (g : Guard) (rd ra rb : Reg) (sc : Scope)
  /-- R124: Word form of amo.max. -/
  | amoMaxW (g : Guard) (rd ra rb : Reg) (sc : Scope)
  /-- R124: Word form of amo.swap. -/
  | amoSwapW (g : Guard) (rd ra rb : Reg) (sc : Scope)
  /-- R124: Word form of amo.cas. -/
  | amoCasW (g : Guard) (rd ra rb rc : Reg) (sc : Scope)
  /-- R125: Branches pc-relative when its guard holds. -/
  | br (g : Guard) (off : BitVec 33)
  /-- R125: Branches pc-relative and writes the link pc + 32. -/
  | call (g : Guard) (rd : Reg) (off : BitVec 33)
  /-- R126: Jumps to the address in ra. -/
  | jr (g : Guard) (ra : Reg)
  /-- R126: Jumps to the address in ra and writes the link pc + 32. -/
  | jalr (g : Guard) (rd ra : Reg)
  /-- R128: Starts zero-overhead loop level LV with a count, or skips the body when the count is zero. -/
  | loop (g : Guard) (lv : BitVec 3) (ra : Reg) (imm : BitVec 30)
  /-- R131: Reads COUNT of a loop level. -/
  | lctlRd (g : Guard) (rd : Reg) (lv : BitVec 3)
  /-- R131: Reads BOUND of a loop level. -/
  | lctlBnd (g : Guard) (rd : Reg) (lv : BitVec 3)
  /-- R131: Clears ACT of a loop level, so its next LEND bundle falls through. -/
  | lctlBrk (g : Guard) (lv : BitVec 3)
  /-- R133: Reads a CSR into rd. -/
  | csrr (g : Guard) (rd : Reg) (csr : Csr)
  /-- R133: Writes a CSR field by field under its access codes and returns the old value. -/
  | csrw (g : Guard) (rd ra : Reg) (csr : Csr)
  /-- R133: Sets CSR bits and returns the old value. -/
  | csrs (g : Guard) (rd ra : Reg) (csr : Csr)
  /-- R133: Clears CSR bits and returns the old value. -/
  | csrc (g : Guard) (rd ra : Reg) (csr : Csr)
  /-- R294: Any write to ERPOP removes the oldest engine record. -/
  | erpop (g : Guard) (op : CsrOp) (rd ra : Reg)
  /-- R138: Orders the context's earlier global accesses at a scope before its later global accesses and engine commands. -/
  | fence (g : Guard) (sc : Scope)
  /-- R138: Holds issue until the context's earlier global stores and atomics have performed at a scope. -/
  | drain (g : Guard) (sc : Scope)
  /-- R139: Raises Software-Trap with its immediate as the trap value. -/
  | trap (g : Guard) (imm : BitVec 11)
  /-- R139: Raises Breakpoint when BRKEN is 1, and otherwise does nothing. -/
  | brk (g : Guard) (imm : BitVec 11)
  /-- R140: Leaves the handler and resumes at EPCB from slot SLOTRES, or traps again when a record is pending. -/
  | eret (g : Guard)
  /-- R141: Ends the context after fill bundles land its results, recording the exit status. -/
  | exit (g : Guard) (imm : BitVec 11)
  /-- R142: Reads TIMEBASE. -/
  | rdtime (g : Guard) (rd : Reg)
  /-- R142: Reads the accepted or the published FEAT word. -/
  | rdfeat (g : Guard) (rd : Reg) (sel : Bool)
  /-- R150: Adds two vectors lane by lane. -/
  | vadd (a : VArgs)
  /-- R150: Subtracts two vectors lane by lane. -/
  | vsub (a : VArgs)
  /-- R150: Multiplies two vectors lane by lane. -/
  | vmul (a : VArgs)
  /-- R150: Computes a × b + c with one rounding. -/
  | vfma (a : VArgs)
  /-- R150: Computes c − a × b with one rounding. -/
  | vfnma (a : VArgs)
  /-- R150: Takes the lane minimum. -/
  | vmin (a : VArgs)
  /-- R150: Takes the lane maximum. -/
  | vmax (a : VArgs)
  /-- R150: Takes the lane absolute value. -/
  | vabs (a : VArgs)
  /-- R150: Negates each lane. -/
  | vneg (a : VArgs)
  /-- R150: Adds the IMM0 constant to each lane. -/
  | vaddi (a : VArgs)
  /-- R150: Multiplies each lane by the IMM0 constant. -/
  | vmuli (a : VArgs)
  /-- R151: Ands INT32 lanes. -/
  | vand (a : VArgs)
  /-- R151: Ors INT32 lanes. -/
  | vor (a : VArgs)
  /-- R151: Xors INT32 lanes. -/
  | vxor (a : VArgs)
  /-- R151: Shifts INT32 lanes left. -/
  | vshl (a : VArgs)
  /-- R151: Shifts INT32 lanes right logically. -/
  | vshr (a : VArgs)
  /-- R151: Shifts INT32 lanes right arithmetically. -/
  | vsra (a : VArgs)
  /-- R152: Writes an all-ones mask where the lanes are equal. -/
  | vcmpEq (a : VArgs)
  /-- R152: Writes an all-ones mask where the lanes differ. -/
  | vcmpNe (a : VArgs)
  /-- R152: Writes an all-ones mask where a < b. -/
  | vcmpLt (a : VArgs)
  /-- R152: Writes an all-ones mask where a ≤ b. -/
  | vcmpLe (a : VArgs)
  /-- R152: Writes an all-ones mask where a > b. -/
  | vcmpGt (a : VArgs)
  /-- R152: Writes an all-ones mask where a ≥ b. -/
  | vcmpGe (a : VArgs)
  /-- R152: Writes an all-ones mask where either input is NaN. -/
  | vcmpUn (a : VArgs)
  /-- R152: Selects va or vb per lane by the mask register named in IMM0. -/
  | vsel (a : VArgs)
  /-- R153: Converts each lane from FA to FD. -/
  | vcvt (a : VArgs)
  /-- R154: Applies an E8M0 block offset to each lane. -/
  | vbscl (a : VArgs)
  /-- R155: Shuffles lanes within each group by the SHUF pattern. -/
  | vshuf (a : VArgs)
  /-- R155: Broadcasts one lane to every lane. -/
  | vbcast (a : VArgs)
  /-- R155: Moves whole lane groups across groups. -/
  | vxmov (a : VArgs)
  /-- R155: Sums each lane group in a fixed tree. -/
  | vgredAdd (a : VArgs)
  /-- R155: Takes the maximum of each lane group in a fixed tree. -/
  | vgredMax (a : VArgs)
  /-- R155: Takes the minimum of each lane group in a fixed tree. -/
  | vgredMin (a : VArgs)
  /-- R156: Computes a correctly rounded reciprocal. -/
  | vrcp (a : VArgs)
  /-- R156: Computes a correctly rounded reciprocal square root. -/
  | vrsqrt (a : VArgs)
  /-- R156: Computes a correctly rounded square root. -/
  | vsqrt (a : VArgs)
  /-- R156: Computes 2 to the power of the scaled argument. -/
  | vexp2 (a : VArgs)
  /-- R156: Computes the base-2 logarithm. -/
  | vlog2 (a : VArgs)
  /-- R156: Computes e to the power of the scaled argument. -/
  | vexp (a : VArgs)
  /-- R156: Computes the natural logarithm. -/
  | vlog (a : VArgs)
  /-- R156: Computes tanh. -/
  | vtanh (a : VArgs)
  /-- R156: Computes the logistic sigmoid. -/
  | vsigm (a : VArgs)
  /-- R156: Computes a correctly rounded a / b. -/
  | vdiv (a : VArgs)
  /-- R157: Loads lanes from a typed buffer, contiguous or strided. -/
  | vld (a : VArgs)
  /-- R157: Stores lanes to a typed buffer at commit. -/
  | vst (a : VArgs)
  /-- R157: Gathers lanes from a typed buffer by the index vector va. -/
  | vldx (a : VArgs)
  /-- R157: Scatters lanes to a typed buffer by the index vector va. -/
  | vstx (a : VArgs)
  /-- R158: Reads a ring slot at HEAD + k, stalling until that slot is filled. -/
  | vrd (a : VArgs)
  /-- R158: Writes a ring slot at TAIL + k, stalling until that slot is free. -/
  | vwr (a : VArgs)
  /-- R160: Sets every enabled triple lane to EMPTY. -/
  | qclr (a : VArgs)
  /-- R160: Updates each triple with a value of weight 1.0. -/
  | qupd (a : VArgs)
  /-- R160: Updates each triple with a weighted value. -/
  | qupdW (a : VArgs)
  /-- R160: Merges two triple registers lane by lane. -/
  | qmrg (a : VArgs)
  /-- R160: Merges raw triples held in three vector registers into qd. -/
  | qmrgV (a : VArgs)
  /-- R161: Merges the triples of each lane group in a fixed tree. -/
  | qred (a : VArgs)
  /-- R161: Merges lane 16g of each group in a fixed cross-group tree. -/
  | qxm (a : VArgs)
  /-- R162: Extracts W, the mean, a variance or a deviation from each triple. -/
  | qext (a : VArgs)
  /-- R162: Copies the raw bits of one word of each triple. -/
  | qraw (a : VArgs)
  /-- R163: Normalises lanes with the mean and reciprocal deviation of a triple. -/
  | qnorm (a : VArgs)
  /-- R163: Normalises lanes and then applies γ and β. -/
  | qnormA (a : VArgs)
  /-- R164: Loads a statistics register from a typed buffer. -/
  | qld (a : VArgs)
  /-- R164: Stores a statistics register to a typed buffer. -/
  | qst (a : VArgs)
  /-- R159: Clears masked bits of the slot's own sticky flag set. -/
  | vfclr (a : VArgs)
  /-- R159: Clears FEVR and CSTAT.FEVV. -/
  | vfevclr (a : VArgs)
  /-- R179: Sets the pending Mint mode to weight-stationary and queues the switch. -/
  | mmodeWs (g : Guard)
  /-- R179: Sets the pending Mint mode to result-stationary and queues the switch, which clears the accumulator tile. -/
  | mmodeRs (g : Guard)
  /-- R180: Queues a load of a latch from a W-buffer tile, with K down the stored columns. -/
  | mlatch (g : Guard) (fb : Fmt) (l : BitVec 2) (mp : BitVec 3)
  /-- R180: Queues a transposed latch load, with K along the stored rows. -/
  | mlatchT (g : Guard) (fb : Fmt) (l : BitVec 2) (mp : BitVec 3)
  /-- R182: Queues a weight-stationary stream of an A tile from a ring through a latch into the C-buffer. -/
  | mstream (g : Guard) (fa fb : Fmt) (l : BitVec 2) (mp : BitVec 3) (h : BitVec 4)
  /-- R182: Queues a weight-stationary stream of an A tile read directly from the A-buffer. -/
  | mstreamD (g : Guard) (fa fb : Fmt) (l : BitVec 2) (mp : BitVec 3)
  /-- R183: Queues accumulation of X^T · dY into the accumulator tile, with X from a ring. -/
  | mouter (g : Guard) (fa fb : Fmt) (mp : BitVec 3) (h : BitVec 4)
  /-- R183: Queues accumulation of X^T · dY into the accumulator tile, with X read directly from the A-buffer. -/
  | mouterD (g : Guard) (fa fb : Fmt) (mp : BitVec 3)
  /-- R175: Loads one parameter dword from the W-buffer into a parameter register within the slot. -/
  | mscale (g : Guard) (mp : BitVec 3) (idx : BitVec 10)
  /-- R186: Queues a drain of C rows with optional statistics and normalisation, quantised to the plain tile and the transposed copy. -/
  | mdrain (g : Guard) (fa fb : Fmt) (mp : BitVec 3)
  /-- R189: Queues the signature stage on a ring window, producing the map and the representatives only. -/
  | msig (g : Guard) (fa : Fmt) (mp : BitVec 3) (h : BitVec 4)
  /-- R189: Queues the signature stage on an A-buffer window, producing the map and the representatives only. -/
  | msigD (g : Guard) (fa : Fmt) (mp : BitVec 3)
  /-- R194: Queues the signature stage on a ring window and streams the representatives through a latch. -/
  | msigS (g : Guard) (fa fb : Fmt) (l : BitVec 2) (mp : BitVec 3) (h : BitVec 4)
  /-- R194: Queues the signature stage on an A-buffer window and streams the representatives through a latch. -/
  | msigSD (g : Guard) (fa fb : Fmt) (l : BitVec 2) (mp : BitVec 3)
  /-- R197: Queues a drain whose output rows take their C rows through a membership map. -/
  | mexpand (g : Guard) (fa fb : Fmt) (mp : BitVec 3)
  /-- R198: Queues a fold that sums member rows of a gradient into their representatives. -/
  | mfold (g : Guard) (fa fb : Fmt) (mp : BitVec 3)
  /-- R184: Queues a write of the accumulator tile to the C-buffer. -/
  | mspillSt (g : Guard) (mp : BitVec 3)
  /-- R184: Queues a load of the accumulator tile from the C-buffer. -/
  | mspillLd (g : Guard) (mp : BitVec 3)
  /-- R184: Queues the clearing of the accumulator tile to +0. -/
  | mclearAcc (g : Guard)
  /-- R184: Queues the reset of a latch's elements, offsets and scale. -/
  | mclearLatch (g : Guard) (l : BitVec 2)
  /-- R203: Writes one field of a window record from a register. -/
  | wset (g : Guard) (c1 : Bool) (fld : BitVec 4) (w : BitVec 2) (xa : Reg)
  /-- R204: Checks a window record and writes a report without faulting. -/
  | wchk (g : Guard) (c1 : Bool) (w : BitVec 2) (xd : Reg)
  /-- R212: Starts a transfer that copies a window into a packed region. -/
  | dcopyRd (g : Guard) (c1 : Bool) (ch : BitVec 4) (w : BitVec 2) (xa : Reg)
  /-- R212: Starts a transfer that copies a packed region into a window. -/
  | dcopyWr (g : Guard) (c1 : Bool) (ch : BitVec 4) (w : BitVec 2) (xa : Reg)
  /-- R213: Starts a timed window-to-packed copy that begins no earlier than a TIMEBASE value. -/
  | dtcopyRd (g : Guard) (c1 : Bool) (ch : BitVec 4) (w : BitVec 2) (xa xb : Reg)
  /-- R213: Starts a timed packed-to-window copy. -/
  | dtcopyWr (g : Guard) (c1 : Bool) (ch : BitVec 4) (w : BitVec 2) (xa xb : Reg)
  /-- R210: Starts a transfer of a window into the next ring slot, with a producer advance at completion. -/
  | dpush (g : Guard) (c1 : Bool) (ch : BitVec 4) (w : BitVec 2) (h : BitVec 4) (xa : Reg)
  /-- R210: Pushes the end-of-stream token into a ring. -/
  | dpushEos (g : Guard) (c1 : Bool) (ch h : BitVec 4) (xb : Reg)
  /-- R210: Starts a transfer of a ring slot into a window, with a consumer advance at completion. -/
  | dpop (g : Guard) (c1 : Bool) (ch : BitVec 4) (w : BitVec 2) (h : BitVec 4) (xa : Reg)
  /-- R212: Starts a window read into a corner-turned packed region. -/
  | dstashRd (g : Guard) (c1 : Bool) (ch : BitVec 4) (w : BitVec 2) (xa : Reg)
  /-- R212: Starts a write from a corner-turned packed region into a window. -/
  | dstashWr (g : Guard) (c1 : Bool) (ch : BitVec 4) (w : BitVec 2) (xa : Reg)
  /-- R212: Starts a window read whose dimension-1 rows come from an index list. -/
  | dgather (g : Guard) (c1 : Bool) (ch : BitVec 4) (w : BitVec 2) (xa xb : Reg)
  /-- R214: Starts a window write by index list, in which the higher list position wins. -/
  | dscatter (g : Guard) (c1 : Bool) (ch : BitVec 4) (w : BitVec 2) (xa xb : Reg)
  /-- R214: Starts a window write by index list that sums rows with the same destination. -/
  | dscatterComb (g : Guard) (c1 : Bool) (ch : BitVec 4) (w : BitVec 2) (xa xb : Reg)
  /-- R247: Reads a table command record and sends a pooled gather to the table's Vault. -/
  | tgather (g : Guard) (c1 : Bool) (ch h : BitVec 4) (xa xb : Reg) (im : IrMode)
  /-- R247: Reads a table command record and sends an optimiser update to the table's Vault. -/
  | tupdate (g : Guard) (c1 : Bool) (ch : BitVec 4) (xa xb : Reg) (im : IrMode)
  /-- R247: Reads a table command record and sends Till promotions of the listed rows to the Vault. -/
  | tprefetch (g : Guard) (c1 : Bool) (ch : BitVec 4) (xa xb : Reg)
  /-- R261: Hands an Exchange stage descriptor to the die's Exchange as a transfer. -/
  | xsub (g : Guard) (c1 : Bool) (ch : BitVec 4) (xa xb : Reg)
  /-- R220: Writes a ring descriptor at commit, after checking it. -/
  | rdesc (g : Guard) (c1 : Bool) (h : BitVec 4) (xa xb : Reg)
  /-- R220: Reads one half of a ring descriptor. -/
  | rget (g : Guard) (c1 : Bool) (xd : Reg) (h : BitVec 4) (half : Bool)
  /-- R219: Reads LOW or NEXT of a channel, or DSHC. -/
  | dlow (g : Guard) (c1 : Bool) (xd : Reg) (ch : BitVec 4) (sel : BitVec 2)
  /-- R221: Waits until a flag reaches the count and then subtracts it, with acquire. -/
  | fwait (f : BitVec 5) (c : Cnt) (sc : Scope)
  /-- R221: Adds the count to a flag, with release. -/
  | fpost (f : BitVec 5) (c : Cnt) (sc : Scope)
  /-- R26: Consumer wait on a ring, reporting the data slots available and whether end-of-stream was reached. -/
  | rwaitC (xd : Reg) (h : BitVec 4) (c : Cnt)
  /-- R26: Producer wait for free ring slots. -/
  | rwaitP (h : BitVec 4) (c : Cnt)
  /-- R26: Consumer advance of a ring. -/
  | radvC (h : BitVec 4) (c : Cnt)
  /-- R26: Producer advance of a ring, with release. -/
  | radvP (h : BitVec 4) (c : Cnt)
  /-- R27: End-of-stream producer advance of a ring. -/
  | radvEos (h : BitVec 4)
  /-- R221: Waits on a channel's in-flight count or on LOW passing an identifier, with acquire. -/
  | dwait (ch : BitVec 4) (c : Cnt) (sc : Scope)
  /-- R223: A hand executes one RV64IMC, Zicsr, Zba or Zbb instruction in its own address map. -/
  | handRvInstruction (i : RvOp) (form : RvForm)
  /-- R227: ecall on a hand stops it with Software-Trap. -/
  | handEcall
  /-- R227: ebreak on a hand stops it with Breakpoint when BRKEN is 1, and otherwise does nothing. -/
  | handEbreak (form : RvForm)
  /-- R227: mret, sret or wfi on a hand stops it with Privilege. -/
  | handPrivileged (op : RvPriv)
  /-- R224: The RISC-V fence has no effect on a hand. -/
  | handRvFence (imm : BitVec 12) (rs1 rd : Reg)
  /-- R229: A hand issues a Dray copy-slot command from a syllable and receives its identifier. -/
  | hDcmd (rd rs1 : Reg)
  /-- R229: A hand issues a table or Exchange command from a syllable. -/
  | hTcmd (rd rs1 : Reg)
  /-- R230: A hand writes a field of its own window record. -/
  | hWset (w : BitVec 2) (fld : BitVec 4) (rs1 : Reg)
  /-- R230: A hand checks its window record and receives the report. -/
  | hWchk (rd : Reg) (w : BitVec 2)
  /-- R230: A hand reads LOW, NEXT or DSHC. -/
  | hDlow (rd : Reg) (ch : BitVec 4) (sel : BitVec 2)
  /-- R231: A hand waits until a channel's in-flight count is at most a value, with acquire. -/
  | hDwait (ch : BitVec 4) (rs1 : Reg) (sc : Scope)
  /-- R231: A hand waits until LOW passes an identifier, with acquire. -/
  | hDwaitId (ch : BitVec 4) (rs1 : Reg) (sc : Scope)
  /-- R232: A hand waits as a ring consumer and receives the report. -/
  | hRwaitC (rd : Reg) (h : BitVec 4) (rs1 : Reg)
  /-- R232: A hand waits as a ring producer. -/
  | hRwaitP (h : BitVec 4) (rs1 : Reg)
  /-- R232: A hand makes a consumer advance of a ring. -/
  | hRadvC (h : BitVec 4) (rs1 : Reg)
  /-- R232: A hand makes a producer advance of a ring, with release. -/
  | hRadvP (h : BitVec 4) (rs1 : Reg)
  /-- R232: A hand makes an end-of-stream producer advance of a ring. -/
  | hRadvEos (h : BitVec 4)
  /-- R232: A hand waits on a flag and subtracts the count, with acquire. -/
  | hFwait (f : BitVec 5) (rs1 : Reg) (sc : Scope)
  /-- R232: A hand posts a count to a flag, with release. -/
  | hFpost (f : BitVec 5) (rs1 : Reg) (sc : Scope)
  /-- R231: A hand waits until its issued transfers and table commands have completed at a scope. -/
  | hFence (sc : Scope)
  /-- R232: A hand reads one half of a ring descriptor. -/
  | hRget (rd : Reg) (h : BitVec 4) (half : Bool)
  /-- R226: A hand ends its program with a status. -/
  | hExit (status : BitVec 8)
  /-- R82: The core fetches and issues one 256-bit bundle, checks its header and then its slots in commit order, and commits the slots ahead of any faulting slot. -/
  | bundleIssue (k : Nat)
  /-- R36: A yield bundle issues once the fill bundles have let every exposed result land; the context then becomes READY, or WAITING if its wait is unsatisfiable. -/
  | yield (k : Nat)
  /-- R37: The core selects the next READY context by ageing, then priority, then round-robin, and takes a pending engine-record trap before that context's first bundle. -/
  | contextSelect (k : Nat)
  /-- R35: A WAITING context whose parked flag or ring wait has become satisfiable becomes READY. -/
  | waitSatisfied (k c : Nat)
  /-- R39: An exposed-latency register result lands immediately before the bundle its latency names, setting its flags and updating FEVR. -/
  | resultLands (k : Nat)
  /-- R33: A flag, ring or channel wait that passes the card's watchdog limit raises Sync-Timeout and leaves the flag or ring unchanged. -/
  | syncTimeout (who : Waiter)
  /-- R222: A stalled y-slot wait completes; the earlier slots commit and the y slot commits with its subtraction or advance. -/
  | syncWaitComplete (k : Nat)
  /-- R158: A vrd or vwr stalled on its ring slot finds the slot filled or free, and its bundle proceeds. -/
  | ringAccessResume (k : Nat)
  /-- R122: A global scalar access finishes translation and permission checks, faults or proceeds, and releases the held bundle when its value lands. -/
  | globalAccessComplete (k : Nat)
  /-- R278: A committed global store performs at a scope, some time after it commits. -/
  | globalStorePerform (sel : StoreSel) (sc : Scope)
  /-- R302: An engine delivers a 64-byte exception record to its issuing context or a hand's patron, updating ERSTAT and setting PEND, or counting the record as lost. -/
  | engineRecordDelivery (n : Nat)
  /-- R306: On a Dispatcher halt request the core stops the context's issue, abandons stalled bundles, snapshots results in flight, saves the vector registers and sets HALTED. -/
  | contextHalt (k c : Nat)
  /-- R309: A halted context is resumed: claimed state is restored and the context becomes READY, with its snapshot to replay. -/
  | contextResume (k c : Nat)
  /-- R310: An urgent context's first m-slot command makes the Mint stop halted work at a row boundary, hold the queued commands and scan out its state. -/
  | mintClaim (k : Nat)
  /-- R311: At a checkpoint boundary where an eviction request is set, the context becomes HALTED with its PC at the next address. -/
  | eviction (k : Nat)
  /-- R315: Once the context's engine commands have completed, the Save engine checks AREASZ, writes the save area and sets VALID, or on failure keeps the state and reports. -/
  | save (k c : Nat)
  /-- R316: On card resume the Save engine validates each save area, restores the context's state, clears VALID and makes the context READY. -/
  | restore (k c : Nat)
  /-- R365: Firmware tears down a failed card: it halts and clears the card's contexts, stops its hands and waits for their engine commands. -/
  | teardown (card : Nat)
  /-- R167: An entry frees in the full Mint queue, and the bundle stalled on it enqueues its command. -/
  | mintQueueEntryFree (k : Nat)
  /-- R168: A queued Mint command starts on its unit once the outcome cannot differ from in-order execution and any ring slot it reads or fills is ready. -/
  | mintCommandStart (k id : Nat)
  /-- R170: A Mint command retires: it makes its ring advances, posts its done flag and reports its FP events. -/
  | mintCommandRetire (k id : Nat)
  /-- R209: An entry frees in the full transfer pool or time buffer, and the stalled command is accepted. -/
  | transferPoolFree (who : Waiter)
  /-- R209: A channel starts its next transfer in identifier order, after any ring room or slot it needs is available. -/
  | transferStart (k ch n : Nat)
  /-- R213: The die's TIMEBASE reaches a timed copy's start time, and the copy starts. -/
  | dtcopyTimeReached (k ch id : Nat)
  /-- R216: A transfer completes: LOW advances, any ring advance is made and its notification is posted. -/
  | transferComplete (k ch id : Nat)
  /-- R218: An unrecoverable global-side fault ends a transfer without notification and writes an exception record. -/
  | transferFaultEnd (k ch id : Nat) (cause : Cause) (va : Dword)
  /-- R217: A remote notification arrives at its core and increments the flag only if the ASID and FLAGMASK test passes. -/
  | remoteNotifyArrival (m : MsgSrc)
  /-- R249: A table command reaches its Vault and is accepted in arrival order. -/
  | tableCommandArrival (k ch id : Nat)
  /-- R249: The Vault starts an accepted command once any table fence is satisfied, validating the table and splitting the work into items. -/
  | tableCommandStart (v n : Nat)
  /-- R237: A row unit starts an item, resetting its registers and loading the program if needed. -/
  | rowItemStart (v n it : Nat)
  /-- R244: An item that has executed 65,536 micro-words without halt is ended, and so is its command. -/
  | itemWordLimit (u : UnitId)
  /-- R325: A unit's requested row or state sectors complete, releasing a waiting load. -/
  | rowSectorReadDone (u : UnitId)
  /-- R252: The Vault combines a bag's Vault and Till partials by the mode's rule. -/
  | poolCombine (v n b : Nat)
  /-- R253: When a ring slot is free, the Vault writes a bag's output slot and advances the ring, pushing the token after the last bag if asked. -/
  | bagSlotWrite (src : BagSrc) (n : Nat)
  /-- R256: A table command completes once its sectors have performed or its last slot has advanced, updating LOW and notifying. -/
  | tableCommandComplete (v n : Nat)
  /-- R323: An ordinary request reaches a channel in row service and makes a turn pending. -/
  | ordinaryRequestArrival (c : ChanId)
  /-- R323: Once no unit holds the channel, it begins switching to ordinary service. -/
  | ordinaryTurnStart (c : ChanId)
  /-- R324: The channel has switched to ordinary service after 40 or 64 unit cycles and starts pending requests. -/
  | serviceSwitchDone (c : ChanId)
  /-- R324: An ordinary request completes 38 unit cycles after it starts. -/
  | ordinaryRequestDone (c : ChanId)
  /-- R324: With no ordinary request left, or after 256, the channel returns to row service and suspended units resume. -/
  | rowServiceReturn (c : ChanId)
  /-- R331: The Vault carries out a queued promotion, evicting a victim if the set is full and copying the row into the Till. -/
  | tillPromotion (v n : Nat)
  /-- R331: A promotion or eviction copy has performed and the residency bit is set or cleared. -/
  | tillMoveDone (v n : Nat)
  /-- R332: The driver's flush evicts every resident row of a table. -/
  | tillFlush (tid : BitVec 16)
  /-- R335: The patrol scrubber reads a sector, corrects it and writes it back, or poisons it and reports. -/
  | scrubStep (key : ErrSite) (res : ScrubResult)
  /-- R263: Groups indices by owner into counts, local indices and a position map. -/
  | exchangeBucket (d n : Nat)
  /-- R264: Splits each bag by owner and sends the parts to be pooled on their owners. -/
  | exchangeGather (d n : Nat)
  /-- R265: Sends each owner its count and its local-index and gradient pairs for a collective update. -/
  | exchangeUpdate (d n : Nat)
  /-- R268: Advances a queue pair's PI by COUNT so that its entries can start. -/
  | cpostStage (d n : Nat)
  /-- R267: Adds to, or sets, a Clearing counter. -/
  | caddStage (d n : Nat)
  /-- R264: An owner receives a bag part and pools it on its Vault. -/
  | gatherPartArrival (m : MsgSrc)
  /-- R264: A partial returns to the requesting Exchange, which combines each bag's partials in rank order once all have arrived. -/
  | gatherPartialReturn (m : MsgSrc)
  /-- R265: An owner receives a rank's count and pairs, and once it holds every count it runs the list as one tupdate. -/
  | updateCountArrival (m : MsgSrc)
  /-- R265: An owner that lacks a count XTMO after the first one applies nothing and ends the stage of every contributing rank. -/
  | xtmoExpiry (d n : Nat)
  /-- R266: An owner's acknowledgement arrives, and the UPDATE stage completes once every owner has acknowledged. -/
  | updateAck (m : MsgSrc)
  /-- R271: The next entry of a queue pair arms once its counter reaches THRESH, subtracts THRESH and starts. -/
  | entryArm (d qp : Nat)
  /-- R270: A NOP work entry, which applies nothing and makes only its completion adds and notification. -/
  | entryNop (d n : Nat)
  /-- R270: A WRITE entry that copies 4-byte words to the target. -/
  | entryWriteCopy (d n : Nat)
  /-- R270: A WRITE entry that narrows FP32 to BF16 at the target. -/
  | entryWriteNarrow (d n : Nat)
  /-- R270: A REDUCE entry that adds FP32 elements into the destination. -/
  | entryReduceSum (d n : Nat)
  /-- R270: A REDUCE entry that takes the FP32 maximum. -/
  | entryReduceMax (d n : Nat)
  /-- R270: A REDUCE entry that takes the FP32 minimum. -/
  | entryReduceMin (d n : Nat)
  /-- R270: A REDUCE entry that merges triples with the destination as A. -/
  | entryTripleMerge (d n : Nat)
  /-- R272: A REDUCE entry that takes the signed maximum of block exponents. -/
  | entryBxexp (d n : Nat)
  /-- R272: A REDUCE entry that converts FP32 to grid integers and adds them to accumulators. -/
  | entryBxsum (d n : Nat)
  /-- R272: A REDUCE entry that forwards accumulators and adds them exactly. -/
  | entryBxsumAcc (d n : Nat)
  /-- R273: A REDUCE entry that rounds accumulators back to FP32 on the block grid. -/
  | entryBxfin (d n : Nat)
  /-- R269: A CADD entry that adds to, or sets, a counter on the target. -/
  | entryCadd (d n : Nat)
  /-- R270: An XSTAGE entry that runs an Exchange stage descriptor from the issuing die. -/
  | entryXstage (d n : Nat)
  /-- R275: A chunk arrives at the target and is applied once, or discarded when its bit is already set, and then acknowledged. -/
  | chunkArrival (m : MsgSrc)
  /-- R276: When the page becomes resident, the parked chunks of that page apply in arrival order. -/
  | parkedChunkApply (n : Nat)
  /-- R275: The sender resends an unacknowledged chunk after a retry, retransmission or refusal. -/
  | chunkResend (d n c : Nat)
  /-- R274: An entry completes: the RAMT and LAMT counter adds are made, the notification is posted and its status is written. -/
  | entryComplete (d n : Nat)
  /-- R348: The page service resolves a CoW-Write by granting write or copying the frame, then replays the faulting access. -/
  | cowService (n : Nat) (pick : Option (BitVec 36))
  /-- R350: A Page-Absent on an absent page asks the page service for a long move to the default tier. -/
  | pageAbsentService (n : Nat) (pick : Option (BitVec 36))
  /-- R373: A driver write of PPI posts page-service requests to the die's queue. -/
  | pageQueuePost (d : Nat) (ppi : Dword)
  /-- R347: Maps a source page copy-on-write into a destination space and raises its REFC. -/
  | share (d : Nat)
  /-- R347: Removes a mapping and lowers REFC, freeing the frame at zero. -/
  | unshare (d : Nat)
  /-- R347: Moves an unshared page to another tier. -/
  | migrate (d : Nat) (pick : Option (BitVec 36))
  /-- R347: Performs only the shootdown for a range of pages. -/
  | inval (d : Nat)
  /-- R344: Every translation cache has dropped the changed entries and their accesses have performed, so the change takes effect. -/
  | shootdownPoint (n : Nat)
  /-- R351: The host completes or declines a long move, and waiting accesses replay. -/
  | longMoveHostDone (n : Nat) (ok : Bool) (data : HostPage)
  /-- R371: A doorbell write sets a stream's SPI, or is ignored and reported when it overflows. -/
  | doorbellSpi (d : Nat) (stream : BitVec 6) (v : Word)
  /-- R371: A doorbell write sets a stream's CCI. -/
  | doorbellCci (d : Nat) (stream : BitVec 6) (v : Word)
  /-- R353: The Dispatcher accepts the next card of a stream when room allows, assigns a sequence number, checks it and derives its edges. -/
  | cardAccept (d : Nat)
  /-- R361: Each DAGE cycles that an admissible card waits, its effective priority rises by one. -/
  | priorityAgeing (card : Nat)
  /-- R362: The Dispatcher launches a launchable card: it sets windows, prepares flags and rings, writes arguments, starts the hands and readies the contexts. -/
  | cardLaunch (d y : Nat)
  /-- R364: An admissible urgent card evicts or halts lower-priority cards on its cores so that it can run. -/
  | urgentPreempt (card : Nat)
  /-- R365: A complete card has its write ranges cleaned, its counter add made, its report and completion record written and its interrupt raised. -/
  | cardComplete (card : Nat)
  /-- R365: A card that runs past WDRUN fails and is torn down. -/
  | wdrunExpiry (card : Nat)
  /-- R368: A flit that fails its CRC on a link is replayed in order. -/
  | flitReplay (link : Nat)
  /-- R368: A link that fails 64 replay attempts raises a fabric error event and errors the packets it held. -/
  | linkReplayFailure (link : Nat) (held : List HeldPacket)
  /-- R384: PERST# or a function-level reset resets the module and runs self-test, training and FEAT publication. -/
  | moduleReset
  /-- R373: A write of 0x5245_5345 to the reset register resets the module. -/
  | moduleResetWrite (v : Dword)
  /-- R375: A write of FEATACC in PUBLISHED state is checked and moves the handshake to READY or FAILED. -/
  | featAccWrite (v : Dword)
  /-- R378: A power command to bring a domain to ACTIVE. -/
  | powerActive (cmd : BitVec 62)
  /-- R378: A power command to gate a domain. -/
  | powerGated (cmd : BitVec 62)
  /-- R378: A power command to put a domain in RETENTION. -/
  | powerRetention (cmd : BitVec 62)
  /-- R378: A power command to turn a domain OFF. -/
  | powerOff (cmd : BitVec 62)
  /-- R379: A power transition finishes, and event 8 reports done, not allowed, busy or reserved. -/
  | powerCommandDone
  /-- R380: A sensor crossing WARN or CRIT, or falling 3 °C below it, raises event 7. -/
  | thermalThreshold (dom : Nat) (reading : Half)
  /-- R381: A sensor reaching 115 °C stops every core and engine, takes the ports down and records TRIPLOG. -/
  | thermalTrip (dom : Nat) (reading : Half)
  /-- R373: Reading TRIPLOG dword 0 returns the trip record and clears VALID. -/
  | triplogRead
  /-- R382: Each hour firmware recomputes each domain's wear index. -/
  | wearUpdate (dom : Nat) (w : WearSensors)
  /-- R383: Each day firmware samples W, raises event 10 and refits DAYS. -/
  | wearSample
  /-- R370: A host write to a BAR0 register that has no behaviour of its own stores the value, or is ignored where its rule says so; likewise a host read, and what the driver sets beside the registers. -/
  | registerWrite (off : HostAccess) (v : Dword)
  /-- R315: After a failed save, the driver asks the Dispatcher to retry the save of the context that stayed HALTED in the core. -/
  | saveRetry (k c : Nat) (resume : Bool)
  /-- R369: A host write through the 64 GiB BAR2 window changes device memory in ASID 0, such as cards, queues, images, lists and page-table entries. -/
  | bar2Write (va : Nat) (data : List Byte)
  /-- R240: A micro-word that does nothing. -/
  | rowNop
  /-- R244: Advances to the item's next position, requests its row, and sets s12 to its weight. -/
  | rowNext (lbl : BitVec 10)
  /-- R244: Branches to a word address. -/
  | rowBr (lbl : BitVec 10)
  /-- R244: Decrements a scalar register and branches while it is non-zero. -/
  | rowLoop (sa : BitVec 4) (lbl : BitVec 10)
  /-- R244: Ends the item. -/
  | rowHalt
  /-- R244: Loads the dequantised current row into a row register. -/
  | rowLdt (gd : RowReg)
  /-- R244: Loads the item's gradient row. -/
  | rowLdg (gd : RowReg)
  /-- R244: Loads a state row of the current row. -/
  | rowLds (gd : RowReg) (p : Bool)
  /-- R244: Loads a state scalar of the current row. -/
  | rowLdss (sd : BitVec 4) (q : BitVec 2)
  /-- R242: Loads a command constant into a scalar register. -/
  | rowLdc (sd : BitVec 4) (c : BitVec 3)
  /-- R242: Loads an immediate into a scalar register. -/
  | rowMovi (sd : BitVec 4) (imm : Word)
  /-- R242: Adds two row registers lane by lane. -/
  | rowAdd (gd ga gb : RowReg)
  /-- R242: Subtracts two row registers lane by lane. -/
  | rowSub (gd ga gb : RowReg)
  /-- R242: Multiplies two row registers lane by lane. -/
  | rowMul (gd ga gb : RowReg)
  /-- R242: Fused multiply-add into a row register. -/
  | rowMac (gd ga gb : RowReg)
  /-- R242: Multiplies a row register by a scalar. -/
  | rowSmul (gd ga : RowReg) (sb : BitVec 4)
  /-- R242: Fused multiply-add of a row register by a scalar. -/
  | rowSmac (gd ga : RowReg) (sb : BitVec 4)
  /-- R242: Squares each lane. -/
  | rowSq (gd ga : RowReg)
  /-- R242: Takes the lane maximum of two row registers. -/
  | rowMax (gd ga gb : RowReg)
  /-- R242: Sums the lanes in ascending order into a scalar. -/
  | rowHsum (sd : BitVec 4) (ga : RowReg)
  /-- R242: Computes the reciprocal square root of each lane plus a scalar. -/
  | rowRsq (gd ga : RowReg) (sb : BitVec 4)
  /-- R243: Scalar add. -/
  | rowSopAdd (sd sa sb : BitVec 4)
  /-- R243: Scalar subtract. -/
  | rowSopSub (sd sa sb : BitVec 4)
  /-- R243: Scalar multiply. -/
  | rowSopMul (sd sa sb : BitVec 4)
  /-- R243: Scalar divide. -/
  | rowSopDiv (sd sa sb : BitVec 4)
  /-- R243: Scalar fused multiply-add. -/
  | rowSopMac (sd sa sb : BitVec 4)
  /-- R243: Scalar reciprocal square root of a sum. -/
  | rowSopRsqe (sd sa sb : BitVec 4)
  /-- R243: Scalar maximum. -/
  | rowSopMax (sd sa sb : BitVec 4)
  /-- R243: Scalar raw move. -/
  | rowSopMov (sd sa : BitVec 4)
  /-- R242: Updates a triple accumulator with a weighted row. -/
  | rowQacc (t : Bool) (ga : RowReg) (sb : BitVec 4)
  /-- R242: Merges one triple accumulator into another. -/
  | rowQmix (t u : Bool)
  /-- R242: Sets a triple accumulator to EMPTY. -/
  | rowQnew (t : Bool)
  /-- R245: Writes a row register as the current row, quantised with its kept scale and bias. -/
  | rowStq (ga : RowReg)
  /-- R245: Writes a row register as the current row after recomputing the scale and bias. -/
  | rowStqRq (ga : RowReg)
  /-- R244: Writes a state row. -/
  | rowSts (ga : RowReg) (p : Bool)
  /-- R244: Writes a state scalar. -/
  | rowStss (sa : BitVec 4) (q : BitVec 2)
  /-- R244: Makes a row register the item's output. -/
  | rowEmit (ga : RowReg)
  /-- R244: Makes a triple accumulator the item's output. -/
  | rowEmitq (t : Bool)
  deriving DecidableEq, Repr

/-- The instruction a micro-word is. -/
noncomputable def RowOp.instr : RowOp → Instr
  | .rowNop => .rowNop
  | .rowNext lbl => .rowNext lbl
  | .rowBr lbl => .rowBr lbl
  | .rowLoop sa lbl => .rowLoop sa lbl
  | .rowHalt => .rowHalt
  | .rowLdt gd => .rowLdt gd
  | .rowLdg gd => .rowLdg gd
  | .rowLds gd p => .rowLds gd p
  | .rowLdss sd q => .rowLdss sd q
  | .rowLdc sd c => .rowLdc sd c
  | .rowMovi sd imm => .rowMovi sd imm
  | .rowAdd gd ga gb => .rowAdd gd ga gb
  | .rowSub gd ga gb => .rowSub gd ga gb
  | .rowMul gd ga gb => .rowMul gd ga gb
  | .rowMac gd ga gb => .rowMac gd ga gb
  | .rowSmul gd ga sb => .rowSmul gd ga sb
  | .rowSmac gd ga sb => .rowSmac gd ga sb
  | .rowSq gd ga => .rowSq gd ga
  | .rowMax gd ga gb => .rowMax gd ga gb
  | .rowHsum sd ga => .rowHsum sd ga
  | .rowRsq gd ga sb => .rowRsq gd ga sb
  | .rowSopAdd sd sa sb => .rowSopAdd sd sa sb
  | .rowSopSub sd sa sb => .rowSopSub sd sa sb
  | .rowSopMul sd sa sb => .rowSopMul sd sa sb
  | .rowSopDiv sd sa sb => .rowSopDiv sd sa sb
  | .rowSopMac sd sa sb => .rowSopMac sd sa sb
  | .rowSopRsqe sd sa sb => .rowSopRsqe sd sa sb
  | .rowSopMax sd sa sb => .rowSopMax sd sa sb
  | .rowSopMov sd sa => .rowSopMov sd sa
  | .rowQacc t ga sb => .rowQacc t ga sb
  | .rowQmix t u => .rowQmix t u
  | .rowQnew t => .rowQnew t
  | .rowStq ga => .rowStq ga
  | .rowStqRq ga => .rowStqRq ga
  | .rowSts ga p => .rowSts ga p
  | .rowStss sa q => .rowStss sa q
  | .rowEmit ga => .rowEmit ga
  | .rowEmitq t => .rowEmitq t

end Sys2Proof
end

