-- ==== Sys2Proof/Decode.lean ====
section
/-! DEFINITION. Decoding every slot, vector control word, hand instruction and micro-word into `Instr`, rejecting by the
cause that R83 gives, and the encoders of the same tables after it. -/

namespace Sys2Proof

/-! ### Codes of enumerated fields -/

/-- R87: a format code; none for the reserved codes. -/
def Fmt.ofCode (c : BitVec 4) : Option Fmt :=
  [Fmt.fp32, .fp16, .bf16, .e4m3, .e5m2, .int8, .uint8, .int16, .int32, .int4, .lns6, .e8m0, .triple, .int64][c.toNat]?

/-- R87: the code of a format. -/
def Fmt.code : Fmt → BitVec 4
  | .fp32 => 0 | .fp16 => 1 | .bf16 => 2 | .e4m3 => 3 | .e5m2 => 4 | .int8 => 5 | .uint8 => 6 | .int16 => 7
  | .int32 => 8 | .int4 => 9 | .lns6 => 10 | .e8m0 => 11 | .triple => 12 | .int64 => 13

/-- R97: scope codes; 5 to 7 are reserved. -/
def Scope.ofCode (c : BitVec 3) : Option Scope :=
  [Scope.core, .yard, .die, .module, .system][c.toNat]?

/-- R97. -/
def Scope.code : Scope → BitVec 3
  | .core => 0 | .yard => 1 | .die => 2 | .module => 3 | .system => 4

/-- R88: SP. -/
def Space.ofCode (c : BitVec 2) : Space :=
  if c = 0 then .buf .wb else if c = 1 then .buf .ab else if c = 2 then .buf .cb else .gv

/-- R88. -/
def Space.code : Space → BitVec 2
  | .buf .wb => 0 | .buf .ab => 1 | .buf .cb => 2 | .gv => 3

/-- R25, R91: BUF; 3 is reserved. -/
def Buf.ofCode (c : BitVec 2) : Option Buf :=
  if c = 0 then some .wb else if c = 1 then some .ab else if c = 2 then some .cb else none

/-- R25, R91. -/
def Buf.code : Buf → BitVec 2
  | .wb => 0 | .ab => 1 | .cb => 2

/-- R56: rounding codes; 5 to 7 are reserved. -/
def RmSel.ofCode (c : BitVec 3) : Option RmSel :=
  [RmSel.rne, .rtz, .rup, .rdn, .dyn][c.toNat]?

/-- R56. -/
def RmSel.code : RmSel → BitVec 3
  | .rne => 0 | .rtz => 1 | .rup => 2 | .rdn => 3 | .dyn => 4

/-- R91: flush codes; 3 is reserved. -/
def FlSel.ofCode (c : BitVec 2) : Option FlSel :=
  if c = 0 then some .fpcr else if c = 1 then some .never else if c = 2 then some .always else none

/-- R91. -/
def FlSel.code : FlSel → BitVec 2
  | .fpcr => 0 | .never => 1 | .always => 2

/-- R134, R294: CSR numbers. -/
def Csr.ofCode (c : BitVec 12) : Option Csr :=
  match c.toNat with
  | 0x000 => some .fpcr | 0x001 => some .fflags | 0x002 => some .fevr | 0x003 => some .cstat | 0x004 => some .fovf
  | 0x005 => some .ctxid
  | 0x100 => some .cause | 0x101 => some .epcb | 0x102 => some .tval | 0x103 => some .tinfo | 0x104 => some .dcause
  | 0x105 => some .depc | 0x106 => some .erstat | 0x107 => some .erpop
  | 0x108 => some (.errec 0) | 0x109 => some (.errec 1) | 0x10A => some (.errec 2) | 0x10B => some (.errec 3)
  | 0x10C => some (.errec 4) | 0x10D => some (.errec 5) | 0x10E => some (.errec 6) | 0x10F => some (.errec 7)
  | 0x110 => some .hscr0 | 0x111 => some .hscr1
  | _ => none

/-- R134, R294. -/
def Csr.code : Csr → BitVec 12
  | .fpcr => 0x000 | .fflags => 0x001 | .fevr => 0x002 | .cstat => 0x003 | .fovf => 0x004 | .ctxid => 0x005
  | .cause => 0x100 | .epcb => 0x101 | .tval => 0x102 | .tinfo => 0x103 | .dcause => 0x104 | .depc => 0x105
  | .erstat => 0x106 | .erpop => 0x107 | .errec n => BitVec.ofNat 12 (0x108 + n.val) | .hscr0 => 0x110 | .hscr1 => 0x111

/-- What a decoder answers. -/
abbrev Dec := Except Cause Instr

/-- R83 order 1. -/
def illegal {α : Type} : Except Cause α := .error .illegalEncoding
/-- R83 order 2. -/
def reserved {α : Type} : Except Cause α := .error .reservedField

/-- R83: the answer; Reserved-Field when a field that must be zero is not. -/
def must {α : Type} (bad : Bool) (r : Except Cause α) : Except Cause α := if bad then reserved else r

/-- The bit field [hi:lo] of a word, given by its low bit and width. -/
def fld {n : Nat} (w : BitVec n) (lo len : Nat) : BitVec len := w.extractLsb' lo len

/-- R88: the guard from PG and PS. -/
def mkGuard (pg : BitVec 3) (ps : BitVec 1) : Guard := ⟨pg, decide (ps = 1)⟩

/-- R83: p0 with inverted sense is reserved. -/
def Guard.bad (g : Guard) : Bool := decide (g.pg = 0) && g.inv

/-! ### The scalar slot (R88, R89) -/

/-- OP 0x01 by FN (R113). -/
def aluOps : List (Guard → Reg → Reg → Reg → Instr) :=
  [.add, .sub, .andR, .orR, .xor, .sll, .srl, .sra, .slt, .sltu, .min, .max, .minu, .maxu]
/-- OP 0x09 by FN (R116). -/
def mulOps : List (Guard → Reg → Reg → Reg → Instr) := [.mul, .mulh, .mulhu, .div, .divu, .rem, .remu]
/-- OP 0x0A by FN (R118). -/
def cmpOps : List (Guard → PReg → Reg → Reg → Instr) := [.cmpEq, .cmpNe, .cmpLt, .cmpLtu, .cmpGe, .cmpGeu]
/-- OP 0x0B by IMM28[27:25] (R118). -/
def cmpiOps : List (Guard → PReg → Reg → BitVec 25 → Instr) :=
  [.cmpiEq, .cmpiNe, .cmpiLt, .cmpiLtu, .cmpiGe, .cmpiGeu]
/-- OP 0x0C by FN 0 to 2 (R119). -/
def predOps : List (Guard → PReg → PReg → PReg → Instr) := [.pand, .por, .pxor]
/-- OP 0x0D by FN (R117). -/
def bitOps : List (Guard → Reg → Reg → Instr) :=
  [.clz, .ctz, .popc, .sextB, .sextH, .sextW, .zextB, .zextH, .zextW]
/-- OP 0x10 with SX 0 by SZ (R120). -/
def ldOps : List (Guard → Reg → Reg → Space → BitVec 23 → Instr) := [.ldB, .ldH, .ldW, .ldD]
/-- OP 0x10 with SX 1 by SZ (R120). -/
def ldsOps : List (Guard → Reg → Reg → Space → BitVec 23 → Instr) := [.ldBs, .ldHs, .ldWs]
/-- OP 0x11 by SZ (R120). -/
def stOps : List (Guard → Reg → Reg → Space → BitVec 23 → Instr) := [.stB, .stH, .stW, .stD]
/-- OP 0x12 by FN[3:0] but amo.cas (R124). -/
def amoOp (fn : BitVec 4) : Option (Guard → Reg → Reg → Reg → Scope → Instr) :=
  match fn.toNat with
  | 0 => some .amoAdd | 1 => some .amoAnd | 2 => some .amoOr | 3 => some .amoXor | 4 => some .amoMin
  | 5 => some .amoMax | 6 => some .amoSwap
  | 8 => some .amoAddW | 9 => some .amoAndW | 10 => some .amoOrW | 11 => some .amoXorW | 12 => some .amoMinW
  | 13 => some .amoMaxW | 14 => some .amoSwapW
  | _ => none

/-- Formats SR with three registers (R88): the low 12 bits are reserved. -/
def decSR (ops : List (Guard → Reg → Reg → Reg → Instr)) (g : Guard) (w : BitVec 48) : Dec :=
  match ops[(fld w 12 11).toNat]? with
  | none => illegal
  | some mk => must (g.bad || decide (fld w 0 12 ≠ 0)) (.ok (mk g (fld w 33 5) (fld w 28 5) (fld w 23 5)))

/-- The SC format's system operations (R138 to R142). -/
def decSC (op : Nat) (g : Guard) (w : BitVec 48) : Dec :=
  let rd : Reg := fld w 33 5
  let ra : Reg := fld w 28 5
  let csr := fld w 16 12
  let fn := (fld w 11 5).toNat
  let imm := fld w 0 11
  if op = 0x20 then
    match fn, Csr.ofCode csr with
    | 0, some c => must (g.bad || decide (ra ≠ 0) || decide (imm ≠ 0)) (.ok (.csrr g rd c))
    | 1, some c => must (g.bad || decide (imm ≠ 0)) (.ok (if c = .erpop then .erpop g .write rd ra else .csrw g rd ra c))
    | 2, some c => must (g.bad || decide (imm ≠ 0)) (.ok (if c = .erpop then .erpop g .set rd ra else .csrs g rd ra c))
    | 3, some c => must (g.bad || decide (imm ≠ 0)) (.ok (if c = .erpop then .erpop g .clear rd ra else .csrc g rd ra c))
    | _, _ => illegal
  else if op = 0x21 then
    if fn ≥ 2 then illegal
    else
      match Scope.ofCode (fld w 0 3) with
      | none => reserved
      | some sc =>
        must (g.bad || decide (rd ≠ 0) || decide (ra ≠ 0) || decide (csr ≠ 0) || decide (fld w 3 8 ≠ 0))
          (.ok (if fn = 0 then .fence g sc else .drain g sc))
  else if op = 0x22 then
    let used := g.bad || decide (rd ≠ 0) || decide (ra ≠ 0) || decide (csr ≠ 0)
    match fn with
    | 0 => must used (.ok (.trap g imm))
    | 1 => must used (.ok (.brk g imm))
    | 2 => must (used || decide (imm ≠ 0)) (.ok (.eret g))
    | 3 => must used (.ok (.exit g imm))
    | _ => illegal
  else
    let used := g.bad || decide (ra ≠ 0) || decide (csr ≠ 0)
    match fn with
    | 0 => must (used || decide (imm ≠ 0)) (.ok (.rdtime g rd))
    | 1 => must (used || decide (fld w 1 10 ≠ 0)) (.ok (.rdfeat g rd (decide (fld w 0 1 = 1))))
    | _ => illegal

/-- R88, R89: the scalar slot. -/
def decodeS (w : BitVec 48) : Dec :=
  if w = 0 then .ok .nop
  else
    let g := mkGuard (fld w 39 3) (fld w 38 1)
    let rd : Reg := fld w 33 5
    let ra : Reg := fld w 28 5
    let rb : Reg := fld w 23 5
    let fn := (fld w 12 11).toNat
    let low := decide (fld w 0 12 ≠ 0)
    let imm28 := fld w 0 28
    let imm33 := fld w 0 33
    let pd : PReg := fld w 33 3
    let pdBad := decide (fld w 36 2 ≠ 0)
    match (fld w 42 6).toNat with
    | 0x01 => decSR aluOps g w
    | 0x02 => must g.bad (.ok (.addi g rd ra imm28))
    | 0x03 => must g.bad (.ok (.andi g rd ra imm28))
    | 0x04 => must g.bad (.ok (.ori g rd ra imm28))
    | 0x05 => must g.bad (.ok (.xori g rd ra imm28))
    | 0x06 =>
      let hi := decide (fld w 8 20 ≠ 0)
      match (fld w 6 2).toNat with
      | 0 => must (g.bad || hi) (.ok (.slli g rd ra (fld w 0 6)))
      | 1 => must (g.bad || hi) (.ok (.srli g rd ra (fld w 0 6)))
      | 2 => must (g.bad || hi) (.ok (.srai g rd ra (fld w 0 6)))
      | _ => illegal
    | 0x07 => must g.bad (.ok (.li g rd imm33))
    | 0x08 => must g.bad (.ok (.lih g rd imm33))
    | 0x09 => decSR mulOps g w
    | 0x0A =>
      match cmpOps[fn]? with
      | none => illegal
      | some mk => must (g.bad || low || pdBad) (.ok (mk g pd ra rb))
    | 0x0B =>
      match cmpiOps[(fld w 25 3).toNat]? with
      | none => illegal
      | some mk => must (g.bad || pdBad) (.ok (mk g pd ra (fld w 0 25)))
    | 0x0C =>
      let bad := g.bad || low || pdBad || decide (fld w 31 2 ≠ 0)
      if fn = 3 then must (bad || decide (rb ≠ 0)) (.ok (.pnot g pd (fld w 28 3)))
      else
        match predOps[fn]? with
        | none => illegal
        | some mk => must (bad || decide (fld w 26 2 ≠ 0)) (.ok (mk g pd (fld w 28 3) (fld w 23 3)))
    | 0x0D =>
      match bitOps[fn]? with
      | none => illegal
      | some mk => must (g.bad || low || decide (rb ≠ 0)) (.ok (mk g rd ra))
    | 0x10 =>
      let sp := Space.ofCode (fld w 26 2)
      let sz := (fld w 24 2).toNat
      if fld w 23 1 = 1 then
        match ldsOps[sz]? with
        | none => reserved
        | some mk => must g.bad (.ok (mk g rd ra sp (fld w 0 23)))
      else
        match ldOps[sz]? with
        | none => reserved
        | some mk => must g.bad (.ok (mk g rd ra sp (fld w 0 23)))
    | 0x11 =>
      match stOps[(fld w 24 2).toNat]? with
      | none => reserved
      | some mk =>
        must (g.bad || decide (fld w 23 1 = 1)) (.ok (mk g rd ra (Space.ofCode (fld w 26 2)) (fld w 0 23)))
    | 0x12 =>
      let bad := g.bad || decide (fld w 14 1 ≠ 0) || decide (fld w 0 10 ≠ 0)
      match Scope.ofCode (fld w 15 3) with
      | none => reserved
      | some sc =>
        if fld w 10 3 = 7 then
          must bad (.ok (if fld w 13 1 = 1 then .amoCasW g rd ra rb (fld w 18 5) sc else .amoCas g rd ra rb (fld w 18 5) sc))
        else
          match amoOp (fld w 10 4) with
          | none => reserved
          | some mk => must (bad || decide (fld w 18 5 ≠ 0)) (.ok (mk g rd ra rb sc))
    | 0x18 => must (g.bad || decide (rd ≠ 0)) (.ok (.br g imm33))
    | 0x19 => must g.bad (.ok (.call g rd imm33))
    | 0x1A =>
      match fn with
      | 0 => must (g.bad || low || decide (rd ≠ 0) || decide (rb ≠ 0)) (.ok (.jr g ra))
      | 1 => must (g.bad || low || decide (rb ≠ 0)) (.ok (.jalr g rd ra))
      | _ => illegal
    | 0x1B =>
      let lv : BitVec 3 := fld w 35 3
      let r : Reg := fld w 30 5
      if lv.toNat ≥ 6 then illegal
      else must (g.bad || (decide (r ≠ 0) && decide (fld w 0 30 ≠ 0))) (.ok (.loop g lv r (fld w 0 30)))
    | 0x1C =>
      let lv : BitVec 3 := fld w 23 3
      if fn ≥ 3 ∨ lv.toNat ≥ 6 then illegal
      else
        let bad := g.bad || low || decide (fld w 26 2 ≠ 0) || decide (ra ≠ 0)
        match fn with
        | 0 => must bad (.ok (.lctlRd g rd lv))
        | 1 => must bad (.ok (.lctlBnd g rd lv))
        | _ => must (bad || decide (rd ≠ 0)) (.ok (.lctlBrk g lv))
    | 0x20 => decSC 0x20 g w
    | 0x21 => decSC 0x21 g w
    | 0x22 => decSC 0x22 g w
    | 0x23 => decSC 0x23 g w
    | _ => illegal

/-! ### The vector slots (R90 to R92, R147, R148) -/

/-- The OP code of a vector operation (R147). -/
def VOp.code : VOp → BitVec 8
  | .vadd => 0x01 | .vsub => 0x02 | .vmul => 0x03 | .vfma => 0x04 | .vfnma => 0x05 | .vmin => 0x06
  | .vmax => 0x07 | .vabs => 0x08 | .vneg => 0x09 | .vaddi => 0x0A | .vmuli => 0x0B | .vand => 0x10
  | .vor => 0x11 | .vxor => 0x12 | .vshl => 0x13 | .vshr => 0x14 | .vsra => 0x15 | .vcmpEq => 0x20
  | .vcmpNe => 0x21 | .vcmpLt => 0x22 | .vcmpLe => 0x23 | .vcmpGt => 0x24 | .vcmpGe => 0x25 | .vcmpUn => 0x26
  | .vsel => 0x28 | .vcvt => 0x30 | .vbscl => 0x31 | .vshuf => 0x40 | .vbcast => 0x41 | .vxmov => 0x42
  | .vgredAdd => 0x43 | .vgredMax => 0x43 | .vgredMin => 0x43 | .vrcp => 0x50 | .vrsqrt => 0x51 | .vsqrt => 0x52
  | .vexp2 => 0x53 | .vlog2 => 0x54 | .vexp => 0x55 | .vlog => 0x56 | .vtanh => 0x57 | .vsigm => 0x58
  | .vdiv => 0x59 | .vld => 0x60 | .vst => 0x61 | .vldx => 0x62 | .vstx => 0x63 | .vrd => 0x64 | .vwr => 0x65
  | .qclr => 0x70 | .qupd => 0x71 | .qupdW => 0x72 | .qmrg => 0x73 | .qmrgV => 0x74 | .qred => 0x75
  | .qxm => 0x76 | .qext => 0x77 | .qraw => 0x78 | .qnorm => 0x79 | .qnormA => 0x7A | .qld => 0x7B | .qst => 0x7C
  | .vfclr => 0x80 | .vfevclr => 0x81

/-- R147: the operation of an OP code; `vgred` takes its suffix from IMM0[1:0] (R155) and 3 is reserved there. -/
def VOp.ofCode (op : BitVec 8) (sub : BitVec 2) : Option (Option VOp) :=
  match op.toNat with
  | 0x01 => some (some .vadd) | 0x02 => some (some .vsub) | 0x03 => some (some .vmul) | 0x04 => some (some .vfma)
  | 0x05 => some (some .vfnma) | 0x06 => some (some .vmin) | 0x07 => some (some .vmax)
  | 0x08 => some (some .vabs) | 0x09 => some (some .vneg) | 0x0A => some (some .vaddi)
  | 0x0B => some (some .vmuli) | 0x10 => some (some .vand) | 0x11 => some (some .vor) | 0x12 => some (some .vxor)
  | 0x13 => some (some .vshl) | 0x14 => some (some .vshr) | 0x15 => some (some .vsra)
  | 0x20 => some (some .vcmpEq) | 0x21 => some (some .vcmpNe) | 0x22 => some (some .vcmpLt)
  | 0x23 => some (some .vcmpLe) | 0x24 => some (some .vcmpGt) | 0x25 => some (some .vcmpGe)
  | 0x26 => some (some .vcmpUn) | 0x28 => some (some .vsel) | 0x30 => some (some .vcvt)
  | 0x31 => some (some .vbscl) | 0x40 => some (some .vshuf) | 0x41 => some (some .vbcast)
  | 0x42 => some (some .vxmov) | 0x50 => some (some .vrcp) | 0x51 => some (some .vrsqrt)
  | 0x52 => some (some .vsqrt) | 0x53 => some (some .vexp2) | 0x54 => some (some .vlog2)
  | 0x55 => some (some .vexp) | 0x56 => some (some .vlog) | 0x57 => some (some .vtanh)
  | 0x58 => some (some .vsigm) | 0x59 => some (some .vdiv) | 0x60 => some (some .vld) | 0x61 => some (some .vst)
  | 0x62 => some (some .vldx) | 0x63 => some (some .vstx) | 0x64 => some (some .vrd) | 0x65 => some (some .vwr)
  | 0x70 => some (some .qclr) | 0x71 => some (some .qupd) | 0x72 => some (some .qupdW)
  | 0x73 => some (some .qmrg) | 0x74 => some (some .qmrgV) | 0x75 => some (some .qred) | 0x76 => some (some .qxm)
  | 0x77 => some (some .qext) | 0x78 => some (some .qraw) | 0x79 => some (some .qnorm)
  | 0x7A => some (some .qnormA) | 0x7B => some (some .qld) | 0x7C => some (some .qst)
  | 0x80 => some (some .vfclr) | 0x81 => some (some .vfevclr)
  | 0x43 => some (if sub = 0 then some .vgredAdd else if sub = 1 then some .vgredMax else if sub = 2 then some .vgredMin else none)
  | _ => none

/-- The sets of R147, on codes that may be reserved (a reserved code is left to the check of R83 order 2). -/
def inF (f : Option Fmt) : Bool :=
  match f with
  | none => true
  | some f => f = .fp32 || f = .fp16 || f = .bf16 || f = .e4m3 || f = .e5m2
def inWf (f : Option Fmt) : Bool :=
  match f with
  | none => true
  | some f => f = .fp32 || f = .fp16 || f = .bf16
def inI (f : Option Fmt) : Bool :=
  match f with
  | none => true
  | some f => f = .int8 || f = .uint8 || f = .int16 || f = .int32
def inL (f : Option Fmt) : Bool :=
  match f with
  | none => true
  | some f => f ≠ .triple && f ≠ .int64
def isF (f : Option Fmt) (x : Fmt) : Bool :=
  match f with
  | none => true
  | some f => f = x
def sameF (a b : Option Fmt) : Bool :=
  match a, b with
  | some a, some b => a = b
  | _, _ => true
/-- A code that equals FA where FA is one that `ok` accepts; where FA is reserved, one that `ok` could accept (R83 order 1). -/
def sameAs (ok : Option Fmt → Bool) (a b : Option Fmt) : Bool := sameF a b && ok b
/-- The class of `vadd`'s destination: F for F, I for I. -/
def sameClass (a b : Option Fmt) : Bool := (inF a && inF b) || (inI a && inI b)

/-- The families of R147 and R148. -/
inductive VFam where
  | arith2 | arith1 | arithImm | bits | cmp | sel | cvt | bscl | shuf | move | gred | special | div | mem | memx | ring
  | qclr | qupd | qupdw | qmrg | qmrgv | qtree | qext | qraw | qnorm | qnorma | qmem | fclr | fevclr
  deriving DecidableEq, Repr

/-- The family of an operation. -/
def VOp.fam : VOp → VFam
  | .vadd | .vsub | .vmul | .vfma | .vfnma | .vmin | .vmax => .arith2
  | .vabs | .vneg => .arith1
  | .vaddi | .vmuli => .arithImm
  | .vand | .vor | .vxor | .vshl | .vshr | .vsra => .bits
  | .vcmpEq | .vcmpNe | .vcmpLt | .vcmpLe | .vcmpGt | .vcmpGe | .vcmpUn => .cmp
  | .vsel => .sel
  | .vcvt => .cvt
  | .vbscl => .bscl
  | .vshuf => .shuf
  | .vbcast | .vxmov => .move
  | .vgredAdd | .vgredMax | .vgredMin => .gred
  | .vrcp | .vrsqrt | .vsqrt | .vexp2 | .vlog2 | .vexp | .vlog | .vtanh | .vsigm => .special
  | .vdiv => .div
  | .vld | .vst => .mem
  | .vldx | .vstx => .memx
  | .vrd | .vwr => .ring
  | .qclr => .qclr
  | .qupd => .qupd
  | .qupdW => .qupdw
  | .qmrg => .qmrg
  | .qmrgV => .qmrgv
  | .qred | .qxm => .qtree
  | .qext => .qext
  | .qraw => .qraw
  | .qnorm => .qnorm
  | .qnormA => .qnorma
  | .qld | .qst => .qmem
  | .vfclr => .fclr
  | .vfevclr => .fevclr

/-- R153: the pairs of `vcvt`. -/
def cvtPair (a d : Fmt) : Bool :=
  let fl (f : Fmt) := inF (some f)
  let it (f : Fmt) := inI (some f) || f = .int4
  (fl a && (fl d || it d || d = .lns6)) || (it a && (fl d || it d)) ||
    (a = .lns6 && inWf (some d)) || (a = .e8m0 && d = .fp32)
/-- R153, R83 order 1: a code that no pair of `vcvt` has is refused beside a reserved code too. -/
def cvtOk (a d : Option Fmt) : Bool :=
  let fmts := (List.range 16).filterMap fun c => Fmt.ofCode (BitVec.ofNat 4 c)
  match a, d with
  | some a, some d => cvtPair a d
  | some a, none => fmts.any (cvtPair a)
  | none, some d => fmts.any fun a => cvtPair a d
  | none, none => true

/-- R147: whether an operation accepts its formats; unused fields are not looked at. -/
def VFam.accepts (f : VFam) (a b d : Option Fmt) : Bool :=
  match f with
  | .arith2 => (inF a || inI a) && sameAs (fun f => inF f || inI f) a b && sameClass a d && sameClass b d
  | .arith1 => (inF a || inI a) && sameClass a d
  | .arithImm => (inF a && isF b .fp32 && inF d) || (inI a && isF b .int32 && inI d)
  | .bits => isF a .int32 && isF b .int32 && isF d .int32
  | .cmp => (inF a || inI a) && sameAs (fun f => inF f || inI f) a b && isF d .int32
  | .sel => inL a && sameAs inL a b && sameAs inL a d && sameF b d
  | .cvt => cvtOk a d
  | .bscl => inF a && isF b .e8m0 && inF d
  | .shuf | .move | .mem | .ring => inL a && sameAs inL a d
  | .gred => isF a .fp32 && isF d .fp32
  | .special => inWf a && inWf d
  | .div => inWf a && inWf b && inWf d
  | .memx => isF a .int32 && inL d
  | .qclr | .qmem => isF d .triple
  | .qupd => inWf a && isF d .triple
  | .qupdw => inWf a && inWf b && isF d .triple
  | .qmrg => isF a .triple && isF b .triple && isF d .triple
  | .qmrgv => isF a .fp32 && isF d .triple
  | .qtree => isF a .triple && isF d .triple
  | .qext | .qraw => isF a .triple && isF d .fp32
  | .qnorm | .qnorma => inWf a && isF b .triple && isF d .fp32
  | .fclr | .fevclr => true

/-- Whether the format column is used (R147): FA, FB, FD. -/
def VFam.usesFmt (f : VFam) : Bool × Bool × Bool :=
  match f with
  | .arith2 | .bits | .cmp | .sel | .bscl | .div | .qupdw | .qmrg | .qnorm | .qnorma | .arithImm => (true, true, true)
  | .arith1 | .cvt | .shuf | .move | .gred | .special | .mem | .memx | .ring | .qupd | .qmrgv | .qtree | .qext | .qraw =>
    (true, false, true)
  | .qclr | .qmem => (false, false, true)
  | .fclr | .fevclr => (false, false, false)

/-- Whether the register field is used (R147): va, vb, vd. -/
def VFam.usesReg (f : VFam) : Bool × Bool × Bool :=
  match f with
  | .arith2 | .bits | .cmp | .sel | .bscl | .div | .qupdw | .qmrg | .qnorm | .qnorma => (true, true, true)
  | .arith1 | .arithImm | .cvt | .shuf | .move | .gred | .special | .memx | .qupd | .qmrgv | .qtree | .qext | .qraw =>
    (true, false, true)
  | .mem | .ring | .qclr | .qmem => (false, false, true)
  | .fclr | .fevclr => (false, false, false)

/-- The fields of a control word beyond OP, formats and GMASK. -/
structure VUse where
  rm : Bool := false
  fli : Bool := false
  flo : Bool := false
  sat : Bool := false
  buf : Bool := false
  xb : Bool := false
  ring : Bool := false
  exsel : Bool := false
  enan : Bool := false
  imm0 : Bool := false
  imm1 : Bool := false
  shuf : Bool := false
  sfp : Bool := false
  deriving DecidableEq, Repr

/-- R148: the fields a family uses. The bit operations, whose results need no saturation, do not use SAT (DEDUCED, log entry
14). -/
def VFam.uses (f : VFam) (a d : Fmt) (exsel : BitVec 3) : VUse :=
  let flt : VUse := { rm := true, fli := true, flo := true, sat := true }
  match f with
  | .arith2 | .arith1 => if inF (some a) then flt else { sat := true }
  | .arithImm => if inF (some a) then { flt with imm0 := true } else { sat := true, imm0 := true }
  | .bits => {}
  | .cmp => if inF (some a) then { fli := true } else {}
  | .sel | .move => { imm0 := true }
  | .cvt =>
    if d = .lns6 then { fli := true }
    else if inF (some d) then (if inF (some a) then flt else { rm := true, flo := true, sat := true })
    else if inF (some a) then { rm := true, fli := true, sat := true }
    else { sat := true }
  | .bscl | .div => flt
  | .shuf => { shuf := true }
  | .gred => { rm := true, fli := true, flo := true, imm0 := true }
  | .special => { flt with sfp := true }
  | .mem => { buf := true, xb := true, imm0 := true, imm1 := true }
  | .memx | .qmem => { buf := true, xb := true, imm0 := true }
  | .ring => { ring := true, xb := true, imm0 := true, imm1 := true }
  | .qext => { exsel := true, enan := true, imm1 := decide (exsel = 5) }
  | .qraw => { imm0 := true }
  | .qnorm => { enan := true, imm1 := true }
  | .qnorma => { enan := true, imm1 := true, imm0 := true }
  | .fclr => { imm0 := true }
  | .qclr | .qupd | .qupdw | .qmrg | .qmrgv | .qtree | .fevclr => {}

/-- The bits of IMM0 an operation may set (R152, R155, R159, R162, R163). -/
def VOp.imm0Bits (o : VOp) : Word :=
  match o with
  | .vsel => 0x3F
  | .vbcast => 0x7F
  | .vxmov => 0xFFFFFF
  | .vgredAdd | .vgredMax | .vgredMin | .qraw => 0x3
  | .qnormA => 0xFFF
  | .vfclr => 0x1F
  | _ => 0xFFFFFFFF

/-- R156: an SFP is 0 or a finite, non-zero, normal BF16. -/
def sfpOk (s : Half) : Bool := decide (s = 0) || (decide (fld s 7 8 ≠ 0) && decide (fld s 7 8 ≠ 255))

/-- The constructor of a vector operation. -/
def VOp.instr : VOp → VArgs → Instr
  | .vadd => .vadd | .vsub => .vsub | .vmul => .vmul | .vfma => .vfma | .vfnma => .vfnma | .vmin => .vmin
  | .vmax => .vmax | .vabs => .vabs | .vneg => .vneg | .vaddi => .vaddi | .vmuli => .vmuli | .vand => .vand
  | .vor => .vor | .vxor => .vxor | .vshl => .vshl | .vshr => .vshr | .vsra => .vsra | .vcmpEq => .vcmpEq
  | .vcmpNe => .vcmpNe | .vcmpLt => .vcmpLt | .vcmpLe => .vcmpLe | .vcmpGt => .vcmpGt | .vcmpGe => .vcmpGe
  | .vcmpUn => .vcmpUn | .vsel => .vsel | .vcvt => .vcvt | .vbscl => .vbscl | .vshuf => .vshuf
  | .vbcast => .vbcast | .vxmov => .vxmov | .vgredAdd => .vgredAdd | .vgredMax => .vgredMax
  | .vgredMin => .vgredMin | .vrcp => .vrcp | .vrsqrt => .vrsqrt | .vsqrt => .vsqrt | .vexp2 => .vexp2
  | .vlog2 => .vlog2 | .vexp => .vexp | .vlog => .vlog | .vtanh => .vtanh | .vsigm => .vsigm | .vdiv => .vdiv
  | .vld => .vld | .vst => .vst | .vldx => .vldx | .vstx => .vstx | .vrd => .vrd | .vwr => .vwr | .qclr => .qclr
  | .qupd => .qupd | .qupdW => .qupdW | .qmrg => .qmrg | .qmrgV => .qmrgV | .qred => .qred | .qxm => .qxm
  | .qext => .qext | .qraw => .qraw | .qnorm => .qnorm | .qnormA => .qnormA | .qld => .qld | .qst => .qst
  | .vfclr => .vfclr | .vfevclr => .vfevclr

/-- The operation of a vector instruction. -/
def Instr.vop? : Instr → Option (VOp × VArgs)
  | .vadd a => some (.vadd, a) | .vsub a => some (.vsub, a) | .vmul a => some (.vmul, a)
  | .vfma a => some (.vfma, a) | .vfnma a => some (.vfnma, a) | .vmin a => some (.vmin, a)
  | .vmax a => some (.vmax, a) | .vabs a => some (.vabs, a) | .vneg a => some (.vneg, a)
  | .vaddi a => some (.vaddi, a) | .vmuli a => some (.vmuli, a) | .vand a => some (.vand, a)
  | .vor a => some (.vor, a) | .vxor a => some (.vxor, a) | .vshl a => some (.vshl, a)
  | .vshr a => some (.vshr, a) | .vsra a => some (.vsra, a) | .vcmpEq a => some (.vcmpEq, a)
  | .vcmpNe a => some (.vcmpNe, a) | .vcmpLt a => some (.vcmpLt, a) | .vcmpLe a => some (.vcmpLe, a)
  | .vcmpGt a => some (.vcmpGt, a) | .vcmpGe a => some (.vcmpGe, a) | .vcmpUn a => some (.vcmpUn, a)
  | .vsel a => some (.vsel, a) | .vcvt a => some (.vcvt, a) | .vbscl a => some (.vbscl, a)
  | .vshuf a => some (.vshuf, a) | .vbcast a => some (.vbcast, a) | .vxmov a => some (.vxmov, a)
  | .vgredAdd a => some (.vgredAdd, a) | .vgredMax a => some (.vgredMax, a) | .vgredMin a => some (.vgredMin, a)
  | .vrcp a => some (.vrcp, a) | .vrsqrt a => some (.vrsqrt, a) | .vsqrt a => some (.vsqrt, a)
  | .vexp2 a => some (.vexp2, a) | .vlog2 a => some (.vlog2, a) | .vexp a => some (.vexp, a)
  | .vlog a => some (.vlog, a) | .vtanh a => some (.vtanh, a) | .vsigm a => some (.vsigm, a)
  | .vdiv a => some (.vdiv, a) | .vld a => some (.vld, a) | .vst a => some (.vst, a) | .vldx a => some (.vldx, a)
  | .vstx a => some (.vstx, a) | .vrd a => some (.vrd, a) | .vwr a => some (.vwr, a) | .qclr a => some (.qclr, a)
  | .qupd a => some (.qupd, a) | .qupdW a => some (.qupdW, a) | .qmrg a => some (.qmrg, a)
  | .qmrgV a => some (.qmrgV, a) | .qred a => some (.qred, a) | .qxm a => some (.qxm, a)
  | .qext a => some (.qext, a) | .qraw a => some (.qraw, a) | .qnorm a => some (.qnorm, a)
  | .qnormA a => some (.qnormA, a) | .qld a => some (.qld, a) | .qst a => some (.qst, a)
  | .vfclr a => some (.vfclr, a) | .vfevclr a => some (.vfevclr, a)
  | _ => none

/-- R91, R148: the control word has a non-zero field that its operation does not use. Where a format code is reserved, so that
it does not say which fields are used, those of FP32 are. -/
def vcwUnused (cw : BitVec 256) : Bool :=
  let imm0 : Word := fld cw 160 32
  let nz (lo len : Nat) := decide (fld cw lo len ≠ 0)
  nz 192 13 || nz 0 48 ||
    match VOp.ofCode (fld cw 248 8) (fld imm0 0 2) with
    | none => false
    | some op? =>
      -- a reserved `vgred` selector keeps the family's other checks (R155)
      let op := op?.getD .vgredAdd
      let (ufa, ufb, ufd) := op.fam.usesFmt
      let fmt (used : Bool) (lo : Nat) := if used then (Fmt.ofCode (fld cw lo 4)).getD .fp32 else .fp32
      let u := op.fam.uses (fmt ufa 244) (fmt ufd 236) (fld cw 206 3)
      (!ufa && nz 244 4) || (!ufb && nz 240 4) || (!ufd && nz 236 4) || (!u.rm && nz 233 3) || (!u.fli && nz 231 2) ||
        (!u.flo && nz 229 2) || (!u.sat && nz 228 1) || (!u.buf && nz 218 2) || (!u.xb && nz 213 5) || (!u.ring && nz 209 4) ||
        (!u.exsel && nz 206 3) || (!u.enan && nz 205 1) || (!u.imm0 && decide (imm0 ≠ 0)) ||
        decide (imm0 &&& ~~~op.imm0Bits ≠ 0) || (!u.imm1 && nz 128 32) || (!u.shuf && nz 64 64) || (!u.sfp && nz 48 16)

/-- R90, R91, R83: a syllable with the control word that its index names in the context's table. -/
def decodeV (v1 : Bool) (w : BitVec 32) (cw : BitVec 256) : Dec :=
  if w = 0 then .ok .nop
  else
    let idx : BitVec 9 := fld w 23 9
    let vd : BitVec 6 := fld w 17 6
    let va : BitVec 6 := fld w 11 6
    let vb : BitVec 6 := fld w 5 6
    let g := mkGuard (fld w 2 3) (fld w 1 1)
    let imm0 : Word := fld cw 160 32
    let imm1 : Word := fld cw 128 32
    if idx = 0 then illegal
    else
      match VOp.ofCode (fld cw 248 8) (fld imm0 0 2) with
      | none => illegal
      | some op? =>
        -- a reserved `vgred` selector keeps the family's other checks (R155)
        let op := op?.getD .vgredAdd
        let fam := op.fam
        let (ufa, ufb, ufd) := fam.usesFmt
        let fa := Fmt.ofCode (fld cw 244 4)
        let fb := Fmt.ofCode (fld cw 240 4)
        let fd := Fmt.ofCode (fld cw 236 4)
        let badReg (u : Bool) (f : Option Fmt) (r : BitVec 6) := u && decide (f = some .triple) && decide (r.toNat ≥ 16)
        if !fam.accepts fa fb fd || badReg ufa fa va || badReg ufb fb vb || badReg ufd fd vd ||
            (decide (op = .qmrgV) && decide (va.toNat > 61)) ||
            (decide (fam = .memx) && decide (fd = some .int4)) ||
            (decide (fam = .mem) && decide (fd = some .int4) && decide (imm1 ≠ 0)) then illegal
        else
          let (ura, urb, urd) := fam.usesReg
          match op?, (if ufa then fa else some .fp32), (if ufb then fb else some .fp32), (if ufd then fd else some .fp32),
              RmSel.ofCode (fld cw 233 3), FlSel.ofCode (fld cw 231 2), FlSel.ofCode (fld cw 229 2), Buf.ofCode (fld cw 218 2) with
          | some op, some xa, some xb, some xd, some rm, some fli, some flo, some buf =>
            let exsel : BitVec 3 := fld cw 206 3
            let sfp : Half := fld cw 48 16
            must (g.bad || decide (fld w 0 1 ≠ 0) || vcwUnused cw ||
                (!ura && decide (va ≠ 0)) || (!urb && decide (vb ≠ 0)) || (!urd && decide (vd ≠ 0)) ||
                decide (exsel.toNat ≥ 6) || (decide (op = .qraw) && decide (imm0 = 3)) || !sfpOk sfp)
              (.ok (op.instr ⟨v1, idx, vd, va, vb, g,
                ⟨xa, xb, xd, rm, fli, flo, decide (fld cw 228 1 = 1), fld cw 220 8, buf, fld cw 213 5, fld cw 209 4, exsel,
                  decide (fld cw 205 1 = 1), imm0, imm1, fld cw 64 64, sfp⟩⟩))
          | _, _, _, _, _, _, _, _ => reserved

/-! ### The Mint slot (R93, R94, R173, R174) -/

/-- R69: the pairs of operand formats. -/
def mintPair (a b : Fmt) : Bool :=
  let n (f : Fmt) := f = .e4m3 || f = .e5m2 || f = .int8
  (n a && n b) || (a = .lns6 && b = .lns6) || (a = .bf16 && b = .bf16) || (a = .fp32 && b = .fp32)
/-- R174: formats of a latch and of an A operand. -/
def mintOne (f : Fmt) : Bool :=
  f = .e4m3 || f = .e5m2 || f = .int8 || f = .lns6 || f = .bf16 || f = .fp32
/-- R174: formats of a drain output. -/
def drainFmt (f : Fmt) : Bool := mintOne f || f = .fp16
/-- R174: formats of `mfold`'s output. -/
def foldFmt (f : Fmt) : Bool := f = .fp32 || f = .bf16 || f = .e4m3 || f = .e5m2
/-- R174: BF16 needs L of 0 or 2, FP32 needs 0. -/
def latchOk (f : Fmt) (l : BitVec 2) : Bool :=
  if f = .bf16 then decide (l = 0 ∨ l = 2) else if f = .fp32 then decide (l = 0) else true
/-- R173: MP + n − 1 ≤ 7. -/
def mpOk (mp : BitVec 3) (n : Nat) : Bool := decide (mp.toNat + n ≤ 8)

/-- A format field that an operation reads: an unaccepted code is Illegal-Encoding, a reserved one Reserved-Field (R87). -/
def fmtBad (ok : Fmt → Bool) (c : BitVec 4) : Bool :=
  match Fmt.ofCode c with
  | none => false
  | some f => !ok f
/-- A pair of format fields, with reserved codes left to the later check. -/
def pairBad (ok : Fmt → Fmt → Bool) (one : Fmt → Bool) (a b : BitVec 4) : Bool :=
  match Fmt.ofCode a, Fmt.ofCode b with
  | some x, some y => !ok x y
  | some x, none => !one x
  | none, some y => !one y
  | none, none => false

/-- R93, R94, R173: the m slot. -/
def decodeM (w : BitVec 32) : Dec :=
  if w = 0 then .ok .nop
  else
    let ca : BitVec 4 := fld w 22 4
    let cb : BitVec 4 := fld w 18 4
    let l : BitVec 2 := fld w 16 2
    let mp : BitVec 3 := fld w 13 3
    let h : BitVec 4 := fld w 9 4
    let md : BitVec 4 := fld w 5 4
    let g := mkGuard (fld w 2 3) (fld w 1 1)
    let gb := g.bad || decide (fld w 0 1 ≠ 0)
    let nz {n : Nat} (x : BitVec n) := decide (x ≠ 0)
    let lb (c : BitVec 4) (l : BitVec 2) := match Fmt.ofCode c with | some f => !latchOk f l | none => false
    match (fld w 26 6).toNat with
    | 0x01 =>
      must (gb || nz ca || nz cb || nz l || nz mp || nz h || nz (fld w 6 3))
        (.ok (if fld w 5 1 = 1 then .mmodeRs g else .mmodeWs g))
    | 0x02 =>
      if fmtBad mintOne cb || lb cb l || !mpOk mp 2 then illegal
      else
        match Fmt.ofCode cb with
        | none => reserved
        | some fb => must (gb || nz ca || nz h || nz md) (.ok (.mlatch g fb l mp))
    | 0x03 =>
      if fmtBad mintOne cb || lb cb l || !mpOk mp 2 then illegal
      else
        match Fmt.ofCode cb with
        | none => reserved
        | some fb => must (gb || nz ca || nz h || nz md) (.ok (.mlatchT g fb l mp))
    | 0x04 =>
      if pairBad mintPair mintOne ca cb || lb cb l || !mpOk mp 3 then illegal
      else
        match Fmt.ofCode ca, Fmt.ofCode cb with
        | some fa, some fb =>
          if fld w 8 1 = 1 then must (gb || nz h || nz (fld w 5 3)) (.ok (.mstreamD g fa fb l mp))
          else must (gb || nz (fld w 5 3)) (.ok (.mstream g fa fb l mp h))
        | _, _ => reserved
    | 0x05 =>
      if pairBad mintPair mintOne ca cb || !mpOk mp 5 then illegal
      else
        match Fmt.ofCode ca, Fmt.ofCode cb with
        | some fa, some fb =>
          if fld w 8 1 = 1 then must (gb || nz l || nz h || nz (fld w 5 3)) (.ok (.mouterD g fa fb mp))
          else must (gb || nz l || nz (fld w 5 3)) (.ok (.mouter g fa fb mp h))
        | _, _ => reserved
    | 0x06 => must (gb || nz ca || nz cb) (.ok (.mscale g mp (l ++ h ++ md)))
    | 0x07 =>
      if fmtBad drainFmt ca || fmtBad drainFmt cb || !mpOk mp 4 then illegal
      else
        match Fmt.ofCode ca, Fmt.ofCode cb with
        | some fa, some fb => must (gb || nz l || nz h || nz md) (.ok (.mdrain g fa fb mp))
        | _, _ => reserved
    | 0x08 =>
      if fld w 5 1 = 1 then
        if pairBad mintPair mintOne ca cb || lb cb l || !mpOk mp 5 then illegal
        else
          match Fmt.ofCode ca, Fmt.ofCode cb with
          | some fa, some fb =>
            if fld w 8 1 = 1 then must (gb || nz h || nz (fld w 6 2)) (.ok (.msigSD g fa fb l mp))
            else must (gb || nz (fld w 6 2)) (.ok (.msigS g fa fb l mp h))
          | _, _ => reserved
      else if fmtBad mintOne ca || !mpOk mp 5 then illegal
      else
        match Fmt.ofCode ca with
        | none => reserved
        | some fa =>
          if fld w 8 1 = 1 then must (gb || nz cb || nz l || nz h || nz (fld w 6 2)) (.ok (.msigD g fa mp))
          else must (gb || nz cb || nz l || nz (fld w 6 2)) (.ok (.msig g fa mp h))
    | 0x09 =>
      if fmtBad drainFmt ca || fmtBad drainFmt cb || !mpOk mp 5 then illegal
      else
        match Fmt.ofCode ca, Fmt.ofCode cb with
        | some fa, some fb => must (gb || nz l || nz h || nz md) (.ok (.mexpand g fa fb mp))
        | _, _ => reserved
    | 0x0A =>
      if fmtBad mintOne ca || fmtBad foldFmt cb || !mpOk mp 4 then illegal
      else
        match Fmt.ofCode ca, Fmt.ofCode cb with
        | some fa, some fb => must (gb || nz l || nz h || nz md) (.ok (.mfold g fa fb mp))
        | _, _ => reserved
    | 0x0B =>
      must (gb || nz ca || nz cb || nz l || nz h || nz (fld w 6 3))
        (.ok (if fld w 5 1 = 1 then .mspillLd g mp else .mspillSt g mp))
    | 0x0C =>
      if fld w 5 1 = 1 then
        must (gb || nz ca || nz cb || nz mp || nz h || nz (fld w 6 3)) (.ok (.mclearLatch g l))
      else must (gb || nz ca || nz cb || nz l || nz mp || nz h || nz (fld w 6 3)) (.ok (.mclearAcc g))
    | _ => illegal

/-! ### The copy slots (R95, R96, R205) -/

/-- R205: IRMODE; 3 is reserved. -/
def IrMode.ofCode (c : BitVec 2) : Option IrMode :=
  if c = 0 then some .dflt else if c = 1 then some .cont else if c = 2 then some .trap else none
/-- R205. -/
def IrMode.code : IrMode → BitVec 2
  | .dflt => 0 | .cont => 1 | .trap => 2

/-- R95, R96, R205: a copy slot. -/
def decodeC (c1 : Bool) (w : BitVec 32) : Dec :=
  if w = 0 then .ok .nop
  else
    let ch : BitVec 4 := fld w 22 4
    let r : BitVec 2 := fld w 20 2
    let xa : Reg := fld w 15 5
    let xb : Reg := fld w 10 5
    let h : BitVec 4 := fld w 6 4
    let g := mkGuard (fld w 3 3) (fld w 2 1)
    let md : BitVec 2 := fld w 0 2
    let m0 := decide (fld w 0 1 = 1)
    let m1 := decide (fld w 1 1 = 1)
    let nz {n : Nat} (x : BitVec n) := decide (x ≠ 0)
    let gb := g.bad
    match (fld w 26 6).toNat with
    | 0x01 => if ch = 15 then illegal else must (gb || nz xb || nz h || nz md) (.ok (.wset g c1 ch r xa))
    | 0x02 => must (gb || nz ch || nz xb || nz h || nz md) (.ok (.wchk g c1 r xa))
    | 0x03 =>
      must (gb || nz xb || nz h || m1) (.ok (if m0 then .dcopyWr g c1 ch r xa else .dcopyRd g c1 ch r xa))
    | 0x04 => must (gb || nz h || m1) (.ok (if m0 then .dtcopyWr g c1 ch r xa xb else .dtcopyRd g c1 ch r xa xb))
    | 0x05 =>
      if m1 then must (gb || nz r || nz xa || m0) (.ok (.dpushEos g c1 ch h xb))
      else must (gb || nz xb || m0) (.ok (.dpush g c1 ch r h xa))
    | 0x06 => must (gb || nz xb || nz md) (.ok (.dpop g c1 ch r h xa))
    | 0x07 =>
      must (gb || nz xb || nz h || m1) (.ok (if m0 then .dstashWr g c1 ch r xa else .dstashRd g c1 ch r xa))
    | 0x08 => must (gb || nz h || nz md) (.ok (.dgather g c1 ch r xa xb))
    | 0x09 =>
      must (gb || nz h || m0) (.ok (if m1 then .dscatterComb g c1 ch r xa xb else .dscatter g c1 ch r xa xb))
    | 0x0A =>
      match IrMode.ofCode md with
      | none => reserved
      | some im => must (gb || nz r) (.ok (.tgather g c1 ch h xa xb im))
    | 0x0B =>
      match IrMode.ofCode md with
      | none => reserved
      | some im => must (gb || nz r || nz h) (.ok (.tupdate g c1 ch xa xb im))
    | 0x0C => must (gb || nz r || nz h || nz md) (.ok (.tprefetch g c1 ch xa xb))
    | 0x0D => must (gb || nz r || nz h || nz md) (.ok (.xsub g c1 ch xa xb))
    | 0x0E => must (gb || nz ch || nz r || nz md) (.ok (.rdesc g c1 h xa xb))
    | 0x0F => must (gb || nz ch || nz r || nz xb || m1) (.ok (.rget g c1 xa h m0))
    | 0x10 =>
      must (gb || nz r || nz xb || nz h || decide (md = 3) || (decide (md = 2) && nz ch)) (.ok (.dlow g c1 xa ch md))
    | _ => illegal

/-! ### The synchronisation slot (R97, R98, R221) -/

/-- R97: the count from XR and N; none when N[12:5] of a register count is not zero. -/
def decCnt (w : BitVec 32) : Option Cnt :=
  if fld w 13 1 = 1 then (if fld w 5 8 = 0 then some (.reg (fld w 0 5)) else none) else some (.imm (fld w 0 13))

/-- R97, R98, R221: the y slot. -/
def decodeY (w : BitVec 32) : Dec :=
  if w = 0 then .ok .nop
  else
    let f : BitVec 5 := fld w 18 5
    let h : BitVec 4 := fld w 14 4
    let nz {n : Nat} (x : BitVec n) := decide (x ≠ 0)
    let noSc := nz (fld w 23 3)
    match (fld w 26 6).toNat with
    | 0x01 =>
      match Scope.ofCode (fld w 23 3), decCnt w with
      | some sc, some c => must (nz h) (.ok (.fwait f c sc))
      | _, _ => reserved
    | 0x02 =>
      match Scope.ofCode (fld w 23 3), decCnt w with
      | some sc, some c => must (nz h) (.ok (.fpost f c sc))
      | _, _ => reserved
    | 0x03 =>
      match decCnt w with
      | some c => must noSc (.ok (.rwaitC f h c))
      | none => reserved
    | 0x04 =>
      match decCnt w with
      | some c => must (noSc || nz f) (.ok (.rwaitP h c))
      | none => reserved
    | 0x05 =>
      match decCnt w with
      | some c => must (noSc || nz f) (.ok (.radvC h c))
      | none => reserved
    | 0x06 =>
      match decCnt w with
      | some c => must (noSc || nz f) (.ok (.radvP h c))
      | none => reserved
    | 0x07 => must (noSc || nz f || nz (fld w 0 14)) (.ok (.radvEos h))
    | 0x08 =>
      if f.toNat ≥ 16 then illegal
      else
        match Scope.ofCode (fld w 23 3), decCnt w with
        | some sc, some c => must (nz h) (.ok (.dwait (fld w 18 4) c sc))
        | _, _ => reserved
    | _ => illegal

/-! ### The hands (R223, R228) -/

/-- R225: CSR numbers of a hand. -/
def HCsr.ofCode (c : BitVec 12) : Option HCsr :=
  match c.toNat with
  | 0xC00 => some .cycle | 0xC01 => some .time | 0xC02 => some .instret | 0xCC0 => some .hid | 0xCC1 => some .hfeat
  | _ => none
/-- R225. -/
def HCsr.code : HCsr → BitVec 12
  | .cycle => 0xC00 | .time => 0xC01 | .instret => 0xC02 | .hid => 0xCC0 | .hfeat => 0xCC1

/-- funct7 and funct3 of the OP and OP-32 opcodes: the 32-bit-operand opcode when `w`. -/
def RvRR.code : RvRR → Bool × BitVec 7 × BitVec 3
  | .add => (false, 0x00, 0) | .sub => (false, 0x20, 0) | .sll => (false, 0x00, 1) | .slt => (false, 0x00, 2)
  | .sltu => (false, 0x00, 3) | .xor => (false, 0x00, 4) | .srl => (false, 0x00, 5) | .sra => (false, 0x20, 5)
  | .orr => (false, 0x00, 6) | .andd => (false, 0x00, 7)
  | .addw => (true, 0x00, 0) | .subw => (true, 0x20, 0) | .sllw => (true, 0x00, 1) | .srlw => (true, 0x00, 5)
  | .sraw => (true, 0x20, 5)
  | .mul => (false, 0x01, 0) | .mulh => (false, 0x01, 1) | .mulhsu => (false, 0x01, 2) | .mulhu => (false, 0x01, 3)
  | .div => (false, 0x01, 4) | .divu => (false, 0x01, 5) | .rem => (false, 0x01, 6) | .remu => (false, 0x01, 7)
  | .mulw => (true, 0x01, 0) | .divw => (true, 0x01, 4) | .divuw => (true, 0x01, 5) | .remw => (true, 0x01, 6)
  | .remuw => (true, 0x01, 7)
  | .sh1add => (false, 0x10, 2) | .sh2add => (false, 0x10, 4) | .sh3add => (false, 0x10, 6)
  | .addUw => (true, 0x04, 0) | .sh1addUw => (true, 0x10, 2) | .sh2addUw => (true, 0x10, 4) | .sh3addUw => (true, 0x10, 6)
  | .andn => (false, 0x20, 7) | .orn => (false, 0x20, 6) | .xnor => (false, 0x20, 4)
  | .max => (false, 0x05, 6) | .maxu => (false, 0x05, 7) | .min => (false, 0x05, 4) | .minu => (false, 0x05, 5)
  | .rol => (false, 0x30, 1) | .ror => (false, 0x30, 5) | .rolw => (true, 0x30, 1) | .rorw => (true, 0x30, 5)

/-- Every register-register operation. -/
def RvRR.all : List RvRR :=
  [.add, .sub, .sll, .slt, .sltu, .xor, .srl, .sra, .orr, .andd, .addw, .subw, .sllw, .srlw, .sraw, .mul, .mulh, .mulhsu,
   .mulhu, .div, .divu, .rem, .remu, .mulw, .divw, .divuw, .remw, .remuw, .sh1add, .sh2add, .sh3add, .addUw, .sh1addUw,
   .sh2addUw, .sh3addUw, .andn, .orn, .xnor, .max, .maxu, .min, .minu, .rol, .ror, .rolw, .rorw]

/-- The shifts by immediate: opcode with 32-bit operands, the bits above the amount, funct3. -/
def RvSh.code : RvSh → Bool × BitVec 6 × BitVec 3
  | .slli => (false, 0x00, 1) | .srli => (false, 0x00, 5) | .srai => (false, 0x10, 5) | .rori => (false, 0x18, 5)
  | .slliUw => (true, 0x02, 1) | .slliw => (true, 0x00, 1) | .srliw => (true, 0x00, 5) | .sraiw => (true, 0x10, 5)
  | .roriw => (true, 0x18, 5)

/-- Whether the amount is 5 bits wide. -/
def RvSh.short : RvSh → Bool
  | .slliw | .srliw | .sraiw | .roriw => true
  | _ => false

def RvSh.all : List RvSh := [.slli, .srli, .srai, .rori, .slliUw, .slliw, .srliw, .sraiw, .roriw]

/-- The Zbb operations of one register: opcode (0x13, 0x1B or 0x3B), imm12, funct3. -/
def RvUn.code : RvUn → BitVec 7 × BitVec 12 × BitVec 3
  | .clz => (0x13, 0x600, 1) | .ctz => (0x13, 0x601, 1) | .cpop => (0x13, 0x602, 1) | .sextB => (0x13, 0x604, 1)
  | .sextH => (0x13, 0x605, 1) | .zextH => (0x3B, 0x080, 4) | .orcB => (0x13, 0x287, 5) | .rev8 => (0x13, 0x6B8, 5)
  | .clzw => (0x1B, 0x600, 1) | .ctzw => (0x1B, 0x601, 1) | .cpopw => (0x1B, 0x602, 1)

def RvUn.all : List RvUn := [.clz, .ctz, .cpop, .sextB, .sextH, .zextH, .orcB, .rev8, .clzw, .ctzw, .cpopw]

def RvImm.code : RvImm → BitVec 7 × BitVec 3
  | .addi => (0x13, 0) | .slti => (0x13, 2) | .sltiu => (0x13, 3) | .xori => (0x13, 4) | .ori => (0x13, 6)
  | .andi => (0x13, 7) | .addiw => (0x1B, 0)
def RvImm.all : List RvImm := [.addi, .slti, .sltiu, .xori, .ori, .andi, .addiw]
def RvCond.code : RvCond → BitVec 3
  | .eq => 0 | .ne => 1 | .lt => 4 | .ge => 5 | .ltu => 6 | .geu => 7
def RvCond.all : List RvCond := [.eq, .ne, .lt, .ge, .ltu, .geu]
def RvLoad.code : RvLoad → BitVec 3
  | .lb => 0 | .lh => 1 | .lw => 2 | .ld => 3 | .lbu => 4 | .lhu => 5 | .lwu => 6
def RvLoad.all : List RvLoad := [.lb, .lh, .lw, .ld, .lbu, .lhu, .lwu]
def RvStore.code : RvStore → BitVec 3
  | .sb => 0 | .sh => 1 | .sw => 2 | .sd => 3
def RvStore.all : List RvStore := [.sb, .sh, .sw, .sd]

/-- A 32-bit instruction of RV64IM, Zicsr, Zba or Zbb that is no system operation, as its operation. -/
def decodeRvOp (w : BitVec 32) : Option RvOp :=
  let rd : Reg := fld w 7 5
  let f3 : BitVec 3 := fld w 12 3
  let rs1 : Reg := fld w 15 5
  let rs2 : Reg := fld w 20 5
  let f7 : BitVec 7 := fld w 25 7
  let imm : BitVec 12 := fld w 20 12
  let opc : BitVec 7 := fld w 0 7
  match opc.toNat with
  | 0x37 => some (.lui rd (fld w 12 20))
  | 0x17 => some (.auipc rd (fld w 12 20))
  | 0x6F => some (.jal rd (fld w 31 1 ++ fld w 12 8 ++ fld w 20 1 ++ fld w 21 10))
  | 0x67 => if f3 = 0 then some (.jalr rd rs1 imm) else none
  | 0x63 =>
    (RvCond.all.find? (fun c => c.code == f3)).map
      (fun c => .branch c rs1 rs2 (fld w 31 1 ++ fld w 7 1 ++ fld w 25 6 ++ fld w 8 4))
  | 0x03 => (RvLoad.all.find? (fun c => c.code == f3)).map (fun c => .load c rd rs1 imm)
  | 0x23 => (RvStore.all.find? (fun c => c.code == f3)).map (fun c => .store c rs1 rs2 (f7 ++ rd))
  | 0x13 | 0x1B =>
    match RvImm.all.find? (fun c => c.code == (opc, f3)) with
    | some c => some (.opImm c rd rs1 imm)
    | none =>
      match RvSh.all.find? (fun c => c.code == (decide (opc = 0x1B), fld w 26 6, f3)) with
      | some c => if c.short && decide (fld w 25 1 = 1) then none else some (.shImm c rd rs1 (fld w 20 6))
      | none => (RvUn.all.find? (fun c => c.code == (opc, imm, f3))).map (fun c => .unary c rd rs1)
  | 0x33 | 0x3B =>
    match RvRR.all.find? (fun c => c.code == (decide (opc = 0x3B), f7, f3)) with
    | some c => some (.op c rd rs1 rs2)
    | none => (RvUn.all.find? (fun c => c.code == (opc, imm, f3))).map (fun c => .unary c rd rs1)
  | 0x73 =>
    -- R225: only the forms that do not write
    match HCsr.ofCode imm with
    | none => none
    | some n =>
      if rs1 ≠ 0 then none
      else if f3 = 2 then some (.csr false false rd n)
      else if f3 = 3 then some (.csr true false rd n)
      else if f3 = 6 then some (.csr false true rd n)
      else if f3 = 7 then some (.csr true true rd n)
      else none
  | _ => none

/-- The register x8 to x15 of a compressed field. -/
def cReg (b : BitVec 3) : Reg := 0b01#2 ++ b

/-- A compressed instruction (RV64C without floating point), expanded; none where the code is reserved or floating
point. `ebreak` is not among them. -/
def expandC (h : BitVec 16) : Option RvOp :=
  let rd : Reg := fld h 7 5
  let rs2 : Reg := fld h 2 5
  let rdc : Reg := cReg (fld h 7 3)
  let rs2c : Reg := cReg (fld h 2 3)
  let i6 : BitVec 6 := fld h 12 1 ++ fld h 2 5
  let imm : BitVec 12 := i6.signExtend 12
  match (fld h 0 2).toNat, (fld h 13 3).toNat with
  | 0, 0 =>
    let nz : BitVec 12 := 0#2 ++ fld h 7 4 ++ fld h 11 2 ++ fld h 5 1 ++ fld h 6 1 ++ 0#2
    if nz = 0 then none else some (.opImm .addi rs2c 2 nz)
  | 0, 2 => some (.load .lw rs2c rdc (0#5 ++ fld h 5 1 ++ fld h 10 3 ++ fld h 6 1 ++ 0#2))
  | 0, 3 => some (.load .ld rs2c rdc (0#4 ++ fld h 5 2 ++ fld h 10 3 ++ 0#3))
  | 0, 6 => some (.store .sw rdc rs2c (0#5 ++ fld h 5 1 ++ fld h 10 3 ++ fld h 6 1 ++ 0#2))
  | 0, 7 => some (.store .sd rdc rs2c (0#4 ++ fld h 5 2 ++ fld h 10 3 ++ 0#3))
  | 1, 0 => some (.opImm .addi rd rd imm)
  | 1, 1 => if rd = 0 then none else some (.opImm .addiw rd rd imm)
  | 1, 2 => some (.opImm .addi rd 0 imm)
  | 1, 3 =>
    if i6 = 0 then none
    else if rd = 2 then
      some (.opImm .addi 2 2
        ((fld h 12 1 ++ fld h 3 2 ++ fld h 5 1 ++ fld h 2 1 ++ fld h 6 1 ++ (0#4) : BitVec 10).signExtend 12))
    else some (.lui rd (i6.signExtend 20))
  | 1, 4 =>
    match (fld h 10 2).toNat with
    | 0 => some (.shImm .srli rdc rdc i6)
    | 1 => some (.shImm .srai rdc rdc i6)
    | 2 => some (.opImm .andi rdc rdc imm)
    | _ =>
      match (fld h 12 1).toNat, (fld h 5 2).toNat with
      | 0, 0 => some (.op .sub rdc rdc rs2c)
      | 0, 1 => some (.op .xor rdc rdc rs2c)
      | 0, 2 => some (.op .orr rdc rdc rs2c)
      | 0, 3 => some (.op .andd rdc rdc rs2c)
      | 1, 0 => some (.op .subw rdc rdc rs2c)
      | 1, 1 => some (.op .addw rdc rdc rs2c)
      | _, _ => none
  | 1, 5 =>
    some (.jal 0 ((fld h 12 1 ++ fld h 8 1 ++ fld h 9 2 ++ fld h 6 1 ++ fld h 7 1 ++ fld h 2 1 ++ fld h 11 1 ++ fld h 3 3 :
      BitVec 11).signExtend 20))
  | 1, 6 => some (.branch .eq rdc 0 ((fld h 12 1 ++ fld h 5 2 ++ fld h 2 1 ++ fld h 10 2 ++ fld h 3 2 : BitVec 8).signExtend 12))
  | 1, 7 => some (.branch .ne rdc 0 ((fld h 12 1 ++ fld h 5 2 ++ fld h 2 1 ++ fld h 10 2 ++ fld h 3 2 : BitVec 8).signExtend 12))
  | 2, 0 => some (.shImm .slli rd rd i6)
  | 2, 2 => if rd = 0 then none else some (.load .lw rd 2 (0#4 ++ fld h 2 2 ++ fld h 12 1 ++ fld h 4 3 ++ 0#2))
  | 2, 3 => if rd = 0 then none else some (.load .ld rd 2 (0#3 ++ fld h 2 3 ++ fld h 12 1 ++ fld h 5 2 ++ 0#3))
  | 2, 4 =>
    if fld h 12 1 = 0 then
      if rs2 = 0 then (if rd = 0 then none else some (.jalr 0 rd 0)) else some (.op .add rd 0 rs2)
    else if rs2 = 0 then (if rd = 0 then none else some (.jalr 1 rd 0))
    else some (.op .add rd rd rs2)
  | 2, 6 => some (.store .sw 2 rs2 (0#4 ++ fld h 7 2 ++ fld h 9 4 ++ 0#2))
  | 2, 7 => some (.store .sd 2 rs2 (0#3 ++ fld h 7 3 ++ fld h 10 3 ++ 0#3))
  | _, _ => none

/-- R228: the Xjvhand instructions; none of the two custom opcodes gives `illegal` here too. -/
def decodeX (w : BitVec 32) : Dec :=
  let rd : Reg := fld w 7 5
  let rs1 : Reg := fld w 15 5
  let rs2 : Reg := fld w 20 5
  let imm : BitVec 12 := fld w 20 12
  let h : BitVec 4 := fld w 20 4
  let nz {n : Nat} (x : BitVec n) := decide (x ≠ 0)
  match (fld w 0 7).toNat, (fld w 12 3).toNat with
  | 0x0B, 0 =>
    match (fld w 25 7).toNat with
    | 0 => must (nz rs2) (.ok (.hDcmd rd rs1))
    | 1 => must (nz rs2) (.ok (.hTcmd rd rs1))
    | _ => illegal
  | 0x0B, 1 =>
    if fld imm 0 4 = 15 then illegal else must (nz rd || nz (fld imm 6 6)) (.ok (.hWset (fld imm 4 2) (fld imm 0 4) rs1))
  | 0x0B, 2 => must (nz rs1 || nz (fld imm 0 4) || nz (fld imm 6 6)) (.ok (.hWchk rd (fld imm 4 2)))
  | 0x0B, 3 =>
    if fld imm 4 2 = 3 then illegal
    else
      must (nz rs1 || nz (fld imm 6 6) || (decide (fld imm 4 2 = 2) && nz h)) (.ok (.hDlow rd h (fld imm 4 2)))
  | 0x0B, 4 =>
    match Scope.ofCode (fld imm 5 3) with
    | none => reserved
    | some sc =>
      must (nz rd || nz (fld imm 8 4)) (.ok (if fld imm 4 1 = 1 then .hDwaitId h rs1 sc else .hDwait h rs1 sc))
  | 0x2B, 0 => must (nz (fld imm 4 8)) (.ok (.hRwaitC rd h rs1))
  | 0x2B, 1 => must (nz rd || nz (fld imm 4 8)) (.ok (.hRwaitP h rs1))
  | 0x2B, 2 => must (nz rd || nz (fld imm 4 8)) (.ok (.hRadvC h rs1))
  | 0x2B, 3 => must (nz rd || nz (fld imm 4 8)) (.ok (.hRadvP h rs1))
  | 0x2B, 4 => must (nz rd || nz rs1 || nz (fld imm 4 8)) (.ok (.hRadvEos h))
  | 0x2B, 5 =>
    match Scope.ofCode (fld imm 5 3) with
    | none => reserved
    | some sc => must (nz rd || nz (fld imm 8 4)) (.ok (.hFwait (fld imm 0 5) rs1 sc))
  | 0x2B, 6 =>
    match Scope.ofCode (fld imm 5 3) with
    | none => reserved
    | some sc => must (nz rd || nz (fld imm 8 4)) (.ok (.hFpost (fld imm 0 5) rs1 sc))
  | 0x2B, 7 =>
    match (fld imm 8 4).toNat with
    | 0 =>
      match Scope.ofCode (fld imm 0 3) with
      | none => reserved
      | some sc => must (nz rd || nz rs1 || nz (fld imm 3 5)) (.ok (.hFence sc))
    | 1 => must (nz rs1 || nz (fld imm 5 3)) (.ok (.hRget rd h (decide (fld imm 4 1 = 1))))
    | 2 => must (nz rd || nz rs1) (.ok (.hExit (fld imm 0 8)))
    | _ => illegal
  | _, _ => illegal

/-- R223, R227: a hand's instruction, from the 32 bits at its address; a compressed one is in the low half. -/
def decodeH (w : BitVec 32) : Dec :=
  if fld w 0 2 ≠ 3 then
    let h : BitVec 16 := fld w 0 16
    if h = 0x9002 then .ok (.handEbreak (.compressed h))
    else
      match expandC h with
      | some i => .ok (.handRvInstruction i (.compressed h))
      | none => illegal
  else if w = 0x00000073 then .ok .handEcall
  else if w = 0x00100073 then .ok (.handEbreak .full)
  else if w = 0x30200073 then .ok (.handPrivileged .mret)
  else if w = 0x10200073 then .ok (.handPrivileged .sret)
  else if w = 0x10500073 then .ok (.handPrivileged .wfi)
  else if fld w 0 7 = 0x0F ∧ fld w 12 3 = 0 then .ok (.handRvFence (fld w 20 12) (fld w 15 5) (fld w 7 5))
  else if fld w 0 7 = 0x0B ∨ fld w 0 7 = 0x2B then decodeX w
  else
    match decodeRvOp w with
    | some i => .ok (.handRvInstruction i .full)
    | none => illegal

/-- Whether a hand's instruction is 16 bits long. -/
def hShort (w : BitVec 32) : Bool := decide (fld w 0 2 ≠ 3)

/-! ### Micro-words (R239, R240) -/

/-- R239, R240, R242 to R244: a micro-word. -/
def decodeRow (w : BitVec 64) : Except Cause RowOp :=
  if w = 0 then .ok .rowNop
  else
    let x : BitVec 4 := fld w 54 4
    let gd : RowReg := fld w 51 3
    let ga : RowReg := fld w 48 3
    let gb : RowReg := fld w 45 3
    let sd : BitVec 4 := fld w 41 4
    let sa : BitVec 4 := fld w 37 4
    let sb : BitVec 4 := fld w 33 4
    let imm : Word := fld w 0 32
    let lbl : BitVec 10 := fld w 0 10
    let nz {n : Nat} (y : BitVec n) := decide (y ≠ 0)
    let rs := nz (fld w 32 1)
    let hi := nz (fld w 10 22)
    let tbad (r : RowReg) := decide (r.toNat ≥ 2)
    let t (r : RowReg) := decide (r = 1)
    match (fld w 58 6).toNat with
    | 0x01 => must (rs || hi || nz x || nz gd || nz ga || nz gb || nz sd || nz sa || nz sb) (.ok (.rowNext lbl))
    | 0x02 => must (rs || hi || nz x || nz gd || nz ga || nz gb || nz sd || nz sa || nz sb) (.ok (.rowBr lbl))
    | 0x03 => must (rs || hi || nz x || nz gd || nz ga || nz gb || nz sd || nz sb) (.ok (.rowLoop sa lbl))
    | 0x04 => must (rs || nz x || nz gd || nz ga || nz gb || nz sd || nz sa || nz sb || nz imm) (.ok .rowHalt)
    | 0x08 => must (rs || nz x || nz ga || nz gb || nz sd || nz sa || nz sb || nz imm) (.ok (.rowLdt gd))
    | 0x09 => must (rs || nz x || nz ga || nz gb || nz sd || nz sa || nz sb || nz imm) (.ok (.rowLdg gd))
    | 0x0A =>
      if x.toNat ≥ 2 then illegal
      else must (rs || nz ga || nz gb || nz sd || nz sa || nz sb || nz imm) (.ok (.rowLds gd (decide (x = 1))))
    | 0x0B =>
      if x.toNat ≥ 4 then illegal
      else must (rs || nz gd || nz ga || nz gb || nz sa || nz sb || nz imm) (.ok (.rowLdss sd (fld x 0 2)))
    | 0x0C =>
      if x.toNat ≥ 6 then illegal
      else must (rs || nz gd || nz ga || nz gb || nz sa || nz sb || nz imm) (.ok (.rowLdc sd (fld x 0 3)))
    | 0x0D => must (rs || nz x || nz gd || nz ga || nz gb || nz sa || nz sb) (.ok (.rowMovi sd imm))
    | 0x10 => must (rs || nz x || nz sd || nz sa || nz sb || nz imm) (.ok (.rowAdd gd ga gb))
    | 0x11 => must (rs || nz x || nz sd || nz sa || nz sb || nz imm) (.ok (.rowSub gd ga gb))
    | 0x12 => must (rs || nz x || nz sd || nz sa || nz sb || nz imm) (.ok (.rowMul gd ga gb))
    | 0x13 => must (rs || nz x || nz sd || nz sa || nz sb || nz imm) (.ok (.rowMac gd ga gb))
    | 0x14 => must (rs || nz x || nz gb || nz sd || nz sa || nz imm) (.ok (.rowSmul gd ga sb))
    | 0x15 => must (rs || nz x || nz gb || nz sd || nz sa || nz imm) (.ok (.rowSmac gd ga sb))
    | 0x16 => must (rs || nz x || nz gb || nz sd || nz sa || nz sb || nz imm) (.ok (.rowSq gd ga))
    | 0x17 => must (rs || nz x || nz sd || nz sa || nz sb || nz imm) (.ok (.rowMax gd ga gb))
    | 0x18 => must (rs || nz x || nz gd || nz gb || nz sa || nz sb || nz imm) (.ok (.rowHsum sd ga))
    | 0x19 => must (rs || nz x || nz gb || nz sd || nz sa || nz imm) (.ok (.rowRsq gd ga sb))
    | 0x1A =>
      let bad := rs || nz gd || nz ga || nz gb || nz imm
      match x.toNat with
      | 0 => must bad (.ok (.rowSopAdd sd sa sb))
      | 1 => must bad (.ok (.rowSopSub sd sa sb))
      | 2 => must bad (.ok (.rowSopMul sd sa sb))
      | 3 => must bad (.ok (.rowSopDiv sd sa sb))
      | 4 => must bad (.ok (.rowSopMac sd sa sb))
      | 5 => must bad (.ok (.rowSopRsqe sd sa sb))
      | 6 => must bad (.ok (.rowSopMax sd sa sb))
      | 7 => must (bad || nz sb) (.ok (.rowSopMov sd sa))
      | _ => illegal
    | 0x20 =>
      if tbad gd then illegal else must (rs || nz x || nz gb || nz sd || nz sa || nz imm) (.ok (.rowQacc (t gd) ga sb))
    | 0x21 =>
      if tbad gd || tbad ga then illegal
      else must (rs || nz x || nz gb || nz sd || nz sa || nz sb || nz imm) (.ok (.rowQmix (t gd) (t ga)))
    | 0x22 =>
      if tbad gd then illegal
      else must (rs || nz x || nz ga || nz gb || nz sd || nz sa || nz sb || nz imm) (.ok (.rowQnew (t gd)))
    | 0x28 =>
      if x.toNat ≥ 2 then illegal
      else
        must (rs || nz gd || nz gb || nz sd || nz sa || nz sb || nz imm) (.ok (if x = 1 then .rowStqRq ga else .rowStq ga))
    | 0x29 =>
      if x.toNat ≥ 2 then illegal
      else must (rs || nz gd || nz gb || nz sd || nz sa || nz sb || nz imm) (.ok (.rowSts ga (decide (x = 1))))
    | 0x2A =>
      if x.toNat ≥ 4 then illegal
      else must (rs || nz gd || nz ga || nz gb || nz sd || nz sb || nz imm) (.ok (.rowStss sa (fld x 0 2)))
    | 0x30 => must (rs || nz x || nz gd || nz gb || nz sd || nz sa || nz sb || nz imm) (.ok (.rowEmit ga))
    | 0x31 =>
      if tbad ga then illegal
      else must (rs || nz x || nz gd || nz gb || nz sd || nz sa || nz sb || nz imm) (.ok (.rowEmitq (t ga)))
    | _ => illegal

/-- A micro-word as an instruction. Lean's runtime has no tag for the later constructors of `Instr`, so this one is only
evaluated in proofs; the row unit runs the `RowOp` itself. -/
noncomputable def decodeR (w : BitVec 64) : Dec := (decodeRow w).map RowOp.instr

/-! ### Encoders, from the same tables -/

/-- The words of an instruction: which slot or store they stand in. -/
inductive Words where
  | s (w : BitVec 48)
  | v (v1 : Bool) (w : BitVec 32) (cw : BitVec 256)
  | m (w : BitVec 32)
  | c (c1 : Bool) (w : BitVec 32)
  | y (w : BitVec 32)
  | h (w : BitVec 32)
  | r (w : BitVec 64)
  deriving DecidableEq, Repr

/-- Decoding words. -/
noncomputable def decodeWords : Words → Dec
  | .s w => decodeS w
  | .v v1 w cw => decodeV v1 w cw
  | .m w => decodeM w
  | .c c1 w => decodeC c1 w
  | .y w => decodeY w
  | .h w => decodeH w
  | .r w => decodeR w

def b1 (b : Bool) : BitVec 1 := if b then 1 else 0

/-- The head of a scalar slot (R88): OP, PG, PS. -/
def sHead (op : BitVec 6) (g : Guard) : BitVec 10 := op ++ g.pg ++ b1 g.inv
def encSR (op : BitVec 6) (fn : BitVec 11) (g : Guard) (rd ra rb : Reg) : Words :=
  .s (sHead op g ++ rd ++ ra ++ rb ++ fn ++ (0 : BitVec 12))
def encSI (op : BitVec 6) (g : Guard) (rd ra : Reg) (imm : BitVec 28) : Words := .s (sHead op g ++ rd ++ ra ++ imm)
def encSU (op : BitVec 6) (g : Guard) (rd : Reg) (imm : BitVec 33) : Words := .s (sHead op g ++ rd ++ imm)
def encSM (op : BitVec 6) (sz : BitVec 2) (sx : BitVec 1) (g : Guard) (rd ra : Reg) (sp : Space) (imm : BitVec 23) : Words :=
  .s (sHead op g ++ rd ++ ra ++ sp.code ++ sz ++ sx ++ imm)
def encSA (fn : BitVec 4) (g : Guard) (rd ra rb rc : Reg) (sc : Scope) : Words :=
  .s (sHead 0x12 g ++ rd ++ ra ++ rb ++ rc ++ sc.code ++ (0 : BitVec 1) ++ fn ++ (0 : BitVec 10))
def encSC (op : BitVec 6) (fn : BitVec 5) (g : Guard) (rd ra : Reg) (csr : BitVec 12) (imm : BitVec 11) : Words :=
  .s (sHead op g ++ rd ++ ra ++ csr ++ fn ++ imm)
/-- A predicate number in a register field. -/
def pf (p : PReg) : Reg := (0 : BitVec 2) ++ p
def CsrOp.code : CsrOp → BitVec 5
  | .write => 1 | .set => 2 | .clear => 3

/-- R90: the syllable. -/
def encSyl (a : VArgs) : BitVec 32 := a.idx ++ a.vd ++ a.va ++ a.vb ++ a.g.pg ++ b1 a.g.inv ++ (0 : BitVec 1)
/-- R91: the control word. -/
def encVcw (o : VOp) (w : Vcw) : BitVec 256 :=
  o.code ++ w.fa.code ++ w.fb.code ++ w.fd.code ++ w.rm.code ++ w.fli.code ++ w.flo.code ++ b1 w.sat ++ w.gmask ++
    w.buf.code ++ w.xb ++ w.ring ++ w.exsel ++ b1 w.emptynan ++ (0 : BitVec 13) ++ w.imm0 ++ w.imm1 ++ w.shuf ++ w.sfp ++
    (0 : BitVec 48)

/-- R93: the m slot. -/
def encM (op : BitVec 6) (fa fb : BitVec 4) (l : BitVec 2) (mp : BitVec 3) (h md : BitVec 4) (g : Guard) : Words :=
  .m (op ++ fa ++ fb ++ l ++ mp ++ h ++ md ++ g.pg ++ b1 g.inv ++ (0 : BitVec 1))
/-- R95: a copy slot. -/
def encC (op : BitVec 6) (ch : BitVec 4) (w : BitVec 2) (xa xb : Reg) (h : BitVec 4) (md : BitVec 2) (g : Guard)
    (c1 : Bool) : Words :=
  .c c1 (op ++ ch ++ w ++ xa ++ xb ++ h ++ g.pg ++ b1 g.inv ++ md)
/-- R97: XR and N. -/
def Cnt.code : Cnt → BitVec 14
  | .imm n => (0 : BitVec 1) ++ n
  | .reg r => (1 : BitVec 1) ++ (0 : BitVec 8) ++ r
def encY (op : BitVec 6) (sc : BitVec 3) (f : BitVec 5) (h : BitVec 4) (c : BitVec 14) : Words :=
  .y (op ++ sc ++ f ++ h ++ c)

/-- The I and R formats of the base ISA. -/
def encI (opc : BitVec 7) (f3 : BitVec 3) (imm : BitVec 12) (rs1 rd : Reg) : BitVec 32 := imm ++ rs1 ++ f3 ++ rd ++ opc
def encRr (opc : BitVec 7) (f3 : BitVec 3) (f7 : BitVec 7) (rs2 rs1 rd : Reg) : BitVec 32 :=
  f7 ++ rs2 ++ rs1 ++ f3 ++ rd ++ opc

/-- The 32-bit word of a hand's base operation. -/
def RvOp.word : RvOp → BitVec 32
  | .lui rd imm => imm ++ rd ++ (0x37 : BitVec 7)
  | .auipc rd imm => imm ++ rd ++ (0x17 : BitVec 7)
  | .jal rd off => fld off 19 1 ++ fld off 0 10 ++ fld off 10 1 ++ fld off 11 8 ++ rd ++ (0x6F : BitVec 7)
  | .jalr rd rs1 imm => encI 0x67 0 imm rs1 rd
  | .branch c rs1 rs2 off =>
    fld off 11 1 ++ fld off 4 6 ++ rs2 ++ rs1 ++ c.code ++ fld off 0 4 ++ fld off 10 1 ++ (0x63 : BitVec 7)
  | .load o rd rs1 imm => encI 0x03 o.code imm rs1 rd
  | .store o rs1 rs2 imm => encRr 0x23 o.code (fld imm 5 7) rs2 rs1 (fld imm 0 5)
  | .opImm o rd rs1 imm => encI o.code.1 o.code.2 imm rs1 rd
  | .shImm o rd rs1 sh => encI (if o.code.1 then 0x1B else 0x13) o.code.2.2 (o.code.2.1 ++ sh) rs1 rd
  | .op o rd rs1 rs2 => encRr (if o.code.1 then 0x3B else 0x33) o.code.2.2 o.code.2.1 rs2 rs1 rd
  | .unary o rd rs1 => encI o.code.1 o.code.2.2 o.code.2.1 rs1 rd
  | .csr clr im rd n => encI 0x73 (if im then (if clr then 7 else 6) else (if clr then 3 else 2)) n.code 0 rd

/-- R228: custom-0 and custom-1. -/
def encX0 (f3 : BitVec 3) (imm : BitVec 12) (rs1 rd : Reg) : Words := .h (encI 0x0B f3 imm rs1 rd)
def encX1 (f3 : BitVec 3) (imm : BitVec 12) (rs1 rd : Reg) : Words := .h (encI 0x2B f3 imm rs1 rd)

/-- R239: a micro-word. -/
def encR (op : BitVec 6) (x : BitVec 4) (gd ga gb : RowReg) (sd sa sb : BitVec 4) (imm : Word) : Words :=
  .r (op ++ x ++ gd ++ ga ++ gb ++ sd ++ sa ++ sb ++ (0 : BitVec 1) ++ imm)
def tr (t : Bool) : RowReg := if t then 1 else 0
def lb10 (l : BitVec 10) : Word := (0 : BitVec 22) ++ l

/-- The words of an instruction; none for an event, which has no encoding. -/
def encode (i : Instr) : Option Words :=
  match i.vop? with
  | some (o, a) => some (.v a.v1 (encSyl a) (encVcw o a.w))
  | none =>
  match i with
  | .nop => some (.s 0)
  | .add g rd ra rb => some (encSR 0x01 0 g rd ra rb)
  | .sub g rd ra rb => some (encSR 0x01 1 g rd ra rb)
  | .andR g rd ra rb => some (encSR 0x01 2 g rd ra rb)
  | .orR g rd ra rb => some (encSR 0x01 3 g rd ra rb)
  | .xor g rd ra rb => some (encSR 0x01 4 g rd ra rb)
  | .sll g rd ra rb => some (encSR 0x01 5 g rd ra rb)
  | .srl g rd ra rb => some (encSR 0x01 6 g rd ra rb)
  | .sra g rd ra rb => some (encSR 0x01 7 g rd ra rb)
  | .slt g rd ra rb => some (encSR 0x01 8 g rd ra rb)
  | .sltu g rd ra rb => some (encSR 0x01 9 g rd ra rb)
  | .min g rd ra rb => some (encSR 0x01 10 g rd ra rb)
  | .max g rd ra rb => some (encSR 0x01 11 g rd ra rb)
  | .minu g rd ra rb => some (encSR 0x01 12 g rd ra rb)
  | .maxu g rd ra rb => some (encSR 0x01 13 g rd ra rb)
  | .mul g rd ra rb => some (encSR 0x09 0 g rd ra rb)
  | .mulh g rd ra rb => some (encSR 0x09 1 g rd ra rb)
  | .mulhu g rd ra rb => some (encSR 0x09 2 g rd ra rb)
  | .div g rd ra rb => some (encSR 0x09 3 g rd ra rb)
  | .divu g rd ra rb => some (encSR 0x09 4 g rd ra rb)
  | .rem g rd ra rb => some (encSR 0x09 5 g rd ra rb)
  | .remu g rd ra rb => some (encSR 0x09 6 g rd ra rb)
  | .addi g rd ra imm => some (encSI 0x02 g rd ra imm)
  | .andi g rd ra imm => some (encSI 0x03 g rd ra imm)
  | .ori g rd ra imm => some (encSI 0x04 g rd ra imm)
  | .xori g rd ra imm => some (encSI 0x05 g rd ra imm)
  | .slli g rd ra sh => some (encSI 0x06 g rd ra ((0 : BitVec 20) ++ (0 : BitVec 2) ++ sh))
  | .srli g rd ra sh => some (encSI 0x06 g rd ra ((0 : BitVec 20) ++ (1 : BitVec 2) ++ sh))
  | .srai g rd ra sh => some (encSI 0x06 g rd ra ((0 : BitVec 20) ++ (2 : BitVec 2) ++ sh))
  | .li g rd imm => some (encSU 0x07 g rd imm)
  | .lih g rd imm => some (encSU 0x08 g rd imm)
  | .cmpEq g pd ra rb => some (encSR 0x0A 0 g (pf pd) ra rb)
  | .cmpNe g pd ra rb => some (encSR 0x0A 1 g (pf pd) ra rb)
  | .cmpLt g pd ra rb => some (encSR 0x0A 2 g (pf pd) ra rb)
  | .cmpLtu g pd ra rb => some (encSR 0x0A 3 g (pf pd) ra rb)
  | .cmpGe g pd ra rb => some (encSR 0x0A 4 g (pf pd) ra rb)
  | .cmpGeu g pd ra rb => some (encSR 0x0A 5 g (pf pd) ra rb)
  | .cmpiEq g pd ra imm => some (encSI 0x0B g (pf pd) ra ((0 : BitVec 3) ++ imm))
  | .cmpiNe g pd ra imm => some (encSI 0x0B g (pf pd) ra ((1 : BitVec 3) ++ imm))
  | .cmpiLt g pd ra imm => some (encSI 0x0B g (pf pd) ra ((2 : BitVec 3) ++ imm))
  | .cmpiLtu g pd ra imm => some (encSI 0x0B g (pf pd) ra ((3 : BitVec 3) ++ imm))
  | .cmpiGe g pd ra imm => some (encSI 0x0B g (pf pd) ra ((4 : BitVec 3) ++ imm))
  | .cmpiGeu g pd ra imm => some (encSI 0x0B g (pf pd) ra ((5 : BitVec 3) ++ imm))
  | .pand g pd pa pb => some (encSR 0x0C 0 g (pf pd) (pf pa) (pf pb))
  | .por g pd pa pb => some (encSR 0x0C 1 g (pf pd) (pf pa) (pf pb))
  | .pxor g pd pa pb => some (encSR 0x0C 2 g (pf pd) (pf pa) (pf pb))
  | .pnot g pd pa => some (encSR 0x0C 3 g (pf pd) (pf pa) 0)
  | .clz g rd ra => some (encSR 0x0D 0 g rd ra 0)
  | .ctz g rd ra => some (encSR 0x0D 1 g rd ra 0)
  | .popc g rd ra => some (encSR 0x0D 2 g rd ra 0)
  | .sextB g rd ra => some (encSR 0x0D 3 g rd ra 0)
  | .sextH g rd ra => some (encSR 0x0D 4 g rd ra 0)
  | .sextW g rd ra => some (encSR 0x0D 5 g rd ra 0)
  | .zextB g rd ra => some (encSR 0x0D 6 g rd ra 0)
  | .zextH g rd ra => some (encSR 0x0D 7 g rd ra 0)
  | .zextW g rd ra => some (encSR 0x0D 8 g rd ra 0)
  | .ldB g rd ra sp imm => some (encSM 0x10 0 0 g rd ra sp imm)
  | .ldH g rd ra sp imm => some (encSM 0x10 1 0 g rd ra sp imm)
  | .ldW g rd ra sp imm => some (encSM 0x10 2 0 g rd ra sp imm)
  | .ldD g rd ra sp imm => some (encSM 0x10 3 0 g rd ra sp imm)
  | .ldBs g rd ra sp imm => some (encSM 0x10 0 1 g rd ra sp imm)
  | .ldHs g rd ra sp imm => some (encSM 0x10 1 1 g rd ra sp imm)
  | .ldWs g rd ra sp imm => some (encSM 0x10 2 1 g rd ra sp imm)
  | .stB g rs ra sp imm => some (encSM 0x11 0 0 g rs ra sp imm)
  | .stH g rs ra sp imm => some (encSM 0x11 1 0 g rs ra sp imm)
  | .stW g rs ra sp imm => some (encSM 0x11 2 0 g rs ra sp imm)
  | .stD g rs ra sp imm => some (encSM 0x11 3 0 g rs ra sp imm)
  | .amoAdd g rd ra rb sc => some (encSA 0 g rd ra rb 0 sc)
  | .amoAnd g rd ra rb sc => some (encSA 1 g rd ra rb 0 sc)
  | .amoOr g rd ra rb sc => some (encSA 2 g rd ra rb 0 sc)
  | .amoXor g rd ra rb sc => some (encSA 3 g rd ra rb 0 sc)
  | .amoMin g rd ra rb sc => some (encSA 4 g rd ra rb 0 sc)
  | .amoMax g rd ra rb sc => some (encSA 5 g rd ra rb 0 sc)
  | .amoSwap g rd ra rb sc => some (encSA 6 g rd ra rb 0 sc)
  | .amoCas g rd ra rb rc sc => some (encSA 7 g rd ra rb rc sc)
  | .amoAddW g rd ra rb sc => some (encSA 8 g rd ra rb 0 sc)
  | .amoAndW g rd ra rb sc => some (encSA 9 g rd ra rb 0 sc)
  | .amoOrW g rd ra rb sc => some (encSA 10 g rd ra rb 0 sc)
  | .amoXorW g rd ra rb sc => some (encSA 11 g rd ra rb 0 sc)
  | .amoMinW g rd ra rb sc => some (encSA 12 g rd ra rb 0 sc)
  | .amoMaxW g rd ra rb sc => some (encSA 13 g rd ra rb 0 sc)
  | .amoSwapW g rd ra rb sc => some (encSA 14 g rd ra rb 0 sc)
  | .amoCasW g rd ra rb rc sc => some (encSA 15 g rd ra rb rc sc)
  | .br g off => some (encSU 0x18 g 0 off)
  | .call g rd off => some (encSU 0x19 g rd off)
  | .jr g ra => some (encSR 0x1A 0 g 0 ra 0)
  | .jalr g rd ra => some (encSR 0x1A 1 g rd ra 0)
  | .loop g lv ra imm => some (.s (sHead 0x1B g ++ lv ++ ra ++ imm))
  | .lctlRd g rd lv => some (encSR 0x1C 0 g rd 0 ((0 : BitVec 2) ++ lv))
  | .lctlBnd g rd lv => some (encSR 0x1C 1 g rd 0 ((0 : BitVec 2) ++ lv))
  | .lctlBrk g lv => some (encSR 0x1C 2 g 0 0 ((0 : BitVec 2) ++ lv))
  | .csrr g rd c => some (encSC 0x20 0 g rd 0 c.code 0)
  | .csrw g rd ra c => some (encSC 0x20 1 g rd ra c.code 0)
  | .csrs g rd ra c => some (encSC 0x20 2 g rd ra c.code 0)
  | .csrc g rd ra c => some (encSC 0x20 3 g rd ra c.code 0)
  | .erpop g op rd ra => some (encSC 0x20 op.code g rd ra 0x107 0)
  | .fence g sc => some (encSC 0x21 0 g 0 0 0 ((0 : BitVec 8) ++ sc.code))
  | .drain g sc => some (encSC 0x21 1 g 0 0 0 ((0 : BitVec 8) ++ sc.code))
  | .trap g imm => some (encSC 0x22 0 g 0 0 0 imm)
  | .brk g imm => some (encSC 0x22 1 g 0 0 0 imm)
  | .eret g => some (encSC 0x22 2 g 0 0 0 0)
  | .exit g imm => some (encSC 0x22 3 g 0 0 0 imm)
  | .rdtime g rd => some (encSC 0x23 0 g rd 0 0 0)
  | .rdfeat g rd sel => some (encSC 0x23 1 g rd 0 0 ((0 : BitVec 10) ++ b1 sel))
  | .mmodeWs g => some (encM 0x01 0 0 0 0 0 0 g)
  | .mmodeRs g => some (encM 0x01 0 0 0 0 0 1 g)
  | .mlatch g fb l mp => some (encM 0x02 0 fb.code l mp 0 0 g)
  | .mlatchT g fb l mp => some (encM 0x03 0 fb.code l mp 0 0 g)
  | .mstream g fa fb l mp h => some (encM 0x04 fa.code fb.code l mp h 0 g)
  | .mstreamD g fa fb l mp => some (encM 0x04 fa.code fb.code l mp 0 8 g)
  | .mouter g fa fb mp h => some (encM 0x05 fa.code fb.code 0 mp h 0 g)
  | .mouterD g fa fb mp => some (encM 0x05 fa.code fb.code 0 mp 0 8 g)
  | .mscale g mp idx => some (encM 0x06 0 0 (fld idx 8 2) mp (fld idx 4 4) (fld idx 0 4) g)
  | .mdrain g fa fb mp => some (encM 0x07 fa.code fb.code 0 mp 0 0 g)
  | .msig g fa mp h => some (encM 0x08 fa.code 0 0 mp h 0 g)
  | .msigD g fa mp => some (encM 0x08 fa.code 0 0 mp 0 8 g)
  | .msigS g fa fb l mp h => some (encM 0x08 fa.code fb.code l mp h 1 g)
  | .msigSD g fa fb l mp => some (encM 0x08 fa.code fb.code l mp 0 9 g)
  | .mexpand g fa fb mp => some (encM 0x09 fa.code fb.code 0 mp 0 0 g)
  | .mfold g fa fb mp => some (encM 0x0A fa.code fb.code 0 mp 0 0 g)
  | .mspillSt g mp => some (encM 0x0B 0 0 0 mp 0 0 g)
  | .mspillLd g mp => some (encM 0x0B 0 0 0 mp 0 1 g)
  | .mclearAcc g => some (encM 0x0C 0 0 0 0 0 0 g)
  | .mclearLatch g l => some (encM 0x0C 0 0 l 0 0 1 g)
  | .wset g c1 fl w xa => some (encC 0x01 fl w xa 0 0 0 g c1)
  | .wchk g c1 w xd => some (encC 0x02 0 w xd 0 0 0 g c1)
  | .dcopyRd g c1 ch w xa => some (encC 0x03 ch w xa 0 0 0 g c1)
  | .dcopyWr g c1 ch w xa => some (encC 0x03 ch w xa 0 0 1 g c1)
  | .dtcopyRd g c1 ch w xa xb => some (encC 0x04 ch w xa xb 0 0 g c1)
  | .dtcopyWr g c1 ch w xa xb => some (encC 0x04 ch w xa xb 0 1 g c1)
  | .dpush g c1 ch w h xa => some (encC 0x05 ch w xa 0 h 0 g c1)
  | .dpushEos g c1 ch h xb => some (encC 0x05 ch 0 0 xb h 2 g c1)
  | .dpop g c1 ch w h xa => some (encC 0x06 ch w xa 0 h 0 g c1)
  | .dstashRd g c1 ch w xa => some (encC 0x07 ch w xa 0 0 0 g c1)
  | .dstashWr g c1 ch w xa => some (encC 0x07 ch w xa 0 0 1 g c1)
  | .dgather g c1 ch w xa xb => some (encC 0x08 ch w xa xb 0 0 g c1)
  | .dscatter g c1 ch w xa xb => some (encC 0x09 ch w xa xb 0 0 g c1)
  | .dscatterComb g c1 ch w xa xb => some (encC 0x09 ch w xa xb 0 2 g c1)
  | .tgather g c1 ch h xa xb im => some (encC 0x0A ch 0 xa xb h im.code g c1)
  | .tupdate g c1 ch xa xb im => some (encC 0x0B ch 0 xa xb 0 im.code g c1)
  | .tprefetch g c1 ch xa xb => some (encC 0x0C ch 0 xa xb 0 0 g c1)
  | .xsub g c1 ch xa xb => some (encC 0x0D ch 0 xa xb 0 0 g c1)
  | .rdesc g c1 h xa xb => some (encC 0x0E 0 0 xa xb h 0 g c1)
  | .rget g c1 xd h half => some (encC 0x0F 0 0 xd 0 h ((0 : BitVec 1) ++ b1 half) g c1)
  | .dlow g c1 xd ch sel => some (encC 0x10 ch 0 xd 0 0 sel g c1)
  | .fwait f c sc => some (encY 0x01 sc.code f 0 c.code)
  | .fpost f c sc => some (encY 0x02 sc.code f 0 c.code)
  | .rwaitC xd h c => some (encY 0x03 0 xd h c.code)
  | .rwaitP h c => some (encY 0x04 0 0 h c.code)
  | .radvC h c => some (encY 0x05 0 0 h c.code)
  | .radvP h c => some (encY 0x06 0 0 h c.code)
  | .radvEos h => some (encY 0x07 0 0 h 0)
  | .dwait ch c sc => some (encY 0x08 sc.code ((0 : BitVec 1) ++ ch) 0 c.code)
  | .handRvInstruction i form => some (.h (match form with | .full => i.word | .compressed h => (0 : BitVec 16) ++ h))
  | .handEcall => some (.h 0x00000073)
  | .handEbreak form => some (.h (match form with | .full => 0x00100073 | .compressed h => (0 : BitVec 16) ++ h))
  | .handPrivileged op => some (.h (match op with | .mret => 0x30200073 | .sret => 0x10200073 | .wfi => 0x10500073))
  | .handRvFence imm rs1 rd => some (.h (encI 0x0F 0 imm rs1 rd))
  | .hDcmd rd rs1 => some (encX0 0 0 rs1 rd)
  | .hTcmd rd rs1 => some (encX0 0 0x020 rs1 rd)
  | .hWset w fl rs1 => some (encX0 1 ((0 : BitVec 6) ++ w ++ fl) rs1 0)
  | .hWchk rd w => some (encX0 2 ((0 : BitVec 6) ++ w ++ (0 : BitVec 4)) 0 rd)
  | .hDlow rd ch sel => some (encX0 3 ((0 : BitVec 6) ++ sel ++ ch) 0 rd)
  | .hDwait ch rs1 sc => some (encX0 4 ((0 : BitVec 4) ++ sc.code ++ (0 : BitVec 1) ++ ch) rs1 0)
  | .hDwaitId ch rs1 sc => some (encX0 4 ((0 : BitVec 4) ++ sc.code ++ (1 : BitVec 1) ++ ch) rs1 0)
  | .hRwaitC rd h rs1 => some (encX1 0 ((0 : BitVec 8) ++ h) rs1 rd)
  | .hRwaitP h rs1 => some (encX1 1 ((0 : BitVec 8) ++ h) rs1 0)
  | .hRadvC h rs1 => some (encX1 2 ((0 : BitVec 8) ++ h) rs1 0)
  | .hRadvP h rs1 => some (encX1 3 ((0 : BitVec 8) ++ h) rs1 0)
  | .hRadvEos h => some (encX1 4 ((0 : BitVec 8) ++ h) 0 0)
  | .hFwait f rs1 sc => some (encX1 5 ((0 : BitVec 4) ++ sc.code ++ f) rs1 0)
  | .hFpost f rs1 sc => some (encX1 6 ((0 : BitVec 4) ++ sc.code ++ f) rs1 0)
  | .hFence sc => some (encX1 7 ((0 : BitVec 9) ++ sc.code) 0 0)
  | .hRget rd h half => some (encX1 7 ((1 : BitVec 4) ++ (0 : BitVec 3) ++ b1 half ++ h) 0 rd)
  | .hExit status => some (encX1 7 ((2 : BitVec 4) ++ status) 0 0)
  | .rowNop => some (.r 0)
  | .rowNext l => some (encR 0x01 0 0 0 0 0 0 0 (lb10 l))
  | .rowBr l => some (encR 0x02 0 0 0 0 0 0 0 (lb10 l))
  | .rowLoop sa l => some (encR 0x03 0 0 0 0 0 sa 0 (lb10 l))
  | .rowHalt => some (encR 0x04 0 0 0 0 0 0 0 0)
  | .rowLdt gd => some (encR 0x08 0 gd 0 0 0 0 0 0)
  | .rowLdg gd => some (encR 0x09 0 gd 0 0 0 0 0 0)
  | .rowLds gd p => some (encR 0x0A ((0 : BitVec 3) ++ b1 p) gd 0 0 0 0 0 0)
  | .rowLdss sd q => some (encR 0x0B ((0 : BitVec 2) ++ q) 0 0 0 sd 0 0 0)
  | .rowLdc sd c => some (encR 0x0C ((0 : BitVec 1) ++ c) 0 0 0 sd 0 0 0)
  | .rowMovi sd imm => some (encR 0x0D 0 0 0 0 sd 0 0 imm)
  | .rowAdd gd ga gb => some (encR 0x10 0 gd ga gb 0 0 0 0)
  | .rowSub gd ga gb => some (encR 0x11 0 gd ga gb 0 0 0 0)
  | .rowMul gd ga gb => some (encR 0x12 0 gd ga gb 0 0 0 0)
  | .rowMac gd ga gb => some (encR 0x13 0 gd ga gb 0 0 0 0)
  | .rowMax gd ga gb => some (encR 0x17 0 gd ga gb 0 0 0 0)
  | .rowSmul gd ga sb => some (encR 0x14 0 gd ga 0 0 0 sb 0)
  | .rowSmac gd ga sb => some (encR 0x15 0 gd ga 0 0 0 sb 0)
  | .rowRsq gd ga sb => some (encR 0x19 0 gd ga 0 0 0 sb 0)
  | .rowSq gd ga => some (encR 0x16 0 gd ga 0 0 0 0 0)
  | .rowHsum sd ga => some (encR 0x18 0 0 ga 0 sd 0 0 0)
  | .rowSopAdd sd sa sb => some (encR 0x1A 0 0 0 0 sd sa sb 0)
  | .rowSopSub sd sa sb => some (encR 0x1A 1 0 0 0 sd sa sb 0)
  | .rowSopMul sd sa sb => some (encR 0x1A 2 0 0 0 sd sa sb 0)
  | .rowSopDiv sd sa sb => some (encR 0x1A 3 0 0 0 sd sa sb 0)
  | .rowSopMac sd sa sb => some (encR 0x1A 4 0 0 0 sd sa sb 0)
  | .rowSopRsqe sd sa sb => some (encR 0x1A 5 0 0 0 sd sa sb 0)
  | .rowSopMax sd sa sb => some (encR 0x1A 6 0 0 0 sd sa sb 0)
  | .rowSopMov sd sa => some (encR 0x1A 7 0 0 0 sd sa 0 0)
  | .rowQacc t ga sb => some (encR 0x20 0 (tr t) ga 0 0 0 sb 0)
  | .rowQmix t u => some (encR 0x21 0 (tr t) (tr u) 0 0 0 0 0)
  | .rowQnew t => some (encR 0x22 0 (tr t) 0 0 0 0 0 0)
  | .rowStq ga => some (encR 0x28 0 0 ga 0 0 0 0 0)
  | .rowStqRq ga => some (encR 0x28 1 0 ga 0 0 0 0 0)
  | .rowSts ga p => some (encR 0x29 ((0 : BitVec 3) ++ b1 p) 0 ga 0 0 0 0 0)
  | .rowStss sa q => some (encR 0x2A ((0 : BitVec 2) ++ q) 0 0 0 0 sa 0 0)
  | .rowEmit ga => some (encR 0x30 0 0 ga 0 0 0 0 0)
  | .rowEmitq t => some (encR 0x31 0 0 (tr t) 0 0 0 0 0)
  | _ => none

/-! ### The host's question -/

/-- The control word that `decodeTableWord` and `withFetchWord` give a vector syllable (log entry 4): entry n of the
table holds operation code n, with the formats the operation needs and every other field 0, GMASK 0xFF. -/
def tableVcw (idx : BitVec 9) : BitVec 256 :=
  let op : BitVec 8 := fld idx 0 8
  let mk (a b d : Fmt) (extra : BitVec 256) : BitVec 256 :=
    (op ++ a.code ++ b.code ++ d.code ++ (0 : BitVec 8) ++ (0xFF : BitVec 8) ++ (0 : BitVec 220)) ||| extra
  match VOp.ofCode op 0 with
  | some (some o) =>
    match o.fam with
    | .bits => mk .int32 .int32 .int32 0
    | .cmp => mk .fp32 .fp32 .int32 0
    | .bscl => mk .fp32 .e8m0 .fp32 0
    | .memx => mk .int32 .fp32 .fp32 0
    | .qclr | .qmem | .qupd | .qupdw | .qmrgv => mk .fp32 .fp32 .triple 0
    | .qmrg => mk .triple .triple .triple 0
    | .qtree => mk .triple .fp32 .triple 0
    | .qext | .qraw => mk .triple .fp32 .fp32 0
    | .qnorm | .qnorma => mk .fp32 .triple .fp32 0
    | .fclr | .fevclr => mk .fp32 .fp32 .fp32 0
    | _ => mk .fp32 .fp32 .fp32 0
  | _ => 0

/-- The first answer that is an instruction. -/
def firstOk : List Dec → Option Instr
  | [] => none
  | .ok i :: _ => some i
  | .error _ :: t => firstOk t

/-- The instruction that the decoder reads from a word of the opcode table. The table's words of 32 bits belong to five
different slots and share bit patterns, so the slot is not in the word: it is tried as an m, copy, sync, hand and
vector word in that order (log entry 4). -/
def decodeTableWord (nbits w : Nat) : Option Instr :=
  if nbits = 48 then (decodeS (BitVec.ofNat 48 w)).toOption
  else if nbits = 32 then
    let b := BitVec.ofNat 32 w
    firstOk [decodeM b, decodeC false b, decodeY b, decodeH b, decodeV false b (tableVcw (fld b 23 9))]
  else none

end Sys2Proof
end

