-- ==== Sys2Proof/Machine/Tab.lean ====
section
/-! DEFINITION. Finite maps as plain data: register files and other numbered things (`Tab`), and byte memories in
one canonical form (`Mem`). Both are lists of key and value pairs with rising keys. -/

namespace Sys2Proof.Machine

/-- A numbered file of things: pairs of number and value. A number that is not listed holds the file's default. -/
abbrev Tab (α : Type) := List (Nat × α)

/-- The list without its entries for `k`. -/
def Tab.erase {α : Type} (l : Tab α) (k : Nat) : Tab α :=
  match l with
  | [] => []
  | (a, b) :: t => if a = k then Tab.erase t k else (a, b) :: Tab.erase t k

/-- Places an entry at its place in the rising order. -/
def Tab.insert {α : Type} (l : Tab α) (k : Nat) (v : α) : Tab α :=
  match l with
  | [] => [(k, v)]
  | (a, b) :: t => if k < a then (k, v) :: (a, b) :: t else (a, b) :: Tab.insert t k v

/-- What number `k` holds; `d` where the list has no entry for it. -/
def Tab.get {α : Type} (d : α) (l : Tab α) (k : Nat) : α :=
  match l with
  | [] => d
  | (a, b) :: t => if a = k then b else Tab.get d t k

/-- The file with `v` in number `k`. -/
def Tab.put {α : Type} (l : Tab α) (k : Nat) (v : α) : Tab α :=
  (l.erase k).insert k v

/-- Whether the list has an entry for `k`. -/
def Tab.has {α : Type} (l : Tab α) (k : Nat) : Bool :=
  match l with
  | [] => false
  | (a, _) :: t => if a = k then true else Tab.has t k

/-- A byte memory: addresses strictly rising, and no entry equal to what an unlisted address reads as. -/
abbrev Mem := List (Nat × BitVec 8)

/-- What an address that nothing has written reads as (the spec gives no contents for it; log entry 1). -/
def Mem.unlisted : BitVec 8 := 0

/-- The byte at address `a`. -/
def Mem.read (m : Mem) (a : Nat) : BitVec 8 := Tab.get Mem.unlisted m a

/-- The memory with byte `v` at address `a`, in the canonical form. -/
def Mem.write (m : Mem) (a : Nat) (v : BitVec 8) : Mem :=
  if v = Mem.unlisted then Tab.erase m a else (Tab.erase m a).insert a v

/-- Every entry's address is above `lo` (all entries when `lo` is none), addresses rise strictly, and no entry holds
the unlisted value. -/
def Mem.wfFrom (lo : Option Nat) (m : Mem) : Bool :=
  match m with
  | [] => true
  | (a, b) :: t =>
    (match lo with | none => true | some l => decide (l < a)) && decide (b ≠ Mem.unlisted) && Mem.wfFrom (some a) t

/-- The canonical form of a memory. -/
def Mem.wf (m : Mem) : Bool := Mem.wfFrom none m

/-- The bytes of `m`'s run of entries and of `n`'s at addresses where they differ: address, byte in `m`, byte in `n`. Both are in
the canonical form; `fuel` is at least the number of their entries. -/
def Mem.diffFuel : Nat → Mem → Mem → List (Nat × BitVec 8 × BitVec 8)
  | 0, _, _ => []
  | _ + 1, [], n => n.map fun x => (x.1, Mem.unlisted, x.2)
  | _ + 1, m, [] => m.map fun x => (x.1, x.2, Mem.unlisted)
  | f + 1, (a, v) :: m, (b, w) :: n =>
    if a < b then (a, v, Mem.unlisted) :: Mem.diffFuel f m ((b, w) :: n)
    else if b < a then (b, Mem.unlisted, w) :: Mem.diffFuel f ((a, v) :: m) n
    else if v = w then Mem.diffFuel f m n
    else (a, v, w) :: Mem.diffFuel f m n

/-- The addresses at which two memories differ, with the byte of each. -/
def Mem.diff (m n : Mem) : List (Nat × BitVec 8 × BitVec 8) :=
  if m = n then [] else Mem.diffFuel (m.length + n.length + 1) m n

/-- `n` bytes from address `a`, lowest address first. -/
def Mem.readList (m : Mem) (a : Nat) : Nat → List (BitVec 8)
  | 0 => []
  | n + 1 => m.read a :: Mem.readList m (a + 1) n

/-- Writes bytes from address `a` on, lowest address first. -/
def Mem.writeList (m : Mem) (a : Nat) : List (BitVec 8) → Mem
  | [] => m
  | b :: t => Mem.writeList (m.write a b) (a + 1) t

end Sys2Proof.Machine
end

