-- ==== Sys2Proof/Machine/State.lean ====
section
/-! DEFINITION. The state of the module as plain data, and its reset value. Each field names the rule that gives it;
INVENTORY.md lists every piece of state with its reset value. -/

namespace Sys2Proof.Machine

/-- Why a step stops. -/
inductive Fault where
  /-- Raised by `step` alone: the schedule, or the agent in focus, names a core, context, die, Vault, unit or the like that
  the module does not have (R1, R14). Safe: nothing is claimed of an agent that does not exist. -/
  | noSuchAgent
  deriving DecidableEq, Repr

/-- Why an instruction has no meaning. -/
inductive Refusal where
  /-- Raised by a dispatch arm of an instruction not modelled; no arm does. Safe. -/
  | notModelled (mnemonic : String)
  deriving DecidableEq, Repr

/-! ### A context (R15, R16, R294) -/

/-- One loop level (R127). -/
structure LoopRec where
  act : Bool := false
  start : BitVec 47 := 0
  bound : Word := 0
  count : Word := 0
  deriving DecidableEq, Repr

/-- A buffer window: bytes from `base` up to but not including `limit` (R21). -/
structure Window where
  base : Nat := 0
  limit : Nat := 0
  deriving DecidableEq, Repr

/-- A statistics triple (R74). -/
structure Triple where
  w : Word
  mu : Word
  m2 : Word
  deriving DecidableEq, Repr

/-- The canonical EMPTY triple (R75). -/
def Triple.empty : Triple := ⟨0, 0x7FC000E5, 0⟩
/-- The canonical INVALID triple (R75). -/
def Triple.invalid : Triple := ⟨0x7FC000E6, 0x7FC000E6, 0x7FC000E6⟩

/-- The lanes of a vector register (R17). -/
abbrev VReg := List Word
/-- The lanes of a statistics register (R17). -/
abbrev QReg := List Triple

/-- The register a result goes to; the mask names the lane groups written (R145). -/
inductive Dest where
  | x (r : Reg)
  | p (r : PReg)
  | v (r : BitVec 6) (mask : BitVec 8)
  | q (r : BitVec 4) (mask : BitVec 8)
  | mp (r : BitVec 3)
  deriving DecidableEq, Repr

/-- The value a result brings. -/
inductive Val where
  | dword (v : Dword)
  | bit (b : Bool)
  | lanes (l : VReg)
  | triples (l : QReg)
  deriving DecidableEq, Repr

/-- A result in flight (R39), as a snapshot entry holds it (R307): it lands before the r-th bundle after the last issued
bundle of the core. -/
structure Flight where
  dest : Dest
  val : Val
  r : Nat
  flags : BitVec 5
  traps : BitVec 5
  baddr : Dword
  slot : Nat
  seq : Nat
  deriving DecidableEq, Repr

/-- An engine exception record (R302). -/
structure EngRec where
  cause : Cause
  trap : Bool
  src : BitVec 3
  ch : BitVec 4
  id : Dword
  baddr : Dword
  pay : List Dword
  /-- The trap value that a hand's fault brings where the record's bytes hold none (R293); it is no byte of the record. -/
  tv : Dword := 0
  deriving DecidableEq, Repr

/-- STATE of CSTAT (R35). -/
inductive CState where
  | idle | ready | running | waiting | halted | trapped | stopped
  deriving DecidableEq, Repr

/-- Who serves a TRAPPED context (R296, R301). -/
inductive Server where
  | none | handler | pageService
  deriving DecidableEq, Repr

/-- What the core does for a context in place of its next bundle: the fill bundles of an exit (R141), or a loop skip
scan of a level that began at an address (R130). -/
inductive Phase where
  | normal
  | exitFill
  | scan (lv : BitVec 3) (start : Dword)
  deriving DecidableEq, Repr

/-- What the committed slots of a bundle have chosen while its rest waits for `eret` (R85, R129): the bundle whose rest, or
whose loop skip scan (slot 0), it is. -/
structure Split where
  pc : Dword
  slot : Nat
  /-- The FPCR as the bundle issued (R57). -/
  fpcr : Word := 0
  next : Option Dword := none
  exit : Option (BitVec 11) := none
  skip : Option (BitVec 3) := none
  deriving DecidableEq, Repr

/-- A context (R15), with its trap registers (R294), snapshot buffer (R307) and engine records (R302) (DESIGN CHOICE,
log entry 2). -/
structure Ctx where
  x : Tab Dword := []
  p : Tab Bool := []
  loops : Tab LoopRec := []
  w : Tab (BitVec 768) := []
  mp : Tab Dword := []
  fpcr : Word := 0
  fflags : Dword := 0
  fevr : Dword := 0
  pc : Dword := 0
  prio : BitVec 3 := 0
  st : CState := .idle
  wconf : Bool := false
  slotres : BitVec 3 := 0
  vcw : Tab (BitVec 256) := []
  wwin : Window := {}
  awin : Window := {}
  cwin : Window := {}
  cause : Dword := 0
  epcb : Dword := 0
  tval : Dword := 0
  tinfo : Dword := 0
  dcause : Dword := 0
  depc : Dword := 0
  hscr0 : Dword := 0
  hscr1 : Dword := 0
  shx : Tab Dword := []
  shp : Tab Bool := []
  records : List EngRec := []
  pend : Bool := false
  lost : Nat := 0
  /-- The first record with TRAP = 1 that was dropped since the last trap (R302). -/
  dropped : Option EngRec := none
  /-- Results in flight of the running code. -/
  flights : List Flight := []
  /-- Results parked while a handler or the page service runs, or while halted (R307). -/
  snapshot : List Flight := []
  /-- A trapping result that landed while the context was not running: its flags and issuing bundle and slot (R60). -/
  fpPend : Option (BitVec 5 × Dword × Nat) := none
  phase : Phase := .normal
  /-- The transfer of a bundle that a fault has split, or a scan that a record's trap interrupts (R85, R130). -/
  split : Option Split := none
  /-- Floating-point events of retired Mint commands, set at the context's next bundle boundary (R170): results without a
  register. -/
  mintEvs : List Flight := []
  /-- A checkpoint bundle has committed: fills and the eviction test come before the next bundle (R311). -/
  ckFill : Bool := false
  /-- The number of the context's last issued user bundle on its core. -/
  lastSeq : Nat := 0
  server : Server := .none
  /-- The slot at which the next bundle begins: 0, or SLOTRES after `eret` (R222, R300). -/
  start : Nat := 0
  /-- Its yield bundle was parked and issues first (R36). -/
  parked : Bool := false
  /-- The flag wait of its parked bundle has been satisfied and its count taken (R32). -/
  taken : Option (BitVec 5 × Nat) := none
  /-- Its parked wait passed the watchdog limit (R299). -/
  timedOut : Bool := false
  /-- A halt request waits for the handler's `eret` (R305). -/
  haltReq : Bool := false
  /-- The eviction request (R132, R311). -/
  evictReq : Bool := false
  /-- The checkpoint at which eviction took the context. -/
  ckix : BitVec 8 := 0
  /-- The state a halt found, to which a page service returns (R301, R309). -/
  haltedFrom : CState := .idle
  /-- The page service still owes a halted context its page (R301). -/
  owed : Bool := false
  /-- The page service declined while the context was halted: the cause and address its handler takes when it is next
  selected (R301). -/
  declined : Option (Cause × Dword) := none
  /-- The context is evicted and waits for its save to be written, or its save failed (R311, R315). -/
  evicted : Bool := false
  /-- Its save failed; it stays in the core (R315). -/
  saveFailed : Bool := false
  /-- Its card has been launched again and it waits for its restore (R316). -/
  restoring : Bool := false
  /-- Its own restore is done; the other contexts of its card may still wait for theirs (R316). -/
  restored : Bool := false
  /-- The cycle in which STATE last became READY (R37), and in which the present wait began (R33). -/
  readyAt : Nat := 0
  waitAt : Nat := 0
  card : Option Nat := none
  /-- A `drain` holds its next bundle (R138). -/
  drain : Option Scope := none
  exitStatus : BitVec 11 := 0
  /-- It exited from its handler (R298). -/
  faultExit : Bool := false
  deriving DecidableEq, Repr

/-! ### A core (R17) -/

/-- Roles of a ring (R25). -/
inductive RingRole where
  | ctx | loadHand | storeHand | dray | mint | vault | neighbour
  deriving DecidableEq, Repr

/-- A ring descriptor (R25), with the place of its end-of-stream slot (R27). -/
structure Ring where
  buf : Buf := .wb
  base : BitVec 22 := 0
  slotsz : BitVec 12 := 0
  slots : BitVec 11 := 0
  head : BitVec 11 := 0
  tail : BitVec 11 := 0
  fill : BitVec 12 := 0
  prod : RingRole := .ctx
  cons : RingRole := .ctx
  pctx : BitVec 3 := 0
  cctx : BitVec 3 := 0
  eosp : Bool := false
  eosc : Bool := false
  valid : Bool := false
  eosSlot : Option Nat := none
  /-- The model's own, set when `rdesc` writes the descriptor: transfers, Mint commands and stages numbered below these were
  issued before (R220). -/
  stampT : Nat := 0
  stampM : Nat := 0
  stampS : Nat := 0
  deriving DecidableEq, Repr

/-- A latch (R166): 128 rows of 256 bytes, 8 rows of 256 offsets, a scale. -/
structure Latch where
  elems : Tab (List Byte) := []
  offs : Tab (List Byte) := []
  scale : Word := 0x3F800000
  deriving DecidableEq, Repr

/-- The Mint's modes (R17). -/
inductive MintMode where
  | ws | rs
  deriving DecidableEq, Repr

/-- What a Mint command does (R173): mode switch into RS or WS, latch load (transposed or not), and so on. -/
inductive MintKind where
  | mode (rs : Bool)
  | latch (t : Bool)
  | stream
  | outer
  | drain (expand : Bool)
  | sig (s : Bool)
  | fold
  | spill (ld : Bool)
  | clearAcc
  | clearLatch
  deriving DecidableEq, Repr

/-- The opcode fields of a Mint command: formats, latch, operand ring (none for the direct form). -/
structure MintOp where
  kind : MintKind
  fa : Fmt := .fp32
  fb : Fmt := .fp32
  l : Nat := 0
  ring : Option (BitVec 4) := none
  deriving DecidableEq, Repr

/-- A queued Mint command (R167): its fields, the parameter registers it copied, and who issued it. -/
structure MintCmd where
  id : Nat
  op : MintOp
  params : List Dword
  c : Nat
  card : Nat
  baddr : Dword
  /-- The number of the issuing bundle, as of a result in flight. -/
  seq : Nat := 0
  started : Bool := false
  /-- The W- and the A-buffer as they stood at issue, with what earlier commands write since; of a started command, as it
  reads them (R169). -/
  wsrc : Mem := []
  asrc : Mem := []
  /-- Of a started command, the W- and the A-buffer as its sources were last settled. -/
  wbegun : Mem := []
  abegun : Mem := []
  /-- Bytes that a started command leaves, which a bundle may see before it retires (R169). -/
  early : List (Buf × Nat × Byte) := []
  /-- Rows or groups already done when a claim stopped it (R310), and the events they brought. -/
  progress : Nat := 0
  fl : BitVec 5 := 0
  /-- The representatives of a stopped `msig` that has still to stream some of them: codes and offsets. -/
  reps : List (List Nat × List Nat) := []
  deriving DecidableEq, Repr

/-- What a claim sets aside (R310). -/
structure MintHeld where
  cmds : List MintCmd
  mode : MintMode
  pending : MintMode
  acc : Option (Tab (List Word))
  latches : Tab Latch
  /-- The urgent cards that have made the claim. -/
  by_ : List Nat
  deriving DecidableEq, Repr

/-- The Mint of a core (R166) (DESIGN CHOICE, log entry 2). -/
structure Mint where
  mode : MintMode := .ws
  pending : MintMode := .ws
  latches : Tab Latch := []
  acc : Tab (List Word) := []
  msigst : Dword := 0
  queue : List MintCmd := []
  nextId : Nat := 0
  deriving DecidableEq, Repr

/-- Who issued an engine command: a context, or a hand, whose records go to its patron (R227). -/
inductive Issuer where
  | ctx (k c : Nat)
  | hand (k : Nat) (r : Role) (patron : Nat)
  /-- A work entry's stage, which has no issuing context (R270). -/
  | entry (d : Nat) (qp : Nat) (eseq : Nat)
  deriving DecidableEq, Repr

/-- What a transfer does (R205, R212): `wr` makes the window the destination. -/
inductive TransKind where
  | copy (wr : Bool)
  | tcopy (wr : Bool)
  | push
  | pushEos
  | pop
  | stash (wr : Bool)
  | gather
  | scatter (comb : Bool)
  | tgather
  | tupdate
  | tprefetch
  | stage
  deriving DecidableEq, Repr

/-- What a ring gives a queued command that reaches it (R171, R188, R210): its slot, the end-of-stream token, or nothing
because the stream ended. -/
inductive RingTake where
  | slot | token | ended
  deriving DecidableEq, Repr

/-- A global byte that a transfer has moved and not yet written: its virtual address, and its physical place, none where the
translation by which it was moved is no longer in use (R344). -/
structure PendByte where
  va : Nat
  byte : Byte
  pa : Option Nat
  /-- It lies in a table region. -/
  table : Bool
  deriving DecidableEq, Repr

/-- A transfer in flight (R209): the command, the values it copied at issue, and how far it has come. -/
structure Transfer where
  ch : Nat
  id : Dword
  kind : TransKind
  wrec : BitVec 768 := 0
  xa : Dword := 0
  xb : Dword := 0
  by_ : Issuer
  baddr : Dword
  card : Nat
  notify : Dword
  /-- Order of issue over the module (R210, R233). -/
  order : Nat
  /-- Global stores of its context before this one in commit order that a fence names perform first (R138). -/
  fenceOrd : Nat := 0
  /-- The ring it fills or empties: core and handle (R210, R211). -/
  ring : Option (Nat × Nat) := none
  /-- The 64-byte record that a table command or a stage read at issue, and whether Index-Range traps (R205). -/
  recd : List Dword := []
  irtrap : Bool := false
  started : Bool := false
  /-- What its ring gave it when it started, and the buffer address of its slot. -/
  take : RingTake := .slot
  slotBuf : Buf := .ab
  slotAt : Nat := 0
  /-- DSHC has counted it, or never will for its list's sake (R207). -/
  counted : Bool := true
  /-- Window elements already moved. -/
  moved : Nat := 0
  /-- Source bytes that it has read, each by its place in the issuer's view (R209: it reads each once). -/
  got : List (Nat × Byte) := []
  /-- Global bytes that it has moved and not yet written, the newest first: it writes whole words, and whole sectors of a table
  region, at once (R291). -/
  pending : List PendByte := []
  /-- It has gone to its Vault or its Exchange. -/
  sent : Bool := false
  deriving DecidableEq, Repr

/-- A Dray channel (R17, R216). -/
structure Chan where
  next : Dword := 0
  low : Dword := 0
  deriving DecidableEq, Repr

/-- How far a committed global store has performed (R278). -/
inductive Level where
  | core | die
  deriving DecidableEq, Repr

/-- A committed global store or atomic that has not yet performed at module scope: its bytes by physical address
(DEDUCED, log entry 41). -/
structure PStore where
  c : Nat
  card : Nat
  bytes : List (Nat × Byte)
  va : Dword
  level : Level
  /-- The widest scope a later `fence` asks of it (R138). -/
  need : Option Scope
  /-- Its place in the core's commit order. -/
  ord : Nat
  /-- No L2 may hold it: an uncached page or a Vault-managed table region (R279). -/
  direct : Bool
  deriving DecidableEq, Repr

/-- A hand (R223 to R227) (DESIGN CHOICE, log entry 2). -/
structure Hand where
  running : Bool := false
  x : Tab Dword := []
  pc : Dword := 0
  w : Tab (BitVec 768) := []
  instret : Dword := 0
  imem : Mem := []
  isz : Nat := 0
  dmem : Mem := []
  card : Option Nat := none
  patron : Nat := 0
  /-- The cycle in which its present stall began. -/
  waitAt : Option Nat := none
  /-- Commands it has issued that h.fence waits for (R231): channel and identifier. -/
  issued : List (Nat × Dword) := []
  /-- What it has acquired (R232): the committed stores of its core numbered below it. -/
  acq : Nat := 0
  status : Option (BitVec 8) := none
  /-- It ended by a fault (R227). -/
  faulted : Bool := false
  /-- Its buffer windows: its patron's (R226). -/
  wwin : Window := {}
  awin : Window := {}
  cwin : Window := {}
  deriving DecidableEq, Repr

/-- Why the bundle of a core's running context is stalled. -/
inductive Hold where
  | sync | chan | ring (slot : Nat) | global | mintQueue | pool | claim | drain | post
  deriving DecidableEq, Repr

/-- What the halt of a subject and the claims after it set aside of a core's shared state (R306, R309, R310): the registers with
the halted context they came from, flags and ring descriptors by number, the Mint's state. -/
structure Claim where
  c : Nat
  v : Tab VReg
  q : Tab QReg
  flags : Tab Nat
  rings : Tab Ring
  mint : Option MintHeld := none
  deriving DecidableEq, Repr

/-- A core (R14, R17, R20) (DESIGN CHOICE, log entry 2). -/
structure Core where
  ctxs : Tab Ctx := []
  run : Option Nat := none
  lastIssued : Option Nat := none
  hold : Option Hold := none
  seq : Nat := 0
  v : Tab VReg := []
  q : Tab QReg := []
  mint : Mint := {}
  rings : Tab Ring := []
  flags : Tab Nat := []
  fovf : Word := 0
  chans : Tab Chan := []
  transfers : List Transfer := []
  dshc : Dword := 0
  loadHand : Hand := {}
  storeHand : Hand := {}
  wb : Mem := []
  ab : Mem := []
  cb : Mem := []
  /-- Poisoned 8-byte units of the typed buffers (R334). -/
  poison : List (Buf × Nat) := []
  stores : List PStore := []
  storeCtr : Nat := 0
  /-- The claims of the subjects that are still halted, the newest first. -/
  claims : List Claim := []
  deriving DecidableEq, Repr

/-! ### Vaults and row units -/

/-- One part item of a table command: the positions it covers (R252, R255). -/
inductive ItemKind where
  | gatherV | gatherT | gatherRow | update
  deriving DecidableEq, Repr

/-- A position of an item: list position, row, weight. -/
structure ItemPos where
  pos : Nat
  row : Nat
  wt : Word
  deriving DecidableEq, Repr

/-- An item (R237): what it covers, and what it leaves. -/
structure Item where
  kind : ItemKind
  bag : Nat
  poss : List ItemPos
  /-- The coalesced gradient row of an update item (R255). -/
  grad : List Word
  /-- The unit that runs or ran it. -/
  unit : UnitId
  started : Bool := false
  done : Bool := false
  out : Option (List Word × Bool) := none
  nanIn : Bool := false
  deriving DecidableEq, Repr

/-- A bag of a gather (R251 to R253). -/
structure Bag where
  mem : List ItemPos
  nmem : Nat
  poison : Option (Nat × Dword)
  empty : Bool
  split : Bool
  looked : Bool
  /-- Its output: D words, or 3 D words of triples when the flag is set. -/
  out : Option (List Word × Bool)
  nanIn : Bool
  deriving DecidableEq, Repr

/-- Where a table command at a Vault came from. -/
inductive TblSrc where
  | transfer (k ch : Nat) (id : Dword)
  /-- A bag part of a GATHER (R264). -/
  | part (m : PartReq)
  /-- A collected UPDATE (R265). -/
  | upd (group : Nat) (tag : Word)
  deriving DecidableEq, Repr

/-- A table command accepted by a Vault (R249). -/
structure TblCmd where
  src : TblSrc
  kind : Nat
  table : BitVec 16
  prog : BitVec 8
  mode : PoolMode
  seqm : Bool
  wen : Bool
  eos : Bool
  fence : Bool
  nidx : Nat
  nbags : Nat
  consts : List Word
  trap : Bool
  by_ : Issuer
  baddr : Dword
  card : Nat
  ch : BitVec 4
  id : Dword
  ring : Option (Nat × Nat)
  idxs : List Int
  wts : List Word
  offs : List Int
  grads : List (List Word)
  started : Bool := false
  ended : Bool := false
  nextPos : Nat := 0
  bags : List Bag := []
  items : List Item := []
  written : Nat := 0
  /-- Position in arrival order (R249). -/
  order : Nat := 0
  deriving DecidableEq, Repr

/-- A row being moved into or out of the Till (R331). -/
structure TillMove where
  table : BitVec 16
  row : Nat
  way : Nat
  promote : Bool
  deriving DecidableEq, Repr

/-- Bytes of one 64-byte sector that an item has handed to its channel and that have not performed (R246, R256): the command
and the item that stored them, the row, the sector's physical address divided by 64. -/
structure RowWrite where
  order : Nat
  it : Nat
  table : BitVec 16
  row : Nat
  sector : Nat
  bytes : Tab Byte
  /-- The unit that runs the item. -/
  unit : UnitId := .vault 0 0
  deriving DecidableEq, Repr

/-- A Vault: registry, Till entries, sketches, the commands it has accepted, the promotion queue (R234, R326 to R331)
(DESIGN CHOICE, log entry 2). -/
structure Vault where
  registry : Tab (BitVec 256) := []
  till : Tab (BitVec 192) := []
  /-- Sketch counters of table slot t: row j, column h at 262144 t + 65536 j + h (R326). -/
  sketch : Tab Nat := []
  lcnt : Tab Nat := []
  cmds : List TblCmd := []
  arrivals : Nat := 0
  promo : List (BitVec 16 × Nat) := []
  moves : List TillMove := []
  /-- Rows in the Till's ways: table slot × 2^27 + set × 8 + way. -/
  ways : Tab (Option Nat) := []
  /-- What items have handed to the channels and has not performed, the oldest first (R246, R256). -/
  writes : List RowWrite := []
  /-- Tables whose flush has still to evict rows (R332). -/
  flushes : List (BitVec 16) := []
  deriving DecidableEq, Repr

/-- A row unit (R237). -/
structure RowUnit where
  prog : Option (Nat × List Dword) := none
  g : Tab (List Word) := []
  t : Tab (List Triple) := []
  s : Tab Word := []
  pc : BitVec 10 := 0
  /-- The command (Vault, place in the Vault's arrival order) and the item it runs. -/
  item : Option (Nat × Nat × Nat) := none
  /-- Positions of the item already passed by `next`; none before the first (R244). -/
  pos : Option Nat := none
  words : Nat := 0
  out : Option (List Word × Bool) := none
  suspended : Bool := false
  /-- The cycle in which the row that it awaits is complete, and its state record (R246, R325). -/
  rowDue : Option Nat := none
  stateDue : Option Nat := none
  holds : List ChanId := []
  /-- The address of the first poisoned byte that the item has read (R334). -/
  poison : Option Dword := none
  deriving DecidableEq, Repr

/-- Service of a channel (R323, R324). -/
inductive Service where
  | row | switching | ordinary
  deriving DecidableEq, Repr

/-- A channel's service state (R323 to R325), times in core cycles. -/
structure ChanSvc where
  svc : Service := .row
  since : Nat := 0
  /-- When each ordinary request that is not complete arrived, the oldest first. -/
  pending : List Nat := []
  served : Nat := 0
  /-- When the last request of the turn started, and when it completed. -/
  lastStart : Option Nat := none
  lastDone : Nat := 0
  /-- When a row unit last wrote in the channel. -/
  lastWrite : Option Nat := none
  /-- A scrub step has fallen due and waits for a turn (R335). -/
  due : Bool := false
  /-- The unit whose read has the channel, and until when (R325). -/
  reader : Option (UnitId × Nat) := none
  deriving DecidableEq, Repr

/-! ### Exchange and Clearing -/

/-- A stage held by an Exchange (R261). -/
structure Stage where
  code : Nat
  group : Nat
  ring : Nat
  blk : Nat
  trap : Bool
  addrA : Dword
  addrB : Dword
  param : Dword
  by_ : Issuer
  k : Nat
  ch : Nat
  id : Dword
  card : Nat
  asid : BitVec 16
  baddr : Dword
  started : Bool := false
  failed : Bool := false
  /-- The table command record of a GATHER or UPDATE. -/
  tcr : List Dword := []
  nbags : Nat := 0
  mode : PoolMode := .sum
  eos : Bool := false
  wts : List Word := []
  bags : List Bag := []
  /-- Answers awaited: ranks for GATHER, owners for UPDATE. -/
  awaits : List Nat := []
  partials : List (Nat × PartialBag) := []
  written : Nat := 0
  uid : Nat := 0
  deriving DecidableEq, Repr

/-- A collective update being collected by an owner (R265). -/
structure Collect where
  group : Nat
  tag : Word
  first : Nat
  counts : List CountMsg
  expired : Bool := false
  running : Bool := false
  deriving DecidableEq, Repr

/-- A queue pair (R268), with the address space the driver binds to it (R336). -/
structure Qp where
  pi : Dword := 0
  ci : Dword := 0
  qbase : BitVec 40 := 0
  qlog : BitVec 4 := 0
  valid : Bool := false
  asid : BitVec 16 := 0
  deriving DecidableEq, Repr

/-- A started work entry (R269, R271). -/
structure Entry where
  d : Nat
  qp : Nat
  eseq : Nat
  dw : List Dword
  va : Dword
  asid : BitVec 16
  /-- Its transfer of data or its own action has been begun. -/
  sent : Bool := false
  nchunks : Nat := 0
  acked : List Nat := []
  flags : BitVec 5 := 0
  fail : Option Cause := none
  /-- The counter action or stage has been carried out. -/
  acted : Bool := false
  deriving DecidableEq, Repr

/-- What a target remembers of an entry (R275). -/
structure Applied where
  id : EntryId
  /-- The applied chunks, with the flags that each set (R274). -/
  chunks : List (Nat × BitVec 5)
  /-- The number of the entry's chunks, known from its last one. -/
  total : Option Nat := none
  closed : Bool
  deriving DecidableEq, Repr

/-! ### Paging -/

/-- A leaf in a translation cache (R343): the space that tags it (none for a supervisor root), how many 64 KiB pages it maps
(1, a run's 32 or 4,096), the number of its region of that size, its entry (a run's first) and where that lay. -/
structure TlbEnt where
  tag : Option (BitVec 16)
  pages : Nat
  region : Nat
  ent : Dword
  at_ : Nat
  deriving DecidableEq, Repr

/-- An upper-level entry in a walk cache (R343): its level, and the virtual address above the level's index and with it. -/
structure WalkEnt where
  tag : Option (BitVec 16)
  level : Nat
  idx : Nat
  ent : Dword
  deriving DecidableEq, Repr

/-- A frame word (R345). -/
structure Frame where
  pin : Bool := false
  table : Bool := false
  refc : Nat := 0
  deriving DecidableEq, Repr

/-- What a page service works for (R348 step 4). -/
inductive Waits where
  | ctx (k c : Nat)
  | transfer (k ch : Nat) (id : Dword)
  /-- A chunk at its target, by its entry and number (R276). -/
  | chunk (id : EntryId) (c : Nat)
  /-- The source side, or the stage, of a work entry (R270, R276). -/
  | entry (d qp eseq : Nat)
  /-- A command at a Vault that no transfer of this module brought. -/
  | command (v order : Nat)
  /-- A structure that the driver gave a device. -/
  | device
  /-- The instruction at which a hand stands (R229). -/
  | hand (k : Nat) (r : Role)
  deriving DecidableEq, Repr

/-- A CoW-Write or Page-Absent that waits for the page service (R301, R348). -/
structure PageReq where
  asid : BitVec 16
  va : Dword
  cow : Bool
  who : Waits
  deriving DecidableEq, Repr

/-- A move of a page in progress (R351), or another entry change that waits for its shootdown point (R344). -/
structure PageMove where
  asid : BitVec 16
  va : Dword
  long : Bool
  srcTier : BitVec 2
  srcFrame : BitVec 36
  dstTier : BitVec 2
  dstFrame : BitVec 36
  /-- The queue whose request asked for it, if any. -/
  req : Option Nat
  /-- Where its leaf entry lies, and whether it maps 256 MiB. -/
  at_ : Nat
  big : Bool
  /-- 0: MOV is set and its shootdown point awaited; 1: the host's answer is awaited; 2: the new entry is written and its
  point awaited. -/
  step : Nat
  deriving DecidableEq, Repr

/-- A page-service queue (R346, R373) and the request it is handling. -/
structure PageQueue where
  pqbase : Dword := 0
  pqlog : BitVec 4 := 0
  ppi : Dword := 0
  pci : Dword := 0
  /-- The request being handled: its address, its first three dwords, pages done. -/
  cur : Option (Dword × List Dword × Nat) := none
  /-- Its status, WHY and the pages done, which waits to be written (R379). -/
  ending : Option (Nat × Nat) := none
  deriving DecidableEq, Repr

/-! ### Dispatcher -/

/-- A command stream (R352). -/
structure Stream where
  sqbase : Dword := 0
  cqbase : Dword := 0
  vec : BitVec 8 := 0
  sqlog : BitVec 4 := 0
  cqlog : BitVec 4 := 0
  valid : Bool := false
  spi : Word := 0
  sci : Word := 0
  cpi : Word := 0
  cci : Word := 0
  deriving DecidableEq, Repr

/-- A kernel header (R106) as the Dispatcher holds it. -/
structure Header where
  raw : BitVec 512 := 0
  deriving DecidableEq, Repr

/-- Where a card stands. -/
inductive CardSt where
  | waiting | running | evicted | done
  deriving DecidableEq, Repr

/-- A card in flight (R355), or complete and kept only for edges. -/
structure Card where
  die : Nat
  stream : Nat
  dw : List Dword
  hdr : BitVec 512 := 0
  reads : List (Nat × Nat) := []
  writes : List (Nat × Nat) := []
  edges : List Nat := []
  st : CardSt := .waiting
  /-- STATUS decided before its end (R366). -/
  status : Nat := 0
  /-- It failed a check of R357. -/
  rejected : Bool := false
  /-- When it was accepted or evicted, the levels that it has aged since (R361), and when it completed. -/
  admAt : Nat := 0
  boost : Nat := 0
  doneAt : Nat := 0
  launchAt : Option Nat := none
  /-- Cycles that it ran before its last eviction, and when its present run began (R365: WDRUN). -/
  ranFor : Nat := 0
  runSince : Nat := 0
  /-- Its placed contexts that have exited or been torn down, as they ended (core, context). -/
  kept : List (Nat × Nat × Ctx) := []
  /-- Its placed contexts whose state lies in their save areas. -/
  saved : List (Nat × Nat) := []
  memerr : Bool := false
  torn : Bool := false
  /-- Its write ranges have been cleaned and its counter add made (R365 steps 1 and 2): its edges are satisfied. -/
  cleaned : Bool := false
  roleTab : List Dword := []
  rowImage : List Dword := []
  deriving DecidableEq, Repr

/-- A Dispatcher with its machine registers (R352 to R361). -/
structure Disp where
  streams : Tab Stream := []
  lastStream : Nat := 63
  yardStream : Tab Nat := []
  ckmax : Nat := 8192
  dage : Nat := 0x100000
  yage : Tab Nat := []
  kcache : List (BitVec 16 × Dword × Bool × Bool) := []
  deriving DecidableEq, Repr

/-! ### Host port, power and the rest -/

/-- STATE of SILTIN (R375). -/
inductive Siltin where
  | reset | training | published | ready | failed
  deriving DecidableEq, Repr

/-- An event queue's context (R374). -/
structure EvQueue where
  eqbase : Dword := 0
  eqlog : BitVec 4 := 0
  vec : BitVec 8 := 0
  epi : Word := 0
  dropped : Word := 0
  eci : Word := 0
  deriving DecidableEq, Repr

/-- Power states (R378). -/
inductive Power where
  | active | gated | retention | off
  deriving DecidableEq, Repr

/-- One domain: power (R378), temperature (R380), wear (R383) (DESIGN CHOICE, log entry 2). -/
structure Domain where
  power : Power := .active
  target : Option Power := none
  event9 : Bool := false
  therm : Half := 0
  warn : Half := 760
  crit : Half := 840
  aboveWarn : Bool := false
  aboveCrit : Bool := false
  w : Half := 0
  day : Half := 0
  days : Word := 0xFFFFFFFF
  samples : List (Nat × Nat) := []
  /-- The hours so far by what ages them (R382: the sum of Ag): for each nominal voltage and temperature reading, as 2^16 times
  the one plus the other, the sum of the cubes of the voltages. -/
  aged : Tab Nat := []
  /-- The error count at each of the last 30 daily samples, the oldest first (R382: Er). -/
  errDays : List Nat := []
  /-- Correctable errors counted (R333). -/
  errors : Nat := 0
  deriving DecidableEq, Repr

/-- What belongs to one die (DESIGN CHOICE, log entry 2). -/
structure Die where
  disp : Disp := {}
  evq : EvQueue := {}
  pq : PageQueue := {}
  handlers : Tab (BitVec 128) := []
  qps : Tab Qp := []
  counters : Tab Word := []
  spaces : Tab Dword := []
  /-- The die's supervisor root, a space-table entry that firmware sets (R298). -/
  supRoot : Dword := 0
  /-- Dirty bytes of the die's L2 (R279). -/
  l2 : Tab Byte := []
  /-- Poisoned lines of the L2 (R334), by physical address / 64. -/
  l2poison : List Nat := []
  /-- The die's shared translation cache, and its walk cache (R343). -/
  tlb : List TlbEnt := []
  walks : List WalkEnt := []
  stages : List Stage := []
  deriving DecidableEq, Repr

/-- Who moves when nothing is scheduled. -/
inductive Focus where
  | core (k : Nat)
  | hand (k : Nat) (r : Role)
  | unit (u : UnitId)
  deriving DecidableEq, Repr

/-- A scheduled move: so many cycles on, this instruction or event. -/
structure Turn where
  dt : Nat
  ev : Instr
  deriving DecidableEq, Repr

/-- The module. -/
structure State where
  cores : Tab Core := []
  dies : Tab Die := []
  vaults : Tab Vault := []
  units : Tab RowUnit := []
  chansvc : Tab ChanSvc := []
  mem : Mem := []
  /-- Poisoned 64-byte sectors, by physical address / 64 (R334). -/
  poison : List Nat := []
  frames : Tab Frame := []
  /-- Where the frame table of each tier lies in the module space, an address that firmware holds (R345). -/
  frameTab : Tab Dword := []
  /-- Frame words that the table in memory does not hold yet (R345, R379). -/
  lateFrames : List Nat := []
  /-- Host writes of memory that wait, the oldest first (R369, R379). -/
  lateWrites : List (Nat × List Byte) := []
  /-- The translation caches of the yards (R343). -/
  yardTlb : Tab (List TlbEnt) := []
  pageReqs : List PageReq := []
  moves : List PageMove := []
  /-- The default tier of each space, which the driver sets (R350). -/
  defaultTier : Tab (BitVec 2) := []
  cards : Tab Card := []
  seqCtr : Dword := 0
  groups : Tab Dword := []
  groupAsid : Tab (BitVec 16) := []
  peers : Tab (BitVec 128) := []
  collects : List Collect := []
  /-- The counts that this module's owners have taken: group, rank, die and stage of each (R390). -/
  countsSeen : List (Nat × Nat × Nat × Nat) := []
  entries : List Entry := []
  applied : List Applied := []
  parkedChunks : List Chunk := []
  inbox : List Msg := []
  /-- Messages to other modules: group, rank there, message. -/
  outbox : List (Nat × Nat × Msg) := []
  /-- Engine records on their way: the card, core and context of each (R302). -/
  recQueue : List (Nat × Nat × Nat × EngRec) := []
  /-- Records of contexts that were IDLE when they came, by card (R302). -/
  cardRecs : Tab (List (Nat × Nat × EngRec)) := []
  carveGB : Nat := 0
  siltin : Siltin := .reset
  why : BitVec 8 := 0
  featPub : Dword := 0
  featAcc : Dword := 0
  timebase : Dword := 0
  domains : Tab Domain := []
  pwrQueue : List (BitVec 64) := []
  /-- A Till entry with EN = 1 has been written since reset (R384). -/
  tillSeen : Bool := false
  scrub : Tab (BitVec 8) := []
  /-- The scrub period in which each sector was last read, counted from 1 (R335). -/
  scrubbed : Tab Nat := []
  epoch : Word := 0
  /-- Daily wear samples taken since reset (R383). -/
  sampleDays : Nat := 0
  tripped : Bool := false
  tripValid : Bool := false
  tripLo : Dword := 0
  tripTime : Dword := 0
  /-- Interrupts raised to the host: vectors, oldest first (R365, R372). -/
  irqs : List (BitVec 8) := []
  /-- The value that the host's last read of BAR0 returned (R370). -/
  hostRead : Dword := 0
  /-- Host memory, where the event queues lie (R374). -/
  hostMem : Mem := []
  /-- Order of issue of transfers over the module (R210). -/
  issueCtr : Nat := 0
  stageCtr : Nat := 0
  /-- The model's own: occasions at which a free value was taken. -/
  freeCtr : Nat := 0
  /-- The model's own: the place of the last operation of the present cycle among those of its core (R29, R32, R233). -/
  cycleTop : Tab Nat := []
  /-- The model's own: what waits have taken from each flag (core · 32 + flag) in the present cycle (R32). -/
  cycleTook : Tab Nat := []
  /-- The model's own: who moves next. -/
  schedule : List Turn := []
  focus : Focus := .core 0
  deriving DecidableEq, Repr

/-- The machine right after reset, before the device's own bring-up steps (R384): every register at its reset value,
SILTIN.STATE 0 (DESIGN CHOICE, log entry 2). -/
def State.reset : State := {}

end Sys2Proof.Machine
end

