-- ==== Sys2Proof/Machine/Ops.lean ====
section
/-! DEFINITION. The named operations over the state: reading and writing registers, buffers, rings, flags; engine records;
taking a trap, the double fault and the return. -/

namespace Sys2Proof

/-! ### Numbers of the operand types -/

/-- R373: a row unit's place in the file of units: 16 for each Vault, then 8 for each stack. -/
def UnitId.key : UnitId → Nat
  | .vault v u => 16 * v + u
  | .base st u => 128 + 8 * st + u

/-- R97. -/
def Scope.rank : Scope → Nat
  | .core => 0 | .yard => 1 | .die => 2 | .module => 3 | .system => 4

/-- R293. -/
def Cause.code : Cause → Nat
  | .illegalEncoding => 0x01 | .reservedField => 0x02 | .featureNotAccepted => 0x03 | .privilege => 0x04
  | .bundleMisaligned => 0x05 | .bundleKind => 0x06 | .fetchOutsideCode => 0x07 | .bufferBounds => 0x08
  | .bufferPermission => 0x09 | .ringProtocol => 0x0A | .syncTimeout => 0x0B | .translationFault => 0x0C
  | .pagePermission => 0x0D | .cowWrite => 0x0E | .pageAbsent => 0x0F | .indexRange => 0x10 | .fpTrap => 0x11
  | .windowRecordReserved => 0x12 | .memoryError => 0x13 | .breakpoint => 0x14 | .softwareTrap => 0x15
  | .doubleFault => 0x16 | .scaleAlignment => 0x17 | .latchMode => 0x18 | .remoteError => 0x19

/-- R20. -/
def Buf.size : Buf → Nat
  | .wb => 3145728 | .ab => 3145728 | .cb => 2097152

/-- R202: the code of a buffer in an address word, and of SP (R88). -/
def Buf.num : Buf → Nat
  | .wb => 0 | .ab => 1 | .cb => 2

end Sys2Proof

namespace Sys2Proof.Machine

/-! ### Places -/

def State.core (s : State) (k : Nat) : Core := Tab.get {} s.cores k
def State.setCore (s : State) (k : Nat) (v : Core) : State := { s with cores := Tab.put s.cores k v }
def Core.ctx (q : Core) (c : Nat) : Ctx := Tab.get {} q.ctxs c
def Core.setCtx (q : Core) (c : Nat) (v : Ctx) : Core := { q with ctxs := Tab.put q.ctxs c v }
def State.ctx (s : State) (k c : Nat) : Ctx := (s.core k).ctx c
def State.setCtx (s : State) (k c : Nat) (v : Ctx) : State := s.setCore k ((s.core k).setCtx c v)
def State.modCore (s : State) (k : Nat) (f : Core → Core) : State := s.setCore k (f (s.core k))
def State.modCtx (s : State) (k c : Nat) (f : Ctx → Ctx) : State := s.setCtx k c (f (s.ctx k c))
def State.die (s : State) (d : Nat) : Die := Tab.get {} s.dies d
def State.setDie (s : State) (d : Nat) (v : Die) : State := { s with dies := Tab.put s.dies d v }
def State.modDie (s : State) (d : Nat) (f : Die → Die) : State := s.setDie d (f (s.die d))
def State.vault (s : State) (v : Nat) : Vault := Tab.get {} s.vaults v
def State.setVault (s : State) (v : Nat) (x : Vault) : State := { s with vaults := Tab.put s.vaults v x }
def State.card (s : State) (n : Nat) : Card := Tab.get { die := 0, stream := 0, dw := [] } s.cards n
def State.setCard (s : State) (n : Nat) (x : Card) : State := { s with cards := Tab.put s.cards n x }
def State.modCard (s : State) (n : Nat) (f : Card → Card) : State := s.setCard n (f (s.card n))
def State.domain (s : State) (i : Nat) : Domain := Tab.get {} s.domains i
def State.setDomain (s : State) (i : Nat) (x : Domain) : State := { s with domains := Tab.put s.domains i x }

def State.unit (s : State) (u : UnitId) : RowUnit := Tab.get {} s.units u.key
def State.setUnit (s : State) (u : UnitId) (x : RowUnit) : State := { s with units := Tab.put s.units u.key x }

/-- R14: the die of a core. -/
def dieOf (k : Nat) : Nat := k / 48
/-- R14: the yard of a core, over the module. -/
def yardOf (k : Nat) : Nat := k / 4

/-- Index into a list from below, and its change at one place. -/
def setAt {α : Type} (l : List α) (n : Nat) (v : α) : List α := l.set n v

/-! ### Bytes and words (R2: little-endian) -/

/-- The number that bytes hold, lowest first. -/
def leNat : List Byte → Nat
  | [] => 0
  | b :: t => b.toNat + 256 * leNat t

/-- The `n` bytes of a number, lowest first. -/
def leBytes : Nat → Nat → List Byte
  | 0, _ => []
  | n + 1, v => BitVec.ofNat 8 v :: leBytes n (v / 256)

/-- The words that bytes hold. -/
def leDword (l : List Byte) : Dword := BitVec.ofNat 64 (leNat l)
def leWord (l : List Byte) : Word := BitVec.ofNat 32 (leNat l)

/-- Cuts a list into pieces of `n`, at most `fuel` of them. -/
def pieces {α : Type} (n : Nat) : Nat → List α → List (List α)
  | 0, _ => []
  | _, [] => []
  | f + 1, l => l.take n :: pieces n f (l.drop n)

/-- Bits hi down to lo of a number. -/
def bits (v hi lo : Nat) : Nat := v / 2 ^ lo % 2 ^ (hi + 1 - lo)

/-- R112: `sext(v, n)`. -/
def sextD {n : Nat} (v : BitVec n) : Dword := v.signExtend 64

/-! ### Numbers of modes -/

/-- R35. -/
def CState.code : CState → BitVec 3
  | .idle => 0 | .ready => 1 | .running => 2 | .waiting => 3 | .halted => 4 | .trapped => 5 | .stopped => 6

/-- R376. -/
def State.accepted (s : State) (bit : Nat) : Bool := s.featAcc.getLsbD bit

/-! ### Registers of a context (R15) -/

/-- The context runs its handler, at supervisor level (R34, R298). -/
def Ctx.inHandler (c : Ctx) : Bool := decide (c.st = .trapped) && decide (c.server = .handler)

/-- R15: the scalar registers, shadow ones in the handler (R298); `x0` reads zero. -/
def Ctx.readX (c : Ctx) (r : Reg) : Dword := if r = 0 then 0 else Tab.get 0 (if c.inHandler then c.shx else c.x) r.toNat

/-- R15: a write to `x0` is discarded. -/
def Ctx.writeX (c : Ctx) (r : Reg) (v : Dword) : Ctx :=
  if r = 0 then c
  else if c.inHandler then { c with shx := Tab.put c.shx r.toNat v }
  else { c with x := Tab.put c.x r.toNat v }

/-- R15: the predicates; `p0` reads true. -/
def Ctx.readP (c : Ctx) (p : PReg) : Bool := if p = 0 then true else Tab.get false (if c.inHandler then c.shp else c.p) p.toNat

/-- R15: a write to `p0` is discarded. -/
def Ctx.writeP (c : Ctx) (p : PReg) (v : Bool) : Ctx :=
  if p = 0 then c
  else if c.inHandler then { c with shp := Tab.put c.shp p.toNat v }
  else { c with p := Tab.put c.p p.toNat v }

/-- R88: whether the guard lets its slot execute. -/
def Ctx.guard (c : Ctx) (g : Guard) : Bool := c.readP g.pg != g.inv

def Ctx.loop (c : Ctx) (lv : BitVec 3) : LoopRec := Tab.get {} c.loops lv.toNat
def Ctx.setLoop (c : Ctx) (lv : BitVec 3) (r : LoopRec) : Ctx := { c with loops := Tab.put c.loops lv.toNat r }
def Ctx.wrec (c : Ctx) (w : BitVec 2) : BitVec 768 := Tab.get 0 c.w w.toNat
def Ctx.vcwEntry (c : Ctx) (i : BitVec 9) : BitVec 256 := if i = 0 then 0 else Tab.get 0 c.vcw i.toNat
def Ctx.mpReg (c : Ctx) (m : BitVec 3) : Dword := Tab.get 0 c.mp m.toNat

/-- R21: the context's window of a buffer. -/
def Ctx.window (c : Ctx) (b : Buf) : Window :=
  match b with | .wb => c.wwin | .ab => c.awin | .cb => c.cwin

/-- R16, R35, R136: CSTAT. -/
def Ctx.cstat (c : Ctx) : Dword :=
  (0 : BitVec 40) ++ c.prio ++ c.st.code ++ c.fevr.extractLsb' 0 1 ++ (if c.wconf then (1 : BitVec 1) else 0) ++
    (0 : BitVec 13) ++ c.slotres

/-- R302: ERSTAT. -/
def Ctx.erstat (c : Ctx) : Dword :=
  BitVec.ofNat 64 ((if c.pend then 2 ^ 16 else 0) + c.lost * 256 + c.records.length)

/-! ### Vector state (R17, R19) -/

/-- A vector register at its reset value. -/
def VReg.zero : VReg := List.replicate 128 0
/-- A statistics register at its reset value (R17). -/
def QReg.empty : QReg := List.replicate 128 Triple.empty

def Core.vreg (q : Core) (r : BitVec 6) : VReg := Tab.get VReg.zero q.v r.toNat
def Core.qreg (q : Core) (r : BitVec 4) : QReg := Tab.get QReg.empty q.q r.toNat

/-- R145: `new` in the lane groups of the mask, `old` elsewhere. -/
def mergeGroups {α : Type} (mask : BitVec 8) (old new : List α) : List α :=
  (List.range 8).flatMap fun g =>
    ((if mask.getLsbD g then new else old).drop (16 * g)).take 16

/-! ### Typed buffers (R20, R21) -/

def Core.buf (q : Core) (b : Buf) : Mem :=
  match b with | .wb => q.wb | .ab => q.ab | .cb => q.cb

def Core.setBuf (q : Core) (b : Buf) (m : Mem) : Core :=
  match b with | .wb => { q with wb := m } | .ab => { q with ab := m } | .cb => { q with cb := m }

/-- R21: the lowest byte of `n` bytes from `a` that lies outside the window. -/
def Window.outside (w : Window) (a : Int) (n : Nat) : Option Int :=
  if n = 0 then none
  else if a < w.base then some a
  else if a + n > w.limit then some (max a w.limit)
  else none

/-- R334: a write clears the poison of the 8-byte units it covers. -/
def clearUnits (l : List (Buf × Nat)) (b : Buf) (a n : Nat) : List (Buf × Nat) :=
  l.filter fun (b', u) => !(decide (b' = b) && decide (a ≤ 8 * u) && decide (8 * u + 8 ≤ a + n))

/-- Writes bytes of a typed buffer. -/
def Core.writeBuf (q : Core) (b : Buf) (a : Nat) (l : List Byte) : Core :=
  let q := q.setBuf b ((q.buf b).writeList a l)
  { q with poison := clearUnits q.poison b a l.length }

/-- The bytes of a typed buffer. -/
def Core.readBuf (q : Core) (b : Buf) (a n : Nat) : List Byte := (q.buf b).readList a n

/-- R334: the lowest poisoned byte among `n` bytes from `a`. -/
def Core.poisonedAt (q : Core) (b : Buf) (a n : Nat) : Option Nat :=
  (List.range n).findSome? fun i =>
    if q.poison.any (fun (b', u) => decide (b' = b) && decide (u = (a + i) / 8)) then some (a + i) else none

/-- R202: an address word of a typed-buffer byte. -/
def bufWord (b : Buf) (a : Nat) : Dword := BitVec.ofNat 64 (2 ^ 63 + b.num * 2 ^ 61 + a)

/-! ### Counting flags (R30, R31) -/

/-- R30. -/
def flagMax : Nat := 16777215

def Core.flag (q : Core) (f : BitVec 5) : Nat := Tab.get 0 q.flags f.toNat

/-- R30, R31: a post of `n`. The posts of a cycle come before its waits (R32): `took` is what waits have taken from the flag in
this one. -/
def Core.post (q : Core) (f : BitVec 5) (n : Nat) (took : Nat := 0) : Core :=
  if q.flag f + took + n > flagMax then
    { q with flags := Tab.put q.flags f.toNat (flagMax - took), fovf := q.fovf ||| BitVec.ofNat 32 (2 ^ f.toNat) }
  else { q with flags := Tab.put q.flags f.toNat (q.flag f + n) }

/-- R30: whether a wait for `n` is satisfied. -/
def Core.flagReady (q : Core) (f : BitVec 5) (n : Nat) : Bool := decide (n ≤ q.flag f)
/-- R30: the subtraction of a satisfied wait. -/
def Core.take (q : Core) (f : BitVec 5) (n : Nat) : Core := { q with flags := Tab.put q.flags f.toNat (q.flag f - n) }

/-- R32: what waits have taken from a flag in the present cycle. -/
def State.tookNow (s : State) (k : Nat) (f : BitVec 5) : Nat := Tab.get 0 s.cycleTook (32 * k + f.toNat)
/-- R30, R32: a satisfied wait on a flag of core `k`. -/
def State.takeFlag (s : State) (k : Nat) (f : BitVec 5) (n : Nat) : State :=
  { s.modCore k fun q => q.take f n with cycleTook := Tab.put s.cycleTook (32 * k + f.toNat) (s.tookNow k f + n) }
/-- R31, R32: a post to a flag of core `k`. -/
def State.postFlag (s : State) (k : Nat) (f : BitVec 5) (n : Nat) : State := s.modCore k fun q => q.post f n (s.tookNow k f)

/-! ### Rings (R25 to R28) -/

def Core.ring (q : Core) (h : BitVec 4) : Ring := Tab.get {} q.rings h.toNat
def Core.setRing (q : Core) (h : BitVec 4) (r : Ring) : Core := { q with rings := Tab.put q.rings h.toNat r }

/-- Slots of a ring. -/
def Ring.count (r : Ring) : Nat := r.slots.toNat + 1
/-- Bytes of a slot. -/
def Ring.slotBytes (r : Ring) : Nat := (r.slotsz.toNat + 1) * 64
/-- Buffer address of slot `q`. -/
def Ring.slotAddr (r : Ring) (q : Nat) : Nat := r.base.toNat + q * r.slotBytes

/-- R26: the place of the end-of-stream slot among the filled slots from HEAD. -/
def Ring.eosPos (r : Ring) : Option Nat :=
  match r.eosSlot with
  | none => none
  | some e =>
    let p := (e + r.count - r.head.toNat) % r.count
    if p < r.fill.toNat then some p else none

/-- R26: whether a consumer wait for `n` completes. -/
def Ring.consReady (r : Ring) (n : Nat) : Bool := decide (n ≤ r.fill.toNat) || (r.eosp && r.eosPos.isSome) || decide (n = 0)
/-- R26: data slots available to a wait for `n`. -/
def Ring.avail (r : Ring) (n : Nat) : Nat := min n (r.eosPos.getD r.fill.toNat)
/-- R26: whether such a wait reached the end-of-stream slot. -/
def Ring.reached (r : Ring) (n : Nat) : Bool :=
  match r.eosPos with
  | none => false
  | some p => decide (p < n)
/-- R26: whether a producer wait for `n` completes. -/
def Ring.prodReady (r : Ring) (n : Nat) : Bool := decide (n + r.fill.toNat ≤ r.count) || decide (n = 0)

/-- R26, R27: a consumer advance. -/
def Ring.advC (r : Ring) (n : Nat) : Ring :=
  { r with
    head := BitVec.ofNat 11 ((r.head.toNat + n) % r.count)
    fill := BitVec.ofNat 12 (r.fill.toNat - n)
    eosc := r.eosc || r.reached n }
/-- R26: a producer advance. -/
def Ring.advP (r : Ring) (n : Nat) : Ring :=
  { r with
    tail := BitVec.ofNat 11 ((r.tail.toNat + n) % r.count)
    fill := BitVec.ofNat 12 (r.fill.toNat + n) }
/-- R27: the end-of-stream producer advance. -/
def Ring.advEos (r : Ring) : Ring := { r.advP 1 with eosp := true, eosSlot := some r.tail.toNat }

/-- R28: a consumer operation that the role may not make; `role` says whether CONS names the party. -/
def Ring.badC (r : Ring) (role : Bool) : Bool := !r.valid || !role || r.eosc
/-- R28: likewise for a producer. -/
def Ring.badP (r : Ring) (role : Bool) : Bool := !r.valid || !role || r.eosp
/-- R28: a wait for too many slots. -/
def Ring.tooMany (r : Ring) (n : Nat) : Bool := decide (n > r.count)
/-- R28: an advance that the filled or free slots do not allow. -/
def Ring.badAdvC (r : Ring) (n : Nat) : Bool := r.tooMany n || decide (n > r.fill.toNat)
def Ring.badAdvP (r : Ring) (n : Nat) : Bool := r.tooMany n || decide (n + r.fill.toNat > r.count)

/-! ### The card of a context, as other engines need it (R355, R106) -/

def Card.dword (c : Card) (i : Nat) : Dword := c.dw.getD i 0
/-- R355: ASID. -/
def Card.asid (c : Card) : BitVec 16 := (c.dword 0).extractLsb' 32 16
/-- R355: WDWAIT in cycles; none without a limit. -/
def Card.wdwait (c : Card) : Option Nat :=
  let w := ((c.dword 5).extractLsb' 32 32).toNat
  if w = 0 then none else some (w * 1024)
/-- R106: TRAPCFG. -/
def Card.trapcfg (c : Card) : BitVec 32 := c.hdr.extractLsb' 288 32
def Card.hsel (c : Card) : Nat := (c.trapcfg.extractLsb' 8 8).toNat
def Card.brken (c : Card) : Bool := c.trapcfg.getLsbD 0
def Card.irtrap (c : Card) : Bool := c.trapcfg.getLsbD 1
/-- R355: KERNEL. -/
def Card.kernel (c : Card) : Dword := c.dword 1
/-- R106: CODESZ and CKCNT. -/
def Card.codesz (c : Card) : Nat := (c.hdr.extractLsb' 64 32).toNat
def Card.ckcnt (c : Card) : Nat := (c.hdr.extractLsb' 432 16).toNat

/-- The card of a context; an empty one when it has none. -/
def State.cardOf (s : State) (k c : Nat) : Card :=
  match (s.ctx k c).card with
  | some n => s.card n
  | none => { die := dieOf k, stream := 0, dw := [] }

/-- R304: the handler table entry that TRAPCFG.HSEL names. -/
def State.handler (s : State) (k c : Nat) : BitVec 128 :=
  Tab.get 0 (s.die (dieOf k)).handlers (s.cardOf k c).hsel
def hentry (e : BitVec 128) : Dword := (e.extractLsb' 5 47).setWidth 64 <<< 5
def hsize (e : BitVec 128) : Nat := (e.extractLsb' 96 32).toNat
def hvalid (e : BitVec 128) : Bool := e.getLsbD 0

/-- R86, R298: the code range of what the context runs: its first byte and the byte after it. -/
def State.codeRange (s : State) (k c : Nat) : Nat × Nat :=
  if (s.ctx k c).inHandler then
    let e := s.handler k c
    ((hentry e).toNat, (hentry e).toNat + hsize e)
  else
    let h := (s.cardOf k c).kernel.toNat + 64
    (h, h + (s.cardOf k c).codesz)

/-- R86: the fault of a transfer target. -/
def State.badTarget (s : State) (k c : Nat) (t : Dword) : Option Cause :=
  let r := s.codeRange k c
  if t.toNat % 32 ≠ 0 then some .bundleMisaligned
  else if t.toNat < r.1 || r.2 ≤ t.toNat then some .fetchOutsideCode
  else none

/-- R86: the code range of the user-level code of a context, for `eret`. -/
def State.userRange (s : State) (k c : Nat) : Nat × Nat :=
  let h := (s.cardOf k c).kernel.toNat + 64
  (h, h + (s.cardOf k c).codesz)

/-- R355: URG and PRIO of a card. -/
def Card.urgent (x : Card) : Bool := (x.dword 0).getLsbD 63
def Card.prio (x : Card) : Nat := ((x.dword 0).extractLsb' 60 3).toNat
/-- R364: 0 of a card that is not urgent; an urgent card outranks those of lower PRIO. -/
def Card.rank (x : Card) : Nat := if x.urgent then 1 + x.prio else 0

/-! ### Events of a die (R374) -/

/-- R374: an event queue that is configured. -/
def EvQueue.configured (e : EvQueue) : Bool :=
  decide (e.eqbase.extractLsb' 0 52 ≠ 0) && decide (4 ≤ e.eqlog.toNat) && decide (e.eqlog.toNat ≤ 16)

/-- One more occasion at which a free value may be taken. -/
def State.fresh (s : State) : State := { s with freeCtr := s.freeCtr + 1 }

/-- R373: the first domain of a class, and how many it has. -/
def pwRange (c : Nat) : Nat × Nat :=
  if c = 0 then (0, 24) else if c = 1 then (24, 8) else if c = 2 then (32, 8) else (40, 16)

/-- The class of a domain and its number in the class. -/
def domainClass (i : Nat) : Nat := if i < 24 then 0 else if i < 32 then 1 else if i < 40 then 2 else 3
def domainIndex (i : Nat) : Nat := i - (pwRange (domainClass i)).1
/-- The die whose event queue reports a domain (DESIGN CHOICE, log entry 39). -/
def domainDie (i : Nat) : Nat :=
  match domainClass i with
  | 0 => i / 12
  | 1 | 2 => domainIndex i / 4
  | _ => domainIndex i / 8

/-- R374: raises an event of die `d`. What the spec does not state of its source, argument and detail is open
(DESIGN CHOICE, log entry 39). -/
def State.event (s : State) (d code : Nat) (src : Option Nat) (arg det : Option Dword) : State :=
  let free (i : Nat) : Dword := Config.freeDword (s.freeCtr * 2 ^ 64 + 2 ^ 63 + i)
  let src := src.getD ((free 0).toNat % 65536)
  let arg := arg.getD (free 1)
  let det := det.getD (free 2)
  let s := { s with freeCtr := s.freeCtr + 1 }
  let e := (s.die d).evq
  if e.configured && decide ((e.epi - e.eci).toNat ≠ 2 ^ e.eqlog.toNat) then
    let a := (e.eqbase.extractLsb' 0 52).toNat + 32 * (e.epi.toNat % 2 ^ e.eqlog.toNat)
    let l := leBytes 8 (code + 65536 * src) ++ leBytes 8 s.timebase.toNat ++ leBytes 8 arg.toNat ++ leBytes 8 det.toNat
    let s := { s with hostMem := s.hostMem.writeList a l, irqs := s.irqs ++ [e.vec] }
    s.modDie d fun x => { x with evq := { e with epi := e.epi + 1 } }
  else s.modDie d fun x => { x with evq := { e with dropped := e.dropped + 1 } }

/-! ### Landing of results (R39, R42, R43, R60) -/

/-- R59: the slot's sticky flags in FFLAGS (R135). -/
def slotFlags (ff : Dword) (slot : Nat) : BitVec 5 := ff.extractLsb' (5 * slot) 5

/-- R135, R136: flags that a result sets, with the first-event record. -/
def Ctx.setFlags (c : Ctx) (slot : Nat) (fl : BitVec 5) (baddr : Dword) : Ctx :=
  let old := slotFlags c.fflags slot
  let c := { c with fflags := c.fflags ||| (fl.setWidth 64 <<< (5 * slot)) }
  if decide (fl &&& ~~~old ≠ 0) && !c.fevr.getLsbD 0 then
    { c with
      fevr := (fl.setWidth 64 <<< 59) ||| (BitVec.ofNat 64 slot <<< 56) |||
        ((baddr.extractLsb' 5 47).setWidth 64 <<< 5) ||| 1 }
  else c

/-- R43, R146: whether a result and an earlier one of the same bundle meet on one register. -/
def Dest.clash (a b : Dest) : Bool :=
  match a, b with
  | .x r, .x r' => decide (r = r') && decide (r ≠ 0)
  | .p r, .p r' => decide (r = r') && decide (r ≠ 0)
  | .mp r, .mp r' => decide (r = r')
  | .v r m, .v r' m' => decide (r = r') && decide (m &&& m' ≠ 0)
  | .q r m, .q r' m' => decide (r = r') && decide (m &&& m' ≠ 0)
  | _, _ => false

/-- The register write of a result. -/
def State.landReg (s : State) (k c : Nat) (f : Flight) : State :=
  match f.dest, f.val with
  | .x r, .dword v => s.modCtx k c fun x => x.writeX r v
  | .p r, .bit b => s.modCtx k c fun x => x.writeP r b
  | .mp r, .dword v => s.modCtx k c fun x => { x with mp := Tab.put x.mp r.toNat v }
  | .v r m, .lanes l => s.modCore k fun q => { q with v := Tab.put q.v r.toNat (mergeGroups m (q.vreg r) l) }
  | .q r m, .triples l => s.modCore k fun q => { q with q := Tab.put q.q r.toNat (mergeGroups m (q.qreg r) l) }
  | _, _ => s

/-- R60: whether the result traps in place of landing. -/
def Flight.traps? (f : Flight) : Bool := decide (f.flags &&& f.traps ≠ 0)

/-- Orders results by bundle, then slot (R42, R43). -/
def flightLe (a b : Nat × Flight) : Bool :=
  decide (a.2.seq < b.2.seq) || (decide (a.2.seq = b.2.seq) && decide (a.2.slot ≤ b.2.slot))
/-- Places a result in that order. -/
def flightInsert (x : Nat × Flight) : List (Nat × Flight) → List (Nat × Flight)
  | [] => [x]
  | y :: t => if flightLe y x then y :: flightInsert x t else x :: y :: t

/-- R60, R141: whether a due result writes its register: it does not trap, or no trap is taken of it. -/
def State.lands (s : State) (k : Nat) (x : Nat × Flight) : Bool :=
  !x.2.traps? || (s.ctx k x.1).inHandler || decide ((s.ctx k x.1).phase = .exitFill)

/-- Lands one result of a context; `seen` are the results landed before it at this boundary. The fill bundles of an exit
take no trap (R141). -/
def State.landOne (s : State) (k : Nat) (seen : List (Nat × Flight)) (x : Nat × Flight) : State :=
  let c := x.1; let f := x.2
  let lands := s.lands k x
  let s := s.modCtx k c fun y => y.setFlags f.slot f.flags f.baddr
  if !lands then
    s.modCtx k c fun y => if y.fpPend.isNone then { y with fpPend := some (f.flags, f.baddr, f.slot) } else y
  else
    let s := s.landReg k c f
    if seen.any (fun z => decide (z.1 = c) && decide (z.2.seq = f.seq) && z.2.dest.clash f.dest) then
      s.modCtx k c fun y => { y with wconf := true }
    else s

/-- Lands results in order; one that traps does not land and meets no other (R60, R146). -/
def State.landList (s : State) (k : Nat) (seen : List (Nat × Flight)) : List (Nat × Flight) → State
  | [] => s
  | x :: t => State.landList (s.landOne k seen x) k (if s.lands k x then seen ++ [x] else seen) t

/-- R170: the Mint's events that still wait for a boundary, in the order of R136. -/
def Ctx.landMint (x : Ctx) : Ctx :=
  let l := x.mintEvs.foldl (fun a f => flightInsert (0, f) a) []
  { l.foldl (fun x f => x.setFlags f.2.slot f.2.flags f.2.baddr) x with mintEvs := [] }

/-- R170: the events that a Mint command of bundle `seq` left for its context. -/
def mintEvent (fl : BitVec 5) (baddr : Dword) (seq : Nat) : Flight :=
  { dest := .x 0, val := .dword 0, r := 0, flags := fl, traps := 0, baddr, slot := 3, seq }

/-- R170, R136: the Mint's events of the context whose boundary it is, among the results due there. -/
def Core.mintDue (q : Core) : List (Nat × Flight) :=
  match q.run with
  | some c => (q.ctx c).mintEvs.map fun f => (c, f)
  | none => []

/-- R39: the boundary before the core's next bundle: every result due lands, whichever context it belongs to, and the events
of the running context's Mint commands are set with them.
A trapping result leaves its report in `fpPend` (R60). -/
def State.landDue (s : State) (k : Nat) : State :=
  let due := (s.core k).ctxs.foldl (fun acc (c, x) =>
    (x.flights.filter fun f => decide (f.r ≤ 1)).foldl (fun a f => flightInsert (c, f) a) acc) []
  let due := (s.core k).mintDue.foldl (fun a x => flightInsert x a) due
  let s := s.modCore k fun q =>
    { q with
      ctxs := q.ctxs.map fun (c, x) =>
        (c, { x with
          flights := x.flights.filter fun f => decide (1 < f.r)
          mintEvs := if q.run = some c then [] else x.mintEvs }) }
  s.landList k [] due

/-- R39: a bundle has issued; every result in flight on the core comes one bundle nearer. -/
def Core.countDown (q : Core) : Core :=
  { q with ctxs := q.ctxs.map fun (c, x) => (c, { x with flights := x.flights.map fun f => { f with r := f.r - 1 } }) }

/-! ### Taking a trap (R296, R297), the double fault (R303) -/

/-- R295: TINFO. -/
def tinfoWord (baddr : Dword) (async : Bool) (slot : Nat) : Dword :=
  ((baddr.extractLsb' 5 47).setWidth 64 <<< 5) ||| (if async then 16 else 0) ||| BitVec.ofNat 64 slot

/-- A fault as the trap registers record it (R297). -/
structure Trap where
  cause : Cause
  tval : Dword
  epcb : Dword
  slotres : Nat
  baddr : Dword
  async : Bool
  slot : Nat
  psvc : Bool := false
  deriving DecidableEq, Repr

/-- A fault raised at issue: BADDR is EPCB's bundle and SLOT is SLOTRES. -/
def Trap.atIssue (cause : Cause) (tval pc : Dword) (slotres : Nat) : Trap :=
  { cause, tval, epcb := pc, slotres, baddr := pc, async := false, slot := slotres }

/-- R303: the second fault of a context in its handler (DEDUCED, log entry 16). -/
def State.doubleFault (s : State) (k c : Nat) (cause : Cause) (epc : Dword) : State :=
  let s := s.modCtx k c fun x =>
    { x with dcause := BitVec.ofNat 64 cause.code, depc := epc, st := .stopped, server := .none, flights := [] }
  let s := s.modCore k fun q => { q with run := none, hold := none }
  s.event (dieOf k) 6 (some k) none none

/-- R32, R222: the count that a parked flag wait has taken goes back when its bundle is abandoned. -/
def State.giveBack (s : State) (k c : Nat) : State :=
  match (s.ctx k c).taken with
  | none => s
  | some (f, n) => s.modCore k fun q => { q with flags := Tab.put q.flags f.toNat (min flagMax (q.flag f + n)) }

/-- R296 steps 2 to 4: the one way into the handler. An entry with VALID = 0 is a double fault (R304) (DEDUCED, log
entry 16). -/
def State.enterTrap (s : State) (k c : Nat) (t : Trap) : State :=
  let e := s.handler k c
  let s := (s.giveBack k c).modCtx k c fun x =>
    { x with
      snapshot := x.snapshot ++ x.flights, flights := [], fpPend := none
      cause := BitVec.ofNat 64 (t.cause.code + if t.psvc then 256 else 0), tval := t.tval
      tinfo := tinfoWord t.baddr t.async t.slot
      epcb := t.epcb &&& ~~~31, slotres := BitVec.ofNat 3 t.slotres
      st := .trapped, server := .handler, pc := hentry e, start := 0, phase := .normal, ckFill := false, parked := false, taken := none, timedOut := false }
  let s := s.modCore k fun q => { q with run := some c, hold := none }
  if hvalid e then s else s.doubleFault k c .fetchOutsideCode (hentry e)

/-- R301: a CoW-Write or Page-Absent of a context's own access goes to the page service (DEDUCED, log entry 17). -/
def State.toPageService (s : State) (k c : Nat) (t : Trap) (va : Dword) : State :=
  let asid := (s.cardOf k c).asid
  let s := (s.giveBack k c).modCtx k c fun x =>
    { x with
      snapshot := x.snapshot ++ x.flights, flights := [], fpPend := none
      epcb := t.epcb &&& ~~~31, slotres := BitVec.ofNat 3 t.slotres
      st := .trapped, server := .pageService, start := 0, phase := .normal, parked := false, taken := none, timedOut := false }
  let s := s.modCore k fun q => { q with run := some c, hold := none }
  { s with pageReqs := s.pageReqs ++ [{ asid, va, cow := decide (t.cause = .cowWrite), who := .ctx k c }] }

/-- A fault of the context that runs: a double fault in the handler, else the page service or the handler. -/
def State.raise (s : State) (k c : Nat) (t : Trap) : State :=
  if (s.ctx k c).inHandler then s.doubleFault k c t.cause t.epcb
  else if t.cause = .cowWrite ∨ t.cause = .pageAbsent then s.toPageService k c t t.tval
  else s.enterTrap k c t

/-! ### Engine records (R302) -/

/-- R302: the 64 bytes of a record as dwords. -/
def EngRec.dwords (r : EngRec) : List Dword :=
  [BitVec.ofNat 64 (r.cause.code + (if r.trap then 256 else 0) + r.src.toNat * 512 + r.ch.toNat * 4096), r.id,
    (r.baddr.extractLsb' 5 47).setWidth 64 <<< 5, r.pay.getD 0 0, r.pay.getD 1 0, r.pay.getD 2 0, r.pay.getD 3 0, 0]

/-- R293: the trap value that a record brings. -/
def EngRec.tval (r : EngRec) : Dword :=
  if r.cause = .indexRange ∨ r.cause = .remoteError then 0 else if r.tv ≠ 0 then r.tv else r.pay.getD 0 0

/-- R302: the record whose cause the trap reports: the oldest held one with TRAP = 1, else the first dropped one
(DEDUCED, log entry 43). -/
def Ctx.trapRec (c : Ctx) : Option EngRec :=
  match c.records.find? (·.trap) with
  | some r => some r
  | none => c.dropped

/-- R302: a record enters the context's buffer, or is dropped when it is full. -/
def Ctx.addRec (c : Ctx) (r : EngRec) : Ctx :=
  let c :=
    if c.records.length < Config.maxRecords then { c with records := c.records ++ [r] }
    else
      { c with
        lost := min 255 (c.lost + 1)
        dropped := if r.trap && c.dropped.isNone then some r else c.dropped }
  if r.trap then { c with pend := true } else c

/-- R302: the trap from a pending record, at the boundary before the bundle at `pc`. -/
def State.recordTrap (s : State) (k c : Nat) (pc : Dword) : State :=
  let x := s.ctx k c
  let r := x.trapRec
  let s := s.modCtx k c fun x => { x with pend := false, dropped := none }
  s.enterTrap k c
    { cause := (r.map (·.cause)).getD .remoteError, tval := (r.map (·.tval)).getD 0, epcb := pc, slotres := 0,
      baddr := (r.map (·.baddr)).getD 0, async := true, slot := 0 }

/-- R37: a context becomes READY in this cycle. -/
def State.makeReady (s : State) (k c : Nat) : State :=
  s.modCtx k c fun x => { x with st := .ready, readyAt := s.timebase.toNat }

/-- R302: delivers a record to a context, whatever its state; an IDLE context's records go to its card's report
(DEDUCED, log entry 43). -/
def State.deliver (s : State) (card k c : Nat) (r : EngRec) : State :=
  let x := s.ctx k c
  if x.st = .idle ∨ x.card ≠ some card then
    { s with cardRecs := Tab.put s.cardRecs card (Tab.get [] s.cardRecs card ++ [(k, c, r)]) }
  else
    let s := s.modCtx k c fun x => x.addRec r
    if x.st = .waiting && r.trap then s.makeReady k c else s

/-- A record leaves its engine; ENGINE_RECORD_DELIVERY brings it to its context. -/
def State.sendRecord (s : State) (card k c : Nat) (r : EngRec) : State :=
  { s with recQueue := s.recQueue ++ [(card, k, c, r)] }

/-! ### Return from the handler (R300) and from the page service (R301) -/

/-- R130: the scan that the trap of a record interrupted, when the context goes on where it was. -/
def Ctx.resumePhase (x : Ctx) : Phase :=
  match x.split with
  | some p => (match p.skip with
    | some lv => if p.slot = 0 ∧ x.slotres = 0 ∧ p.pc = x.epcb then .scan lv p.pc else .normal
    | none => .normal)
  | none => .normal

/-- R300 steps 3 to 5: the context goes on at EPCB from slot SLOTRES, and its snapshot replays. -/
def State.resumeUser (s : State) (k c : Nat) : State :=
  let s := s.modCtx k c fun x =>
    { x with
      st := .running, server := .none, pc := x.epcb, start := x.slotres.toNat, phase := x.resumePhase
      flights := x.snapshot, snapshot := [] }
  s.modCore k fun q => { q with run := some c, hold := none }

/-- Lands every result of the running code at once (R300 step 1). -/
def State.landAll (s : State) (k c : Nat) : State :=
  let l := (s.ctx k c).flights.foldl (fun a f => flightInsert (c, f) a) []
  (s.modCtx k c fun x => { x with flights := [] }).landList k [] l

/-- R300 step 2: a pending record takes a new trap; EPCB, SLOTRES and the snapshot are kept. -/
def State.recordTrapKeep (s : State) (k c : Nat) : State :=
  let x := s.ctx k c
  (s.recordTrap k c x.epcb).modCtx k c fun y => { y with slotres := x.slotres }

/-- R300: `eret` (DEDUCED, log entry 16). -/
def State.eret (s : State) (k c : Nat) : State :=
  let s := s.landAll k c
  if (s.ctx k c).pend then s.recordTrapKeep k c else s.resumeUser k c

end Sys2Proof.Machine
end

