-- ==== Sys2Proof/Machine/Mem.lean ====
section
/-! DEFINITION. Global memory: where frames lie, the walk and its checks (R336 to R342), the tables' home and Till places
(R234, R330), what each agent sees of a byte (R278 to R280), and the writes at each scope. -/

namespace Sys2Proof.Machine

/-! ### Physical places

One number names each physical byte: byte `o` of HBM stack `t` is t × 2^36 + o, of Vault `v` 2^39 + v × 2^38 + o, and a
host-port address `a` is 2^52 + a. -/

/-- DESIGN CHOICE, log entry 13. -/
def hbmAddr (t o : Nat) : Nat := t * 2 ^ 36 + o
/-- DESIGN CHOICE, log entry 13. -/
def vaultAddr (v o : Nat) : Nat := 2 ^ 39 + v * 2 ^ 38 + o
/-- DESIGN CHOICE, log entry 13. -/
def cxlAddr (a : Nat) : Nat := 2 ^ 52 + a

/-- R373: the domain whose memory holds a physical byte. -/
def physDomain (a : Nat) : Option Nat :=
  if a < 2 ^ 39 then some (32 + a / 2 ^ 36)
  else if a < 2 ^ 52 then some (24 + (a - 2 ^ 39) / 2 ^ 38)
  else none

/-- The frame a physical byte lies in. -/
def frameOf (a : Nat) : Nat := a / 65536
def State.frame (s : State) (f : Nat) : Frame := Tab.get {} s.frames f
def State.setFrame (s : State) (f : Nat) (x : Frame) : State := { s with frames := Tab.put s.frames f x }

/-- R321: frame `f` of a stack lies below the Till carve-out. -/
def State.belowCarve (s : State) (f : Nat) : Bool :=
  decide ((f + 1) * 65536 + s.carveGB * Config.gigabyte ≤ Config.stackBytes)

/-- R340: the first physical byte that a tier and a FRAME field name; none where R340 has none. `pages` is the number
of 64 KiB pages of the leaf. -/
def State.frameBase (s : State) (tier : Nat) (f : Nat) (pages : Nat) : Option Nat :=
  match tier with
  | 0 =>
    if f / 2 ^ 23 = 0 && s.belowCarve (f % 2 ^ 20 + pages - 1) then some (hbmAddr (f / 2 ^ 20) (f % 2 ^ 20 * 65536)) else none
  | 1 => if f / 2 ^ 25 = 0 then some (vaultAddr (f / 2 ^ 22) (f % 2 ^ 22 * 65536)) else none
  | 2 => some (cxlAddr (f * 65536))
  | _ => none

/-! ### Views of a byte -/

/-- Who reads: an agent of a core, of a die, or one that passes no L2. -/
inductive View where
  | core (k : Nat)
  | die (d : Nat)
  | phys
  deriving DecidableEq, Repr

/-- The die of a view, if it has one. -/
def View.dieNo : View → Option Nat
  | .core k => some (dieOf k)
  | .die d => some d
  | .phys => none

/-- A dirty byte of a die's L2. -/
def Die.dirty (d : Die) (a : Nat) : Option Byte := if Tab.has d.l2 a then some (Tab.get 0 d.l2 a) else none

/-- R279: a byte as the agents of die `d` see it. -/
def State.dieByte (s : State) (d a : Nat) : Byte := ((s.die d).dirty a).getD (s.mem.read a)

/-- R278: the youngest committed store of the core to the byte that has not reached the L2. -/
def storeByte (l : List PStore) (a : Nat) : Option Byte :=
  l.foldl (fun acc p =>
    if p.level = .core then (match p.bytes.find? (fun (x : Nat × Byte) => decide (x.1 = a)) with
      | some x => some x.2
      | none => acc)
    else acc) none

/-- R278 to R280: a byte as the agents of a core see it. -/
def State.coreByte (s : State) (k a : Nat) : Byte := (storeByte (s.core k).stores a).getD (s.dieByte (dieOf k) a)

def State.viewByte (s : State) (v : View) (a : Nat) : Byte :=
  match v with
  | .core k => s.coreByte k a
  | .die d => s.dieByte d a
  | .phys => s.mem.read a

def State.viewBytes (s : State) (v : View) (l : List Nat) : List Byte := l.map (s.viewByte v)

/-! ### Writes -/

/-- R334: a write clears the poison of the sectors it covers whole. -/
def clearSectors (p : List Nat) (l : List Nat) : List Nat :=
  p.filter fun u => !((List.range 64).all fun i => l.contains (64 * u + i))

/-- R279: a write that reaches the L2 of die `d`. -/
def State.writeDie (s : State) (d : Nat) (l : List (Nat × Byte)) : State :=
  s.modDie d fun x =>
    { x with l2 := l.foldl (fun m (a, b) => Tab.put m a b) x.l2, l2poison := clearSectors x.l2poison (l.map Prod.fst) }

/-- R374: the Vault or stack number of a physical byte, as an event's source. -/
def physSource (a : Nat) : Nat :=
  match physDomain a with
  | some i => if i < 32 then i - 24 else i - 32
  | none => 0

/-- R334: the L2 of die `d` writes bytes of a poisoned line back, or writes only in part to a poisoned sector: the die's event
queue and the card's report say so. -/
def State.reportBack (s : State) (d : Nat) (l : List Nat) : State :=
  let bad := ((l.map (· / 64)).eraseDups).filter fun u =>
    (s.die d).l2poison.contains u || (clearSectors s.poison l).contains u
  bad.foldl (fun s u =>
    let owner := s.cores.findSome? fun (k, q) =>
      if dieOf k = d then q.stores.find? fun p => decide (p.level = .die) && p.bytes.any fun x => decide (x.1 / 64 = u) else none
    let s := s.event d 5 (some (physSource (64 * u))) (owner.map (·.va)) none
    match owner with
    | some p => s.modCard p.card fun c => { c with memerr := true }
    | none => s) s

/-- R279, R334: the L2 of die `d` writes bytes back to memory and holds none of their lines; a poisoned line poisons its
sector. -/
def State.writeBack (s : State) (d : Nat) (l : List (Nat × Byte)) : State :=
  let s := s.reportBack d (l.map Prod.fst)
  let hit (u : Nat) : Bool := l.any fun x => decide (x.1 / 64 = u)
  let bad := (s.die d).l2poison.filter hit
  let s := { s with
    mem := l.foldl (fun (m : Mem) (y : Nat × Byte) => m.write y.1 y.2) s.mem
    poison := clearSectors s.poison (l.map Prod.fst) ++ bad.filter fun u => !s.poison.contains u }
  s.modDie d fun x => { x with l2 := x.l2.filter fun (a, _) => !hit (a / 64), l2poison := x.l2poison.filter fun u => !hit u }

/-- R279: die `d` loses the lines in which `l` lies; its other dirty bytes of them are written back first. -/
def State.loseLines (s : State) (d : Nat) (l : List Nat) : State :=
  if (s.die d).l2.isEmpty && (s.die d).l2poison.isEmpty then s
  else
    let hit (u : Nat) : Bool := l.any fun a => decide (a / 64 = u)
    let s := s.writeBack d ((s.die d).l2.filter fun (a, _) => hit (a / 64) && !l.contains a)
    s.modDie d fun x => { x with l2 := x.l2.filter fun (a, _) => !hit (a / 64), l2poison := x.l2poison.filter fun u => !hit u }

/-- R278, R279: a write that performs at module scope, made past the L2 of die `d`, or past both: it is in memory, and the
other L2 has lost its lines. -/
def State.writeModule (s : State) (l : List (Nat × Byte)) (d : Option Nat := none) : State :=
  let at_ := l.map Prod.fst
  let own (e : Nat) (s : State) : State :=
    if d = some e then
      s.modDie e fun x =>
        { x with l2 := at_.foldl (fun (m : Tab Byte) a => Tab.erase m a) x.l2, l2poison := clearSectors x.l2poison at_ }
    else s.loseLines e at_
  let s := own 1 (own 0 s)
  { s with mem := l.foldl (fun (m : Mem) (y : Nat × Byte) => m.write y.1 y.2) s.mem, poison := clearSectors s.poison at_ }

/-- R279: the L2 of die `d` writes its dirty bytes of the lines of `l` back, which then perform at module scope. -/
def State.cleanLines (s : State) (d : Nat) (l : List Nat) : State :=
  let dirty := (s.die d).l2.filter fun (a, _) => l.any fun b => decide (a / 64 = b / 64)
  if dirty.isEmpty then s else (s.writeBack d dirty).writeModule dirty (some d)

/-- R278: whether a committed store has performed at a scope. -/
def PStore.performedAt (p : PStore) (sc : Scope) : Bool :=
  match sc with
  | .core => true
  | .yard | .die => decide (p.level = .die)
  | .module | .system => false

/-- Two stores that share a byte. -/
def PStore.meets (p : PStore) (l : List (Nat × Byte)) : Bool := p.bytes.any fun x => l.any fun y => decide (x.1 = y.1)

/-- R334: a store that writes a poisoned sector only in part is reported to the die's event queue and in its card's report. -/
def State.storePoison (s : State) (k : Nat) (p : PStore) : State :=
  match p.bytes.find? fun x => (clearSectors s.poison (p.bytes.map Prod.fst)).contains (x.1 / 64) with
  | none => s
  | some x =>
    if p.level = .die then s
    else (s.event (dieOf k) 5 (some (physSource x.1)) (some p.va) none).modCard p.card fun c => { c with memerr := true }

/-- R278, R334: a committed store of core `k` performs at the die, or at the module when `wide` or no L2 may hold it; it is the
core's until its write-back is done. -/
def State.performStore (s : State) (k : Nat) (p : PStore) (wide : Bool) : State :=
  let s := s.storePoison k p
  if wide || p.direct then
    let s := if p.level = .core then s.writeModule p.bytes (some (dieOf k))
      else s.cleanLines (dieOf k) ((p.bytes.map Prod.fst).filter fun a => ((s.die (dieOf k)).dirty a).isSome)
    s.modCore k fun q => { q with stores := q.stores.filter fun x => !decide (x.ord = p.ord) }
  else if p.level = .die then s
  else
    let s := s.modCore k fun q =>
      { q with stores := q.stores.map fun x => if x.ord = p.ord then { x with level := .die } else x }
    s.writeDie (dieOf k) p.bytes

/-- R138: a committed store of context `c` that a fence orders before its next global access. -/
def Core.fenced (q : Core) (c : Nat) : Bool :=
  q.stores.any fun p => decide (p.c = c) && (match p.need with | some sc => !p.performedAt sc | none => false)

/-- R281: the stores that a test picks, and the older ones that share a byte with one of them, the oldest first. -/
def pickStores (l : List PStore) (pick : PStore → Bool) : List PStore :=
  l.foldr (fun p acc => if pick p || acc.any (fun q => p.meets q.bytes) then p :: acc else acc) []

/-- Performs the committed stores of a core that a test picks, same bytes in issue order (R281) (DEDUCED, log entry 41). -/
def State.performWhere (s : State) (k : Nat) (wide : Bool) (pick : PStore → Bool) : State :=
  (pickStores (s.core k).stores pick).foldl (fun s p => s.performStore k p wide) s

/-! ### Tables and the Till (R234, R329, R330) -/

def descValid (e : BitVec 256) : Bool := e.getLsbD 10
def descD (e : BitVec 256) : Nat := (e.extractLsb' 0 10).toNat + 1
def descFmt (e : BitVec 256) : BitVec 4 := e.extractLsb' 11 4
def descNsr (e : BitVec 256) : Nat := (e.extractLsb' 15 2).toNat
def descNss (e : BitVec 256) : Nat := (e.extractLsb' 17 3).toNat
def descThresh (e : BitVec 256) : Nat := (e.extractLsb' 32 32).toNat
def descHome (e : BitVec 256) : Nat := (e.extractLsb' 64 52).toNat
def descRows (e : BitVec 256) : Nat := (e.extractLsb' 128 40).toNat
def descState (e : BitVec 256) : Nat := (e.extractLsb' 192 52).toNat

/-- A size rounded up to a multiple of 64. -/
def up64 (n : Nat) : Nat := (n + 63) / 64 * 64

/-- R235: RSZ. -/
def descRsz (e : BitVec 256) : Nat :=
  match Fmt.ofCode (descFmt e) with
  | some .int4 => up64 (4 + (descD e + 1) / 2)
  | some .int8 => up64 (4 + descD e)
  | some .e4m3 | some .e5m2 => up64 (descD e)
  | some .bf16 => up64 (2 * descD e)
  | _ => up64 (4 * descD e)
/-- R235: SSZ. -/
def descSsz (e : BitVec 256) : Nat := up64 (descNsr e * descD e * 4 + descNss e * 4)

def tillEn (t : BitVec 192) : Bool := t.getLsbD 0
def tillDecay (t : BitVec 192) : Nat := (t.extractLsb' 40 32).toNat
def tillSets (t : BitVec 192) : Nat := (t.extractLsb' 72 24).toNat
def tillBase (t : BitVec 192) : Nat := (t.extractLsb' 96 32).toNat
def tillRbmap (t : BitVec 192) : Nat := (t.extractLsb' 140 52).toNat

def Vault.desc (v : Vault) (slot : Nat) : BitVec 256 := Tab.get 0 v.registry slot
def Vault.tillEntry (v : Vault) (slot : Nat) : BitVec 192 := Tab.get 0 v.till slot

/-- R326: the multipliers A_j. -/
def sketchA (j : Nat) : Nat :=
  if j = 0 then 0x8F1BC5E32D97A4C3 else if j = 1 then 0xB3E57A19C6D208F5
  else if j = 2 then 0xD14C92A7E35B6F1D else 0xE7A30C5F91B8D4A9

/-- R330: the set of a row. -/
def tillSet (t : BitVec 192) (row : Nat) : Nat := bits (row * sketchA 0) 63 32 % tillSets t
/-- The place of way `w` of a row's set among a Vault's ways. -/
def wayKey (slot set w : Nat) : Nat := slot * 2 ^ 27 + set * 8 + w
def Vault.way (v : Vault) (slot set w : Nat) : Option Nat := Tab.get none v.ways (wayKey slot set w)

/-- The way that holds a row. -/
def Vault.residentWay (v : Vault) (slot row : Nat) : Option Nat :=
  let t := v.tillEntry slot
  if tillEn t && decide (tillSets t ≠ 0) then
    (List.range 8).find? fun w => decide (v.way slot (tillSet t row) w = some row)
  else none

/-- R321, R330: the physical byte where way `w` of a set begins. -/
def State.wayAddr (s : State) (v : Vault) (slot set w : Nat) : Nat :=
  let e := v.desc slot
  let t := v.tillEntry slot
  hbmAddr (set % 8)
    (Config.stackBytes - s.carveGB * Config.gigabyte + tillBase t * 65536 + (set / 8 * 8 + w) * (descRsz e + descSsz e))

/-- The table row, and the offset from its slot's start, of a byte at virtual address `va`: the row in the home region, or
its state record. -/
def descHit (e : BitVec 256) (va : Nat) : Option (Nat × Nat) :=
  if descValid e && decide (descHome e ≤ va) && decide (va < descHome e + descRows e * descRsz e) then
    some ((va - descHome e) / descRsz e, (va - descHome e) % descRsz e)
  else if descValid e && decide (descSsz e ≠ 0) && decide (descState e ≤ va) &&
      decide (va < descState e + descRows e * descSsz e) then
    some ((va - descState e) / descSsz e, descRsz e + (va - descState e) % descSsz e)
  else none

/-- The Vault, slot, row and offset of a byte of a table region. -/
def State.tableHit (s : State) (va : Nat) : Option (Nat × Nat × Nat × Nat) :=
  s.vaults.findSome? fun (v, x) =>
    x.registry.findSome? fun (slot, e) => (descHit e va).map fun (row, off) => (v, slot, row, off)

/-- A 64 KiB page of virtual addresses that meets a registered table's region. -/
def State.tablePage (s : State) (va : Nat) : Bool :=
  let lo := va / 65536 * 65536
  let meets (b n : Nat) : Bool := decide (b < lo + 65536) && decide (lo < b + n)
  s.vaults.any fun (_, x) => x.registry.any fun (_, e) =>
    descValid e && (meets (descHome e) (descRows e * descRsz e) ||
      (decide (descSsz e ≠ 0) && meets (descState e) (descRows e * descSsz e)))

/-- R331: the authoritative copy of a byte whose home place is `pa`. -/
def State.authoritative (s : State) (va pa : Nat) : Nat :=
  match s.tableHit va with
  | none => pa
  | some (v, slot, row, off) =>
    let x := s.vault v
    match x.residentWay slot row with
    | none => pa
    | some w => s.wayAddr x slot (tillSet (x.tillEntry slot) row) w + off

/-- R331: a move of the byte's row is in progress; accesses wait. -/
def State.rowMoving (s : State) (va : Nat) : Bool :=
  match s.tableHit va with
  | none => false
  | some (v, slot, row, _) => (s.vault v).moves.any fun m => decide (m.table.toNat % 8192 = slot) && decide (m.row = row)

/-! ### Channels that row units use (R322, R323) -/

/-- R322, R330: the channel of a physical byte: of a Vault, or the group of a stack that the unit of the row's set serves. -/
def physChan (a : Nat) (set : Nat) : Option ChanId :=
  if a < 2 ^ 39 then some (.stack (a / 2 ^ 36) (set / 8 % 8))
  else if a < 2 ^ 52 then some (.vault ((a - 2 ^ 39) / 2 ^ 38) (a / 4096 % 16))
  else none

/-- The number of a channel. -/
def chanKey : ChanId → Nat
  | .vault v ch => 16 * v + ch
  | .stack st g => 128 + 8 * st + g
def State.chan (s : State) (c : ChanId) : ChanSvc := Tab.get {} s.chansvc (chanKey c)
def State.setChan (s : State) (c : ChanId) (x : ChanSvc) : State := { s with chansvc := Tab.put s.chansvc (chanKey c) x }
/-- The core cycle. -/
def State.now (s : State) : Nat := s.timebase.toNat

/-- R323: a unit holds the channel. -/
def State.chanHeld (s : State) (c : ChanId) : Bool := s.units.any fun x => x.2.holds.contains c

/-- R330: the base-die unit that serves a byte of an enabled Till's region. -/
def State.tillGroup (s : State) (a : Nat) : Option Nat :=
  s.vaults.findSome? fun (_, x) => x.till.findSome? fun (slot, t) =>
    let e := x.desc slot
    let base := Config.stackBytes - s.carveGB * Config.gigabyte + tillBase t * 65536
    let sets := 8 * (descRsz e + descSsz e)
    if tillEn t && decide (base ≤ a % 2 ^ 36) && decide (a % 2 ^ 36 < base + tillSets t / 8 * sets) then
      some ((a % 2 ^ 36 - base) / sets % 8)
    else none

/-- R321, R322, R330: the channel of a physical byte: a Vault's, or the pseudo-channel group of a stack, each of the eight
base-die units serving eight neighbouring pseudo-channels of a frame's blocks (DEDUCED, log entry 27). -/
def State.channelOf (s : State) (a : Nat) : Option ChanId :=
  if a < 2 ^ 39 then some (.stack (a / 2 ^ 36) ((s.tillGroup a).getD (a / 2048 % 8))) else physChan a 0

/-- R323, R324: the channel for which an ordinary request for one of the bytes waits, a row unit holding it (DEDUCED, log
entry 27). -/
def State.rowHeld (s : State) (l : List Nat) : Option ChanId :=
  if s.units.any fun x => !x.2.holds.isEmpty then
    ((l.map (· / 64)).eraseDups).findSome? fun u => (s.channelOf (64 * u)).filter s.chanHeld
  else none

/-! ### Translation (R336 to R342) -/

/-- What an access does. -/
inductive Access where
  | read | write | atomic | fetch
  deriving DecidableEq, Repr

/-- What a translation answers; a wait names a domain in RETENTION that it awaits (R379). -/
inductive Trans where
  | ok (pa : Nat) (direct : Bool)
  | fault (c : Cause)
  | wait (dom : Option Await)
  deriving DecidableEq, Repr

/-- The space in which an agent's access translates (R336, R343): the space's word, the tag of its cached entries, and whose
caches serve it: a die's, and a yard's before it for agents of a yard. -/
structure Root where
  word : Dword
  tag : Option (BitVec 16)
  die : Nat
  yard : Option Nat
  deriving DecidableEq, Repr

/-- R337: the space-table dword of an ASID on a die. -/
def State.space (s : State) (d : Nat) (asid : BitVec 16) : Dword := Tab.get 0 (s.die d).spaces asid.toNat

/-- R337: the physical address of the level-0 table, when the space word keeps its rules. -/
def State.rootAddr (s : State) (w : Dword) : Option Nat :=
  if w.getLsbD 0 && decide (w.extractLsb' 1 15 = 0) && decide (w.extractLsb' 52 12 = 0) then
    s.frameBase 0 (w.extractLsb' 16 36).toNat 1
  else none

/-- R338: a table entry, read by physical address past every L2. -/
def State.entryAt (s : State) (a : Nat) : Dword := leDword (s.mem.readList a 8)

def entV (e : Dword) : Bool := e.getLsbD 0
def entLeaf (e : Dword) : Bool := e.getLsbD 1
def entTier (e : Dword) : Nat := (e.extractLsb' 2 2).toNat
def entR (e : Dword) : Bool := e.getLsbD 4
def entW (e : Dword) : Bool := e.getLsbD 5
def entX (e : Dword) : Bool := e.getLsbD 6
def entCow (e : Dword) : Bool := e.getLsbD 7
def entShr (e : Dword) : Bool := e.getLsbD 8
def entMov (e : Dword) : Nat := (e.extractLsb' 9 2).toNat
def entRun (e : Dword) : Bool := e.getLsbD 11
def entCa (e : Dword) : Nat := (e.extractLsb' 12 2).toNat
def entU (e : Dword) : Bool := e.getLsbD 14
def entFrame (e : Dword) : Nat := (e.extractLsb' 16 36).toNat
/-- An entry with another FRAME. -/
def entSetFrame (e : Dword) (f : Nat) : Dword :=
  (e &&& ~~~(0x000FFFFFFFFF0000 : Dword)) ||| ((BitVec.ofNat 36 f).setWidth 64 <<< 16)

/-- R339: the next table that a pointer entry names. -/
def State.pointer (s : State) (e : Dword) : Option Nat :=
  if entV e && !entLeaf e && decide (entTier e = 0) && decide (e &&& 0xFFF000000000FFF0 = 0) then
    s.frameBase 0 (entFrame e) 1
  else none

/-- R379: the domain in RETENTION that holds a byte. -/
def State.awaited (s : State) (pa : Nat) : Option Await :=
  match physDomain pa with
  | some i => if (s.domain i).power = .retention then some (.domain i) else none
  | none => none

/-- R323, R379: what an ordinary access to memory bytes waits for. -/
def State.busyFor (s : State) (l : List Nat) : Option Await := (l.findSome? s.awaited).or ((s.rowHeld l).map .channel)

/-- What an access to `n` bytes of one page waits for. -/
def State.pageWait (s : State) (b n : Nat) : Option Await :=
  (s.awaited b).or ((s.rowHeld ((List.range ((n + 63) / 64)).map fun i => b + 64 * i)).map .channel)

/-- What the stores of a core that a test picks wait for, where they perform in memory. -/
def State.storesWait (s : State) (k : Nat) (wide : Bool) (pick : PStore → Bool) : Option Await :=
  s.busyFor (((pickStores (s.core k).stores pick).filter fun p => wide || p.direct).flatMap fun p => p.bytes.map Prod.fst)

/-- What the lines of die `d` in which some bytes lie wait for, to be written back. -/
def State.linesWait (s : State) (d : Nat) (l : List Nat) : Option Await :=
  s.busyFor (((s.die d).l2.filter fun (a, _) => l.any fun b => decide (a / 64 = b / 64)).map Prod.fst)

/-- A leaf that a walk found: its entry, the entry's physical address, whether it maps 256 MiB. -/
structure Leaf where
  ent : Dword
  at_ : Nat
  big : Bool
  deriving DecidableEq, Repr

/-- What a walk finds: a leaf, an entry that breaks V, LEAF or a pointer rule, or a table in RETENTION that it awaits. -/
inductive Look where
  | leaf (l : Leaf)
  | bad
  | wait (dom : Await)
  deriving DecidableEq, Repr

def Look.leaf? : Look → Option Leaf
  | .leaf l => some l
  | _ => none

/-- R338, R323, R379: an entry of a walk: a walk cache's copy while it is held, or as it lies in memory, whose domain must be
awake and whose channel in no row unit's hold. -/
def State.entryFor (s : State) (copy : Option Dword) (a : Nat) (go : Dword → Look) : Look :=
  let read : Look := match s.busyFor [a] with | some i => .wait i | none => go (s.entryAt a)
  match copy with
  | some e => if e = s.entryAt a ∨ Config.freeHeld (2 * s.freeCtr + 1) then go e else read
  | none => read

/-- R338: the walk from the level-0 table; `up` gives the walk cache's entry of a level and index (DEDUCED, log entry 18). -/
def State.walk (s : State) (up : Nat → Nat → Option Dword) (root va : Nat) : Look :=
  s.entryFor (up 0 (bits va 51 40)) (root + 8 * bits va 51 40) fun e0 =>
    match s.pointer e0 with
    | none => .bad
    | some t1 =>
      let a1 := t1 + 8 * bits va 39 28
      s.entryFor (up 1 (bits va 51 28)) a1 fun e1 =>
        if entV e1 && entLeaf e1 then .leaf ⟨e1, a1, true⟩
        else
          match s.pointer e1 with
          | none => .bad
          | some t2 =>
            let a2 := t2 + 8 * bits va 27 16
            s.entryFor none a2 fun e2 => if entV e2 && entLeaf e2 then .leaf ⟨e2, a2, false⟩ else .bad

/-- The tables as they lie in memory, as the page service and the Dispatcher read them. -/
def noWalkCache (_ _ : Nat) : Option Dword := none

/-- R341: the 32 leaves at the entry's run agree as a run must. -/
def State.runFormed (s : State) (a : Nat) : Bool :=
  let first := a - a % 256
  let e0 := s.entryAt first
  decide (entFrame e0 % 32 = 0) &&
    (List.range 32).all fun i =>
      let e := s.entryAt (first + 8 * i)
      entRun e && decide (e = entSetFrame e0 (entFrame e0 + i))

/-- R341: the entry that a level-2 leaf translates by: of a malformed run, its own or the run's first one moved on
(DEDUCED, log entry 18). -/
def State.runEntry (s : State) (l : Leaf) : Dword :=
  if l.big || !entRun l.ent || s.runFormed l.at_ then l.ent
  else if Config.freeRunOwn (s.freeCtr * 2 ^ 64 + l.at_) then l.ent
  else
    let e0 := s.entryAt (l.at_ - l.at_ % 256)
    entSetFrame e0 (entFrame e0 + l.at_ % 256 / 8)

/-- R339, R340, R342 order 1, R376: a leaf entry that keeps its rules (DEDUCED, log entry 18). -/
def State.leafOk (s : State) (e : Dword) (big : Bool) : Bool :=
  entV e && entLeaf e && !e.getLsbD 15 && decide (entCa e < 2) && decide (entMov e < 3) &&
    !(big && (entCow e || entShr e || entRun e)) &&
    (decide (entTier e = 3) || ((s.frameBase (entTier e) (entFrame e) (if big then 4096 else 1)).isSome &&
      !(big && decide (entFrame e % 4096 ≠ 0)))) &&
    !(entCow e && !s.accepted 6) && !(decide (entTier e = 2) && !s.accepted 7)

/-! ### Translation caches (R343) -/

/-- R343: the copy maps a virtual address of the space. -/
def TlbEnt.maps (e : TlbEnt) (q : Root) (va : Nat) : Bool :=
  decide (e.tag = q.tag) && decide (va / 65536 / e.pages = e.region)

/-- The leaf of one page that a copy gives. -/
def TlbEnt.leaf (e : TlbEnt) (va : Nat) : Leaf :=
  { ent := if e.pages = 32 then entSetFrame e.ent (entFrame e.ent + va / 65536 % 32) else e.ent
    at_ := if e.pages = 32 then e.at_ + 8 * (va / 65536 % 32) else e.at_
    big := decide (e.pages = 4096) }

def State.yardCopies (s : State) (y : Option Nat) : List TlbEnt :=
  match y with
  | some y => Tab.get [] s.yardTlb y
  | none => []

/-- R343: the walk cache's copy of an upper-level entry. -/
def State.upper (s : State) (q : Root) (level idx : Nat) : Option Dword :=
  ((s.die q.die).walks.find? fun e => decide (e.tag = q.tag) && decide (e.level = level) && decide (e.idx = idx)).map (·.ent)

/-- What the walk of an access finds, runs resolved (R341). -/
def State.walked (s : State) (q : Root) (root va : Nat) : Look :=
  match s.walk (s.upper q) root va with
  | .leaf l => .leaf { l with ent := s.runEntry l }
  | x => x

/-- R343: the cached copy that serves an access: of the yard, else of the die. One that agrees with what a walk finds
decides nothing; another one may have been replaced (DESIGN CHOICE, log entry 8). -/
def State.cached (s : State) (q : Root) (root va : Nat) : Option TlbEnt :=
  (((s.yardCopies q.yard).find? fun e => e.maps q va).or ((s.die q.die).tlb.find? fun e => e.maps q va)).filter fun e =>
    decide (s.walked q root va = .leaf (e.leaf va)) || Config.freeHeld (2 * s.freeCtr)

/-- The leaf by which an access translates: a cached copy, or what the walk finds. -/
def State.look (s : State) (q : Root) (root va : Nat) : Look :=
  match s.cached q root va with
  | some e => .leaf (e.leaf va)
  | none => s.walked q root va

/-- A cache of `cap` entries with a new one, for which a full cache gives one up. -/
def cacheIn {α : Type} [DecidableEq α] (cap occ : Nat) (l : List α) (x : α) : List α :=
  if l.contains x then l
  else if l.length < cap then x :: l
  else x :: l.eraseIdx (Config.freeWay occ % cap)

/-- R341, R343: the copy of a leaf that a walk leaves in the caches. -/
def State.copyOf (s : State) (q : Root) (va : Nat) (l : Leaf) : TlbEnt :=
  if l.big then ⟨q.tag, 4096, va / 2 ^ 28, l.ent, l.at_⟩
  else if entRun l.ent && s.runFormed l.at_ && Config.freeRun s.freeCtr then
    ⟨q.tag, 32, va / 2 ^ 21, s.entryAt (l.at_ - l.at_ % 256), l.at_ - l.at_ % 256⟩
  else ⟨q.tag, 1, va / 2 ^ 16, s.runEntry l, l.at_⟩

/-- R343: a copy enters the caches that serve a space. -/
def State.keepCopy (s : State) (q : Root) (e : TlbEnt) : State :=
  let s := s.modDie q.die fun x => { x with tlb := cacheIn Config.dieTlb s.freeCtr x.tlb e }
  match q.yard with
  | some y => { s with yardTlb := Tab.put s.yardTlb y (cacheIn Config.yardTlb s.freeCtr (Tab.get [] s.yardTlb y) e) }
  | none => s

/-- R343: the copies in the caches that serve a space, but for those that a test picks. -/
def State.forget (s : State) (q : Root) (gone : TlbEnt → Bool) : State :=
  let s := s.modDie q.die fun x => { x with tlb := x.tlb.filter fun e => !gone e }
  match q.yard with
  | some y => { s with yardTlb := Tab.put s.yardTlb y ((Tab.get [] s.yardTlb y).filter fun e => !gone e) }
  | none => s

/-- R343: an upper-level entry enters the die's walk cache in place of an older copy. -/
def State.keepUpper (s : State) (q : Root) (level idx : Nat) (e : Dword) : State :=
  s.modDie q.die fun x =>
    { x with
      walks := cacheIn Config.walkCache s.freeCtr
        (x.walks.filter fun w => !(decide (w.tag = q.tag) && decide (w.level = level) && decide (w.idx = idx) && decide (w.ent ≠ e)))
        ⟨q.tag, level, idx, e⟩ }

/-- The upper-level entry that a walk took. -/
def State.took (s : State) (copy : Option Dword) (a : Nat) : Dword :=
  match copy with
  | some e => if Config.freeHeld (2 * s.freeCtr + 1) then e else s.entryAt a
  | none => s.entryAt a

/-- R343: the upper-level entries that a walk passes enter the die's walk cache. -/
def State.keepWalk (s : State) (q : Root) (root va : Nat) : State :=
  let i0 := bits va 51 40
  let i1 := bits va 51 28
  let e0 := s.took (s.upper q 0 i0) (root + 8 * i0)
  match s.pointer e0 with
  | none => s
  | some t1 =>
    let e1 := s.took (s.upper q 1 i1) (t1 + 8 * bits va 39 28)
    let s' := s.keepUpper q 0 i0 e0
    if entLeaf e1 then s' else s'.keepUpper q 1 i1 e1

/-- R343: a copy of the entry may be held. -/
def entCacheable (e : Dword) : Bool := entV e && decide (entMov e = 0) && decide (entTier e ≠ 3)

/-- R343: what the translation of an access leaves in the caches: copies of entries with V = 1 and MOV = 0b00 of pages that
are present. -/
def State.fill (s : State) (q : Root) (va : Nat) : State :=
  match s.rootAddr q.word with
  | none => s
  | some root =>
    match s.cached q root va with
    | some e => s.keepCopy q e
    | none =>
      match s.walk (s.upper q) root va with
      | .leaf l =>
        let c := s.copyOf q va l
        if entCacheable l.ent && entCacheable c.ent then
          (((s.keepWalk q root va).forget q fun e => e.maps q va).keepCopy q c).fresh
        else s
      | _ => s

/-- The pages of an access of `n` bytes. -/
def State.fillSpan (s : State) (q : Root) (va : Dword) (n : Nat) : State :=
  (List.range ((va.toNat % 65536 + n + 65535) / 65536)).foldl (fun s i => s.fill q (va.toNat + 65536 * i)) s

/-- R344: every translation cache drops the copies that a test picks. -/
def State.dropCopies (s : State) (gone : TlbEnt → Bool) (goneUp : WalkEnt → Bool) : State :=
  let drop (x : Die) : Die :=
    { x with tlb := x.tlb.filter fun e => !gone e, walks := x.walks.filter fun e => !goneUp e }
  let s := (s.modDie 0 drop).modDie 1 drop
  { s with yardTlb := s.yardTlb.map fun (y, l) => (y, l.filter fun e => !gone e) }

/-- The copy comes from the entry at place `a`, or from a run that holds it. -/
def TlbEnt.cameFrom (e : TlbEnt) (a : Nat) : Bool :=
  decide (e.at_ = a) || (entRun e.ent && decide (e.at_ / 256 = a / 256))

/-- R344: the caches drop what they hold of the entry at place `a`. -/
def State.dropEntry (s : State) (a : Nat) : State := s.dropCopies (fun e => e.cameFrom a) fun _ => false

/-! ### Translation -/

/-- The state with nothing that an access would wait for: what memory holds does not depend on it. -/
def State.awake (s : State) : State := { s with domains := [], units := [] }

/-- R331, R345: a frame that holds a page of a Vault-managed table region: its frame word says so, or the page of `va` lies
in a registered table's region and the module space maps it there (R336) (DEDUCED, log entry 45). -/
def State.tableFrame (s : State) (va pa : Nat) : Bool :=
  (s.frame (frameOf pa)).table ||
    (s.tablePage va &&
      (match s.rootAddr (s.space 0 0) with
        | none => false
        | some root =>
          match s.awake.walk noWalkCache root va with
          | .leaf l =>
            (match s.frameBase (entTier l.ent) (entFrame l.ent) (if l.big then 4096 else 1) with
              | some b => decide (frameOf (b + if l.big then va % 2 ^ 28 else va % 2 ^ 16) = frameOf pa)
              | none => false)
          | _ => false))

/-- R342: the checks in their order. -/
def State.translate (s : State) (q : Root) (sup : Bool) (acc : Access) (va : Dword) : Trans :=
  let v := va.toNat
  if v / 2 ^ 52 ≠ 0 then .fault .translationFault
  else
    match s.rootAddr q.word with
    | none => .fault .translationFault
    | some root =>
      match s.look q root v with
      | .bad => .fault .translationFault
      | .wait i => .wait (some i)
      | .leaf leaf =>
        let e := leaf.ent
        let off := if leaf.big then v % 2 ^ 28 else v % 2 ^ 16
        let base := s.frameBase (entTier e) (entFrame e) (if leaf.big then 4096 else 1)
        if !s.leafOk e leaf.big then .fault .translationFault
        else if entCow e && (match base with | some b => s.tableFrame v (b + off) | none => false) then
          .fault .translationFault
        else if !sup && !entU e then .fault .pagePermission
        else if (match acc with
            | .read => !entR e
            | .write => !(entW e || entCow e)
            | .atomic => !entR e || !(entW e || entCow e)
            | .fetch => !entX e) then .fault .pagePermission
        else if entTier e = 3 ∨ entMov e = 2 then .fault .pageAbsent
        else if entMov e = 1 then .wait none
        else if (acc = .write ∨ acc = .atomic) ∧ entCow e then .fault .cowWrite
        else
          match base with
          | none => .fault .translationFault
          | some b => .ok (b + off) (decide (entCa e = 1) || s.tableFrame v (b + off))

/-- What an access of several bytes answers: the physical byte of each, and whether any must pass no L2. -/
inductive Span where
  | ok (l : List Nat) (direct : Bool)
  | fault (c : Cause) (va : Dword)
  /-- It waits: for a domain or a channel, or for a move of its page or row. -/
  | wait (dom : Option Await)
  deriving DecidableEq, Repr

/-- The physical bytes of a piece within one page. -/
def State.pieceAddrs (s : State) (va pa n : Nat) : List Nat :=
  if s.tableFrame va pa then (List.range n).map fun i => s.authoritative (va + i) (pa + i)
  else (List.range n).map (pa + ·)

/-- R379, R331: the domain in RETENTION that a piece awaits: of its frame, or of the copies of a table's rows. -/
def State.awaitedPiece (s : State) (va pa n : Nat) : Option Await :=
  if s.tableFrame va pa then (s.pieceAddrs va pa n).findSome? s.awaited else s.awaited pa

/-- The memory that holds a piece is in RETENTION (R379), or one of its rows moves (R331). -/
def State.held (s : State) (va pa n : Nat) : Bool :=
  (s.awaitedPiece va pa n).isSome ||
    (s.tableFrame va pa && (List.range n).any fun i => s.rowMoving (va + i))

/-- R123: translates `n` bytes page by page; a fault on any page is the fault of the whole access (DEDUCED, log entry
18). -/
def State.span (s : State) (w : Root) (sup : Bool) (acc : Access) (va : Dword) : Nat → Nat → Span
  | 0, _ => .ok [] false
  | fuel + 1, n =>
    if n = 0 then .ok [] false
    else
      let m := min n (65536 - va.toNat % 65536)
      match s.translate w sup acc va with
      | .fault c => .fault c va
      | .wait i =>
        (match State.span s w sup acc (va + BitVec.ofNat 64 m) fuel (n - m) with
          | .fault c a => .fault c a
          | _ => .wait i)
      | .ok pa d =>
        match State.span s w sup acc (va + BitVec.ofNat 64 m) fuel (n - m) with
        | .fault c a => .fault c a
        | .wait i => .wait i
        | .ok l d' =>
          if s.held va.toNat pa m then .wait (s.awaitedPiece va.toNat pa m)
          else .ok (s.pieceAddrs va.toNat pa m ++ l) (d || d')

/-- R334: a poisoned sector, or line of its die's L2, among the bytes that an agent reads. -/
def State.poisonedAny (s : State) (v : View) (l : List Nat) : Bool :=
  l.any fun a => s.poison.contains (a / 64) || (match v.dieNo with | some d => (s.die d).l2poison.contains (a / 64) | none => false)

/-- The space of an address-space identifier for an agent of a die, or of a yard of it. -/
def State.asidRoot (s : State) (d : Nat) (yard : Option Nat) (asid : BitVec 16) : Root :=
  { word := s.space d asid, tag := some asid, die := d, yard }

/-- The space in which a context accesses (R298, R336). -/
def State.ctxRoot (s : State) (k c : Nat) : Root :=
  if (s.ctx k c).inHandler then { word := (s.die (dieOf k)).supRoot, tag := none, die := dieOf k, yard := some (k / 4) }
  else s.asidRoot (dieOf k) (some (k / 4)) (s.cardOf k c).asid

/-- R323: an ordinary access that has its bytes waits where one of them, of which the L2 of die `d` holds no dirty copy, lies in a
channel that a row unit holds. -/
def State.inService (s : State) (d : Nat) (x : Span) : Span :=
  match x with
  | .ok l _ =>
    (match s.rowHeld (l.filter fun a => ((s.die d).dirty a).isNone) with
      | some c => .wait (some (.channel c))
      | none => x)
  | _ => x

/-- A span of at most 16 pages (DEDUCED, log entry 30). A store does not wait for its channel when it issues. -/
def State.ctxSpan (s : State) (k c : Nat) (acc : Access) (va : Dword) (n : Nat) : Span :=
  let x := s.span (s.ctxRoot k c) (s.ctx k c).inHandler acc va 3 n
  if acc = .write then x else s.inService (dieOf k) x

/-- What a waiting access asks for: event 9 for a domain in RETENTION, once per domain (R379); a turn of a channel in row
service, as an ordinary request pending there (R323). -/
def State.awaitDomain (s : State) (d : Nat) (dom : Option Await) : State :=
  match dom with
  | none => s
  | some (.channel c) =>
    let x := s.chan c
    if x.pending.isEmpty then s.setChan c { x with pending := [s.now] } else s
  | some (.domain i) =>
    let x := s.domain i
    if x.event9 then s
    else (s.setDomain i { x with event9 := true }).event d 9 (some (if i < 32 then i - 24 else i - 32)) none none

/-- What must wait leaves the rest to a later attempt. -/
def State.unlessBusy (s : State) (d : Nat) (w : Option Await) (go : State) : State :=
  match w with
  | some _ => s.awaitDomain d w
  | none => go

/-! ### Engine access in a space (R336) -/

/-- The yard of an agent: of a core's, none of a die's (R343). -/
def View.yard? : View → Option Nat
  | .core k => some (k / 4)
  | _ => none

/-- Translates `n` bytes of an engine's access in an ASID at user level, as an agent of `v` on die `d` (DEDUCED, log entry 30). -/
def State.engSpan (s : State) (v : View) (d : Nat) (asid : BitVec 16) (acc : Access) (va : Dword) (n : Nat) : Span :=
  s.inService d (s.span (s.asidRoot d v.yard? asid) false acc va (n / 65536 + 2) n)

/-- R343: what that access leaves in the translation caches. -/
def State.engFill (s : State) (v : View) (d : Nat) (asid : BitVec 16) (va : Dword) (n : Nat) : State :=
  s.fillSpan (s.asidRoot d v.yard? asid) va n

/-- ASID 0, the module space (R336), in which device structures lie: read and written at supervisor level (DEDUCED,
log entry 30). -/
def State.devSpan (s : State) (d : Nat) (asid : BitVec 16) (acc : Access) (va : Dword) (n : Nat) : Span :=
  s.inService d (s.span (s.asidRoot d none asid) true acc va (n / 65536 + 2) n)

/-- The same for a Vault's own accesses, which are row service (R323). -/
def State.rowSpan (s : State) (d : Nat) (acc : Access) (va : Dword) (n : Nat) : Span :=
  s.span (s.asidRoot d none 0) true acc va (n / 65536 + 2) n

/-- R343: what a Vault's access in the module space leaves in the die's cache. -/
def State.devFill (s : State) (d : Nat) (va : Dword) (n : Nat) : State := s.fillSpan (s.asidRoot d none 0) va n

/-- The addresses of a successful span. -/
def Span.addrs? : Span → Option (List Nat)
  | .ok l _ => some l
  | _ => none

end Sys2Proof.Machine
end

