-- ==== Sys2Proof/Machine/Bundle.lean ====
section
/-! DEFINITION. A bundle: what its slots see and leave, fetch and header checks (R79 to R86), the order at its boundary
(R305), its commit, and the fill bundles of yields, exits and checkpoints. -/

namespace Sys2Proof.Machine

/-- A bundle while its slots execute in commit order: the module as the earlier slots left it, and what takes effect
at the commit. -/
structure Bx where
  s : State
  k : Nat
  c : Nat
  pc : Dword
  slot : Nat := 0
  /-- FPCR as it stood when the bundle issued (R57). -/
  fpcr : Word := 0
  /-- Every other slot of the bundle is all zero (R140). -/
  alone : Bool := true
  /-- The parked wait passed its limit: its `y` wait counts as unsatisfied (R299). -/
  late : Bool := false
  flights : List Flight := []
  /-- Typed-buffer stores, in commit order (R44). -/
  ts : List (Buf × Nat × List Byte) := []
  next : Option Dword := none
  exit : Option (BitVec 11) := none
  eret : Bool := false
  /-- A loop of count 0 skips its body (R130). -/
  skip : Option (BitVec 3) := none
  /-- A trap that the slot takes after it has committed (R139). -/
  trap : Option (Cause × Dword) := none
  /-- Window-record fields written by earlier slots (R84). -/
  wsets : List (BitVec 2 × BitVec 4) := []
  /-- The Dray channels and DSHC as the bundle issued (R219). -/
  chans : Tab Chan := []
  dshc : Dword := 0
  /-- Stores of the core from this one on in its commit order belong to this bundle. -/
  ord0 : Nat := 0
  deriving DecidableEq, Repr

/-- What a slot does: it executes, faults before any effect, or stalls its bundle. -/
inductive SlotRes where
  | done (b : Bx)
  | fault (c : Cause) (tval : Dword)
  /-- `tval` is the trap value of a Sync-Timeout, `dom` a domain that the slot awaits (R379). -/
  | stall (h : Hold) (tval : Dword) (dom : Option Await)
  deriving DecidableEq, Repr

/-- What a slot instruction means. -/
abbrev SlotFn := Bx → SlotRes

/-! ### What a slot reads, and the results it leaves -/

def Bx.ctx (b : Bx) : Ctx := b.s.ctx b.k b.c
def Bx.core (b : Bx) : Core := b.s.core b.k
def Bx.die (b : Bx) : Nat := dieOf b.k
def Bx.card (b : Bx) : Card := b.s.cardOf b.k b.c
def Bx.x (b : Bx) (r : Reg) : Dword := b.ctx.readX r
def Bx.p (b : Bx) (p : PReg) : Bool := b.ctx.readP p
def Bx.modCtx (b : Bx) (f : Ctx → Ctx) : Bx := { b with s := b.s.modCtx b.k b.c f }
def Bx.modCore (b : Bx) (f : Core → Core) : Bx := { b with s := b.s.modCore b.k f }

/-- R39: a result that lands before the bundle `lat` bundles on. -/
def Bx.land (b : Bx) (lat : Nat) (dest : Dest) (val : Val) (flags traps : BitVec 5 := 0) : Bx :=
  { b with flights := b.flights ++ [{ dest, val, r := lat, flags, traps, baddr := b.pc, slot := b.slot, seq := 0 }] }

/-- R112: executes only when the guard has its sense. -/
def Bx.guarded (b : Bx) (g : Guard) (r : SlotRes) : SlotRes := if b.ctx.guard g then r else .done b

/-- R83 order 3. -/
def Bx.need (b : Bx) (bit : Nat) (r : SlotRes) : SlotRes :=
  if b.s.accepted bit then r else .fault .featureNotAccepted (BitVec.ofNat 64 bit)

/-! ### Running the slots -/

/-- How the slots of a bundle ended: all of them, up to a fault, up to a trap after a slot, or stalled at a slot. -/
inductive SlotsEnd where
  | all (b : Bx)
  | fault (b : Bx) (slot : Nat) (c : Cause) (tval : Dword)
  | trapped (b : Bx) (slot : Nat) (c : Cause) (tval : Dword)
  | stall (b : Bx) (slot : Nat) (h : Hold) (tval : Dword) (dom : Option Await)
  deriving DecidableEq, Repr

/-- R82: the slots in commit order; the first fault or stall decides (DEDUCED, log entry 19). -/
def runSlots (b : Bx) : List (Nat × SlotFn) → SlotsEnd
  | [] => .all b
  | (n, f) :: t =>
    match f { b with slot := n } with
    | .fault c v => .fault b n c v
    | .stall h v i => .stall b n h v i
    | .done b' =>
      match b'.trap with
      | some (c, v) => .trapped { b' with trap := none } n c v
      | none => runSlots b' t

/-! ### Header and slots of a bundle (R79, R80) -/

/-- What the header says. -/
structure Head where
  kind : Nat := 0
  ckix : BitVec 8 := 0
  lend : Option (BitVec 3) := none
  deriving DecidableEq, Repr

/-- R80, R82 item 1, R109, R298: the header checks, in order (DEDUCED, log entry 16). -/
def headOf (h : BitVec 16) (inHandler : Bool) (ckcnt : Nat) : Except Cause Head :=
  let kind := (fld h 0 2).toNat
  let lend := h.getLsbD 2
  let llv : BitVec 3 := fld h 3 3
  let ckix : BitVec 8 := fld h 6 8
  if kind = 3 then .error .bundleKind
  else if lend && decide (6 ≤ llv.toNat) then .error .illegalEncoding
  else if decide (fld h 14 2 ≠ 0) || (decide (kind ≠ 2) && decide (ckix ≠ 0)) || (!lend && decide (llv ≠ 0)) then
    .error .reservedField
  else if kind = 2 ∧ ckcnt ≤ ckix.toNat then .error .illegalEncoding
  else if inHandler && (decide (kind ≠ 0) || lend) then .error .illegalEncoding
  else .ok { kind, ckix, lend := if lend then some llv else none }

def bundleHead (w : BitVec 256) : BitVec 16 := fld w 0 16
def bundleY (w : BitVec 256) : BitVec 32 := fld w 16 32
def bundleS (w : BitVec 256) : BitVec 48 := fld w 48 48
def bundleV0 (w : BitVec 256) : BitVec 32 := fld w 96 32
def bundleV1 (w : BitVec 256) : BitVec 32 := fld w 128 32
def bundleM (w : BitVec 256) : BitVec 32 := fld w 160 32
def bundleC0 (w : BitVec 256) : BitVec 32 := fld w 192 32
def bundleC1 (w : BitVec 256) : BitVec 32 := fld w 224 32

/-- R79: a slot's word as the decoder of its kind reads it; none for an all-zero slot (R81). A vector syllable takes the
entry of the context's table that it names. -/
def slotWord (w : BitVec 256) (x : Ctx) (slot : Nat) : Option Dec :=
  match slot with
  | 0 => if bundleS w = 0 then none else some (decodeS (bundleS w))
  | 1 => if bundleV0 w = 0 then none else some (decodeV false (bundleV0 w) (x.vcwEntry (fld (bundleV0 w) 23 9)))
  | 2 => if bundleV1 w = 0 then none else some (decodeV true (bundleV1 w) (x.vcwEntry (fld (bundleV1 w) 23 9)))
  | 3 => if bundleM w = 0 then none else some (decodeM (bundleM w))
  | 4 => if bundleC0 w = 0 then none else some (decodeC false (bundleC0 w))
  | 5 => if bundleC1 w = 0 then none else some (decodeC true (bundleC1 w))
  | 6 => if bundleY w = 0 then none else some (decodeY (bundleY w))
  | _ => none

/-- R298: the handler may use only the `s` and `y` slots. -/
def slotBarred (x : Ctx) (slot : Nat) : Bool := x.inHandler && decide (1 ≤ slot) && decide (slot ≤ 5)

/-- R140, R83 order 1: an `eret` beside another slot is Illegal-Encoding, whatever its other fields hold. -/
def eretFirst (w : BitVec 256) (slot : Nat) (f : SlotFn) : SlotFn := fun b =>
  if decide (slot = 0) && decide (fld (bundleS w) 42 6 = 0x22) && decide (fld (bundleS w) 11 5 = 2) && !b.alone then
    .fault .illegalEncoding 0
  else f b

/-- R83, R298: one decoded slot; `fn` gives the meaning of an instruction. -/
def slotStep (fn : Instr → SlotFn) (slot : Nat) (d : Dec) : SlotFn := fun b =>
  if slotBarred b.ctx slot then .fault .illegalEncoding 0
  else
    match d with
    | .error c => .fault c 0
    | .ok i => fn i b

/-- The slots of a bundle from slot `start` on. -/
def slotsFrom (fn : Instr → SlotFn) (w : BitVec 256) (x : Ctx) (start : Nat) : List (Nat × SlotFn) :=
  (List.range 7).filterMap fun n =>
    if n < start then none else (slotWord w x n).map fun d => (n, eretFirst w n (slotStep fn n d))

/-- What a fetch answers. -/
inductive Fetch where
  | ok (w : BitVec 256)
  | fault (c : Cause)
  | wait (dom : Option Await)
  deriving DecidableEq, Repr

/-- R85, R86, R342: fetches the bundle at `pc`. -/
def State.fetch (s : State) (k c : Nat) (pc : Dword) : Fetch :=
  match s.badTarget k c pc with
  | some e => .fault e
  | none =>
    match s.ctxSpan k c .fetch pc 32 with
    | .fault e _ => .fault e
    | .wait i => .wait i
    | .ok l _ => .ok (BitVec.ofNat 256 (leNat (s.viewBytes (.core k) l)))

/-! ### Halting (R306, R309) and leaving -/

/-- R355: the place of a context among its card's placed contexts: cores in ascending position, then contexts. -/
def Card.placeIndex (x : Card) (k c : Nat) : Nat :=
  let cm := ((x.dword 0).extractLsb' 24 4).toNat
  let xm := ((x.dword 0).extractLsb' 12 8).toNat
  let below (m n : Nat) := ((List.range n).filter fun i => m.testBit i).length
  below cm (k % 4) * below xm 8 + below xm c

/-- R355: the save area of a placed context and its size. -/
def Card.saveArea (x : Card) (k c : Nat) : Dword × Nat :=
  let sz := ((x.dword 4).extractLsb' 32 32).toNat
  (x.dword 3 + BitVec.ofNat 64 (x.placeIndex k c * sz), sz)

/-- R313: the bytes of vector and statistics registers in the halt region. -/
def haltBytes (q : Core) : List Byte :=
  ((List.range 64).flatMap fun n => (q.vreg (BitVec.ofNat 6 n)).flatMap fun w => leBytes 4 w.toNat) ++
    ((List.range 16).flatMap fun n => (q.qreg (BitVec.ofNat 4 n)).flatMap fun t =>
      leBytes 4 t.w.toNat ++ leBytes 4 t.mu.toNat ++ leBytes 4 t.m2.toNat)

/-- R313: offset of the halt region in a save area of `sz` bytes. -/
def haltOffset (sz : Nat) : Nat := (sz - 332544) / 64 * 64

/-- R306 step 7: the Save engine writes the vector state of the subject to its halt region. -/
def State.saveHaltRegion (s : State) (k c : Nat) : State :=
  let card := s.cardOf k c
  let (a, sz) := card.saveArea k c
  let l := haltBytes (s.core k)
  match s.devSpan (dieOf k) card.asid .write (a + BitVec.ofNat 64 (haltOffset sz)) l.length with
  | .ok addrs _ => s.writeModule (addrs.zip l)
  | _ => s

/-- R305, R306: a halt takes effect. A stalled bundle is abandoned, results in flight enter the snapshot, and the
subject's vector state is set aside (R309) (DEDUCED, log entry 36). -/
def State.haltNow (s : State) (k c : Nat) : State :=
  let x := s.ctx k c
  let subject := decide (x.st = .running) || decide (x.st = .trapped)
  let s := if subject then s.saveHaltRegion k c else s
  let s := (s.giveBack k c).modCtx k c fun x =>
    { x with
      snapshot := x.snapshot ++ x.flights, flights := []
      haltedFrom := x.st, st := .halted, haltReq := false, owed := decide (x.server = .pageService)
      pc := if x.server = .pageService then x.epcb else (match x.phase with | .scan _ a => a | _ => x.pc)
      start := if x.server = .pageService then x.slotres.toNat else x.start
      parked := false, taken := none, timedOut := false }
  if subject then
    s.modCore k fun q =>
      { q with run := none, hold := none, claims := { c, v := q.v, q := q.q, flags := [], rings := [] } :: q.claims }
  else s

def bitsOf (m n : Nat) : List Nat := (List.range n).filter fun i => m.testBit i

def Card.cmask (x : Card) : Nat := ((x.dword 0).extractLsb' 24 4).toNat
def Card.yard (x : Card) : Nat := ((x.dword 0).extractLsb' 20 4).toNat
def Card.ctxmask (x : Card) : Nat := ((x.dword 0).extractLsb' 12 8).toNat
/-- Cores on which the card is placed. -/
def Card.coresOf (x : Card) : List Nat := (bitsOf x.cmask 4).map fun p => 48 * x.die + 4 * x.yard + p
/-- The placed contexts, in the order of R355. -/
def Card.placed (x : Card) : List (Nat × Nat) := x.coresOf.flatMap fun k => (bitsOf x.ctxmask 8).map fun c => (k, c)
/-- The card's context (k, c) is in the core for the card. -/
def State.holdsCtx (s : State) (n k c : Nat) : Bool :=
  let x := s.ctx k c
  decide (x.card = some n) && !(s.card n).kept.any (fun y => decide (y.1 = k) && decide (y.2.1 = c)) &&
    !(s.card n).saved.contains (k, c)

/-- R315, R364: a card of which a context has been saved is evicted once no context of it is left in a core. -/
def State.evictedIfOut (s : State) (n : Nat) : State :=
  let y := s.card n
  if decide (y.st = .running) && !y.saved.isEmpty && y.placed.all fun (k, c) => !s.holdsCtx n k c then
    s.setCard n { y with st := .evicted, ranFor := y.ranFor + (s.timebase.toNat - y.runSince), admAt := s.timebase.toNat, boost := 0 }
  else s

/-- R141: the context has become IDLE after its exit; its card keeps what it ended with (R366). -/
def State.idleNow (s : State) (k c : Nat) : State :=
  let s := s.modCtx k c fun x =>
    { x with
      st := .idle, faultExit := x.inHandler, server := .none, snapshot := [], flights := [], phase := .normal, split := none,
      ckFill := false, start := 0 }
  let x := s.ctx k c
  let s := match x.card with
    | some n => (s.modCard n fun y => { y with kept := y.kept ++ [(k, c, x)] }).evictedIfOut n
    | none => s
  s.modCore k fun q => { q with run := none, hold := none }

/-- R39: a bundle of context `c` is counted as issued. -/
def Core.counted (q : Core) (c : Nat) : Core := { q.countDown with seq := q.seq + 1, lastIssued := some c }

/-- Nothing holds the core's bundle any more. -/
def Core.unheld (q : Core) : Core := { q with hold := none }

/-- R36: issues a fill bundle for context `c`. -/
def State.fillBundle (s : State) (k c : Nat) : State := s.modCore k fun q => q.counted c

/-! ### Commit and the next address -/

/-- R334: stores that together cover a typed buffer's unit. -/
def covers (l : List (Buf × Nat × List Byte)) (x : Buf × Nat) : Bool :=
  (List.range 8).all fun i =>
    l.any fun y => decide (y.1 = x.1) && decide (y.2.1 ≤ 8 * x.2 + i) && decide (8 * x.2 + i < y.2.1 + y.2.2.length)

/-- R44, R334: the bundle's typed-buffer stores, in commit order; a unit that they cover whole is poisoned no more. -/
def Core.storeAll (q : Core) (l : List (Buf × Nat × List Byte)) : Core :=
  if l.isEmpty then q
  else
    let q := l.foldl (fun q x => q.writeBuf x.1 x.2.1 x.2.2) q
    { q with poison := q.poison.filter fun x => !covers l x }

/-- The results that bundle `n` of a context leaves in flight. -/
def Ctx.leave (x : Ctx) (fl : List Flight) (n : Nat) : Ctx :=
  { x with flights := x.flights ++ fl.map fun f => { f with seq := n }, lastSeq := if x.inHandler then x.lastSeq else n }

/-- R296 step 1: what the slots of a bundle leave. `counts` says whether it counts as a new issued bundle: not when it is
the rest of a bundle resumed after `eret` (R300). -/
def Bx.commit (b : Bx) (counts : Bool) : State :=
  let s := b.s.fresh.modCore b.k fun q => if counts then (q.storeAll b.ts).counted b.c else q.storeAll b.ts
  s.modCtx b.k b.c fun x => x.leave b.flights (if counts then (s.core b.k).seq else x.lastSeq)

/-- R129, R85: the loop step of a bundle with LEND = 1; none when the loop does not continue. -/
def State.loopStep (s : State) (k c : Nat) (lv : BitVec 3) : State × Option Dword :=
  let l := (s.ctx k c).loop lv
  if !l.act then (s, none)
  else
    let n := l.count + 1
    if n.toNat < l.bound.toNat then
      (s.modCtx k c fun x => x.setLoop lv { l with count := n }, some (l.start.setWidth 64 <<< 5))
    else (s.modCtx k c fun x => x.setLoop lv { l with count := n, act := false }, none)

/-- The context goes on to its next bundle at `pc`. -/
def Ctx.goOn (x : Ctx) (pc : Dword) (h : Head) (phase : Phase) : Ctx :=
  { x with pc, start := 0, ckFill := decide (h.kind = 2), ckix := h.ckix, phase }

/-- R85, R129: the next bundle's address, and the loop step on the way (DEDUCED, log entry 15). -/
def State.nextBundle (s : State) (k c : Nat) (next : Option Dword) (h : Head) : State × Option Dword :=
  match next, h.lend with
  | some a, _ => (s, some a)
  | none, some lv => s.loopStep k c lv
  | none, none => (s, none)

/-- R85, R129, R130, R36, R311: after every slot has committed. -/
def Bx.finish (b : Bx) (s : State) (h : Head) : State :=
  let k := b.k; let c := b.c
  if b.eret then s.eret k c
  else
    match b.exit with
    | some st =>
      s.modCtx k c fun x => { x with
        phase := .exitFill, exitStatus := st, start := 0, ckFill := false, parked := false, taken := none, timedOut := false }
    | none =>
      let r := s.nextBundle k c b.next h
      let s := r.1.modCtx k c fun x =>
        x.goOn (r.2.getD (b.pc + 32)) h (match r.2, b.skip with
          | none, some lv => .scan lv (b.pc + 32)
          | _, _ => .normal)
      if h.kind = 1 then
        if (s.ctx k c).parked then s.modCtx k c fun x => { x with parked := false, taken := none, timedOut := false }
        else (s.makeReady k c).modCore k fun q => { q with run := none }
      else s

/-- R36 step 2: the yield bundle parks; none of its slots issues. -/
def State.park (s : State) (k c : Nat) : State :=
  let s := s.modCtx k c fun x => { x with st := .waiting, parked := true, taken := none, waitAt := s.timebase.toNat }
  s.modCore k fun q => { q with run := none, hold := none }

/-- A stall begins or goes on: the bundle holds the core. -/
def State.stallOn (s : State) (k c : Nat) (h : Hold) : State :=
  if (s.core k).hold = some h then s
  else (s.modCore k fun q => { q with hold := some h }).modCtx k c fun x => { x with waitAt := s.timebase.toNat }

/-- R57, R85: what the rest of a bundle goes on with: the FPCR that it sampled, and what its committed slots have chosen. -/
def Bx.split (b : Bx) (slot : Nat) : Option Split :=
  if slot = 0 && b.next.isNone && b.exit.isNone && b.skip.isNone then none
  else some { pc := b.pc, slot, fpcr := b.fpcr, next := b.next, exit := b.exit, skip := b.skip }

/-- The handler's own bundles leave the split of the user's bundle as it is. -/
def Ctx.keepSplit (x : Ctx) (p : Option Split) : Ctx := if x.inHandler then x else { x with split := p }
def State.keepSplit (s : State) (k c : Nat) (p : Option Split) : State := s.modCtx k c fun x => x.keepSplit p

/-- The rest of a split bundle goes on with what it sampled and its committed slots have chosen. -/
def Bx.rejoin (b : Bx) (x : Ctx) : Bx :=
  match x.split with
  | some p => if x.start ≠ 0 ∧ p.pc = x.pc then { b with fpcr := p.fpcr, next := p.next, exit := p.exit, skip := p.skip } else b
  | none => b

/-- Issues the bundle at the context's program counter, its header `h` and its slots given. With `late`, a wait that
stalls it has passed the watchdog limit: the earlier slots commit and the slot takes Sync-Timeout (R158, R222). The rest of a
bundle resumed after `eret` is that bundle once more (R300) and keeps the FPCR that it sampled (R57). -/
def State.issueSlots (s : State) (k c : Nat) (h : Head) (alone late : Bool) (l : List (Nat × SlotFn)) : State :=
  let x := s.ctx k c
  let b : Bx :=
    { s, k, c, pc := x.pc, fpcr := x.fpcr, alone, late := x.timedOut, chans := (s.core k).chans, dshc := (s.core k).dshc
      ord0 := (s.core k).storeCtr }
  let b := b.rejoin x
  let fresh := decide (x.start = 0)
  let fail (b : Bx) (n : Nat) (cause : Cause) (v : Dword) : State :=
    ((b.commit (fresh && decide (1 ≤ n))).keepSplit k c (b.split n)).raise k c (Trap.atIssue cause v x.pc n)
  match runSlots b l with
  | .stall b' n hd v i =>
    if (late && (decide (hd = .sync) || decide (hd = .chan) || decide (hd = .ring n))) || (x.timedOut && decide (hd = .sync)) then fail b' n .syncTimeout v
    else if hd = .sync ∧ h.kind = 1 then s.park k c
    else (s.awaitDomain (dieOf k) i).stallOn k c hd
  | .fault b' n cause v => fail b' n cause v
  | .trapped b' n cause v =>
    ((b'.commit fresh).keepSplit k c (b'.split (n + 1))).raise k c
      { cause, tval := v, epcb := x.pc, slotres := n + 1, baddr := x.pc, async := false, slot := n }
  | .all b' =>
    let s := ((b'.commit fresh).keepSplit k c none).modCore k Core.unheld
    b'.finish s h

/-! ### The order at a boundary (R305) -/

/-- What the boundary before the next bundle decides: the bundle goes on, or something else takes its place. -/
inductive Bound where
  | go (s : State)
  | stop (s : State)
  deriving DecidableEq, Repr

/-- R130: one step of a loop skip scan: the one fault is that of leaving the code range; a bundle that cannot be read is
passed over (DEDUCED, log entry 15). -/
def State.scanStep (s : State) (k c : Nat) (lv : BitVec 3) : State :=
  let pc := (s.ctx k c).pc
  let pass (found : Bool) : State := s.modCtx k c fun x => { x with pc := pc + 32, phase := if found then .normal else x.phase }
  match s.badTarget k c pc, s.fetch k c pc with
  | some e, _ => (s.modCtx k c fun x => { x with phase := .normal }).raise k c (Trap.atIssue e pc pc 0)
  | none, .wait i => s.awaitDomain (dieOf k) i
  | none, .fault _ => pass false
  | none, .ok w => pass ((bundleHead w).getLsbD 2 && decide (fld (bundleHead w) 3 3 = lv))

/-- R60: the FP-Trap that a landing left. -/
def State.fpTrap (s : State) (k c : Nat) : Option State :=
  (s.ctx k c).fpPend.map fun (fl, baddr, slot) =>
    s.enterTrap k c
      { cause := .fpTrap, tval := fl.setWidth 64, epcb := (s.ctx k c).pc, slotres := 0, baddr, async := false, slot }

/-- R311: eviction takes the context at a checkpoint boundary. -/
def State.evictNow (s : State) (k c : Nat) : State :=
  let s := s.modCtx k c fun x => { x with st := .halted, haltedFrom := .running, evicted := true, evictReq := false, ckFill := false }
  s.modCore k fun q => { q with run := none, hold := none }

/-- R387: the bundle at the program counter has issued and stalls: its boundary has been settled. A `drain` holds the next
bundle before it issues (R138). -/
def Core.stalled (q : Core) : Bool := q.hold.isSome && decide (q.hold ≠ some .drain)

/-- R302, R305 item 3, R387: a pending record traps at this boundary: no result due traps first. The results that are due stay in
flight. -/
def State.recordFirst (s : State) (k c : Nat) : Bool :=
  let x := s.ctx k c
  x.pend && !x.inHandler && decide (x.phase = .normal) && !(s.core k).stalled && decide (x.start = 0) &&
    ((s.landDue k).fpTrap k c).isNone

/-- R305, with the fill bundles of an exit (R141) and of a checkpoint (R311). A stalled bundle is abandoned for a halt alone
(R306, R387). -/
def State.boundary (s : State) (k c : Nat) : Bound :=
  let x := s.ctx k c
  if x.haltReq && !x.inHandler then .stop (s.haltNow k c)
  else if (s.core k).stalled || decide (x.start ≠ 0) then .go s
  else
    match x.phase with
    | .scan lv _ => .stop (s.scanStep k c lv)
    | .exitFill =>
      let s := s.landDue k
      if (s.ctx k c).flights.isEmpty then .stop (s.idleNow k c) else .stop (s.fillBundle k c)
    | .normal =>
      if s.recordFirst k c then .stop (s.recordTrap k c x.pc)
      else
      let s := s.landDue k
      if x.inHandler then .go s
      else
        match s.fpTrap k c with
        | some t => .stop t
        | none =>
          let x := s.ctx k c
          if x.ckFill then
            if !x.flights.isEmpty then .stop (s.fillBundle k c)
            else if x.evictReq then .stop (s.evictNow k c)
            else .go (s.modCtx k c fun x => { x with ckFill := false })
          else .go s

/-- The context that a core runs, when it can issue: RUNNING, or TRAPPED in its handler. -/
def State.issuer (s : State) (k : Nat) : Option Nat :=
  match (s.core k).run with
  | none => none
  | some c =>
    let x := s.ctx k c
    if x.st = .running || x.inHandler then some c else none

/-- R138: a store of the context that its `drain` still awaits. -/
def State.undrained (s : State) (k c : Nat) : Bool :=
  match (s.ctx k c).drain with
  | none => false
  | some sc => (s.core k).stores.any fun p => decide (p.c = c) && !p.performedAt sc

/-- R36 step 2: whether the wait of the bundle's `y` slot cannot be satisfied now. -/
def State.yStalls (s : State) (k c : Nat) (l : List (Nat × SlotFn)) : Bool :=
  let x := s.ctx k c
  match runSlots { s, k, c, pc := x.pc, fpcr := x.fpcr } (l.filter fun y => decide (y.1 = 6)) with
  | .stall _ _ .sync _ _ => true
  | _ => false

/-- R343: what the fetch of the bundle at the program counter leaves in the translation caches. -/
def State.fetchFill (s : State) (k c : Nat) : State := s.fillSpan (s.ctxRoot k c) (s.ctx k c).pc 32

/-- R82: issues the bundle at the program counter of the context that core `k` runs. -/
def State.issueFetched (fn : Instr → SlotFn) (s : State) (k c : Nat) (late : Bool) : State :=
  let x := s.ctx k c
  if x.drain.isSome && s.undrained k c then s.stallOn k c .drain
  else
  let s := s.modCtx k c fun x => { x with drain := none }
  match s.fetch k c x.pc with
  | .wait i => (s.awaitDomain (dieOf k) i).stallOn k c .global
  | .fault e => s.raise k c (Trap.atIssue e x.pc x.pc 0)
  | .ok w =>
    let s := s.fetchFill k c
    match headOf (bundleHead w) x.inHandler (s.cardOf k c).ckcnt with
    | .error e => s.raise k c (Trap.atIssue e 0 x.pc 0)
    | .ok h =>
      let l := slotsFrom fn w x x.start
      let alone := decide ((slotsFrom fn w x 0).length ≤ 1)
      if h.kind = 1 ∧ x.start = 0 ∧ !x.flights.isEmpty then s.fillBundle k c
      else if decide (h.kind = 1) && x.taken.isNone && !x.timedOut && s.yStalls k c l then s.park k c
      else s.issueSlots k c h alone late l

/-- BUNDLE_ISSUE (R82): the boundary, then the bundle. -/
def State.issueNext (fn : Instr → SlotFn) (s : State) (k : Nat) (late : Bool) : State :=
  match s.issuer k with
  | none => s
  | some c =>
    match s.boundary k c with
    | .stop s => s
    | .go s => s.issueFetched fn k c late

/-- The core in whose bundle a slot instruction stands when it is executed by itself. -/
def State.focusCore (s : State) : Option Nat :=
  match s.focus with
  | .core k => some k
  | _ => none

/-- A normal bundle whose only slot that is not all zero is slot `slot`, with the meaning `f` (DEDUCED, log entry 9). -/
def State.issueOne (s : State) (slot : Nat) (f : SlotFn) : State :=
  match s.focusCore with
  | none => s
  | some k =>
    match s.issuer k with
    | none => s
    | some c =>
      match s.boundary k c with
      | .stop s => s
      | .go s =>
        if s.undrained k c then s.stallOn k c .drain
        else
        let s := (s.modCtx k c fun x => { x with drain := none }).fetchFill k c
        let f' : SlotFn := fun b => if slotBarred b.ctx slot then .fault .illegalEncoding 0 else f b
        s.issueSlots k c {} true false (if slot < (s.ctx k c).start then [] else [(slot, f')])

end Sys2Proof.Machine
end

