-- ==== Sys2Proof/Machine/Num.lean ====
section
/-! DEFINITION. Exact values, formats and rounding (Number formats and arithmetic, R45 to R64). A value is held exactly
until one rounding writes it in a format. -/

namespace Sys2Proof.Machine

/-- The five events of R59, in its bit order: IX 4, UF 3, OF 2, DZ 1, IV 0. -/
abbrev Flags := BitVec 5
/-- Invalid (R59). -/
def fIV : Flags := 0b00001
/-- Divide-by-zero (R59). -/
def fDZ : Flags := 0b00010
/-- Overflow (R59). -/
def fOF : Flags := 0b00100
/-- Underflow (R59). -/
def fUF : Flags := 0b01000
/-- Inexact (R59). -/
def fIX : Flags := 0b10000

/-- Rounding modes (R56), DYN resolved. -/
inductive Rnd where
  | rne | rtz | rup | rdn
  deriving DecidableEq, Repr

/-- An exact value before its one rounding. `num n m e st` stands for a magnitude `m × 2^e` when `st` is false and for a
magnitude strictly between `m × 2^e` and `(m + 1) × 2^e` when `st` is true; `n` is true for a negative value and `m`
is not 0. -/
inductive Ex where
  | nan (signalling : Bool)
  | inf (neg : Bool)
  | zero (neg : Bool)
  | num (neg : Bool) (m : Nat) (e : Int) (sticky : Bool)
  deriving DecidableEq, Repr

/-- A binary floating-point format (R47): fraction bits, exponent bits, bias, whether it has infinities. -/
structure FloatFmt where
  fbits : Nat
  ebits : Nat
  bias : Nat
  hasInf : Bool
  deriving DecidableEq, Repr

def FloatFmt.fp32 : FloatFmt := ⟨23, 8, 127, true⟩
def FloatFmt.fp16 : FloatFmt := ⟨10, 5, 15, true⟩
def FloatFmt.bf16 : FloatFmt := ⟨7, 8, 127, true⟩
def FloatFmt.e4m3 : FloatFmt := ⟨3, 4, 7, false⟩
def FloatFmt.e5m2 : FloatFmt := ⟨2, 5, 15, true⟩

/-- The width of an encoding in bits. -/
def FloatFmt.width (f : FloatFmt) : Nat := 1 + f.ebits + f.fbits
/-- The largest biased exponent code. -/
def FloatFmt.emaxCode (f : FloatFmt) : Nat := 2 ^ f.ebits - 1
/-- The encoding of the largest finite magnitude (R47). -/
def FloatFmt.maxFinite (f : FloatFmt) : Nat :=
  if f.hasInf then (f.emaxCode - 1) * 2 ^ f.fbits + (2 ^ f.fbits - 1) else f.emaxCode * 2 ^ f.fbits + (2 ^ f.fbits - 2)
/-- The encoding with sign `neg` and the magnitude bits `b`. -/
def FloatFmt.pack (f : FloatFmt) (neg : Bool) (b : Nat) : Nat :=
  if neg then 2 ^ (f.ebits + f.fbits) + b else b
/-- The encoding of +∞ (formats that have one). -/
def FloatFmt.infBits (f : FloatFmt) : Nat := f.emaxCode * 2 ^ f.fbits
/-- The canonical NaN (R47). -/
def FloatFmt.nanBits (f : FloatFmt) : Nat :=
  if f.hasInf then f.infBits + 2 ^ (f.fbits - 1) else f.infBits + (2 ^ f.fbits - 1)

/-- R48, R49: what an encoding stands for, exactly. -/
def FloatFmt.decode (f : FloatFmt) (bits : Nat) : Ex :=
  let frac := bits % 2 ^ f.fbits
  let ex := (bits / 2 ^ f.fbits) % 2 ^ f.ebits
  let neg := decide (bits / 2 ^ (f.ebits + f.fbits) % 2 = 1)
  if f.hasInf && decide (ex = f.emaxCode) then
    if frac = 0 then .inf neg else .nan (decide (frac < 2 ^ (f.fbits - 1)))
  else if !f.hasInf && decide (ex = f.emaxCode) && decide (frac = 2 ^ f.fbits - 1) then .nan false
  else if ex = 0 then
    if frac = 0 then .zero neg else .num neg frac (1 - (f.bias : Int) - f.fbits) false
  else .num neg (2 ^ f.fbits + frac) ((ex : Int) - f.bias - f.fbits) false

/-- Whether an encoding is subnormal (R48). -/
def FloatFmt.isSubnormal (f : FloatFmt) (bits : Nat) : Bool :=
  decide ((bits / 2 ^ f.fbits) % 2 ^ f.ebits = 0) && decide (bits % 2 ^ f.fbits ≠ 0)

/-- R62: every value of the narrower format `f` is one of the wider format `g`. -/
def FloatFmt.widensTo (f g : FloatFmt) : Bool := decide (f.width < g.width) && decide (f.fbits ≤ g.fbits)

/-- R62: an input element read with flushing as `fz` says. -/
def FloatFmt.decodeFz (f : FloatFmt) (fz : Bool) (bits : Nat) : Ex :=
  if fz && f.isSubnormal bits then .zero (decide (bits / 2 ^ (f.ebits + f.fbits) % 2 = 1)) else f.decode bits

/-- Whether a magnitude with quotient `q`, remainder state (`half`: at least half, `rest`: something below the half)
rounds up, by mode (R56). -/
def roundsUp (rm : Rnd) (neg : Bool) (q : Nat) (half rest : Bool) : Bool :=
  match rm with
  | .rne => half && (rest || decide (q % 2 = 1))
  | .rtz => false
  | .rup => !neg && (half || rest)
  | .rdn => neg && (half || rest)

/-- Rounds the magnitude `m × 2^e` (strictly above it when `st`) to a multiple of `2^k`: the multiple's count and
whether anything was lost. -/
def roundAt (rm : Rnd) (neg : Bool) (m : Nat) (e : Int) (st : Bool) (k : Int) : Nat × Bool :=
  if e ≥ k then
    let q := m * 2 ^ (e - k).toNat
    if st then ((if roundsUp rm neg q false true then q + 1 else q), true) else (q, false)
  else
    let sh := (k - e).toNat
    let q := m / 2 ^ sh
    let r := m % 2 ^ sh
    let h := 2 ^ (sh - 1)
    let half := decide (r ≥ h)
    let rest := decide (r % h ≠ 0) || st
    ((if roundsUp rm neg q half rest then q + 1 else q), half || rest)

/-- The position of the most significant bit of a magnitude: floor(log2). -/
def topExp (m : Nat) (e : Int) : Int := e + (m.log2 : Int)

/-- R63: the encoding an overflow writes when saturation is 0, and its sign. -/
def FloatFmt.overflowBits (f : FloatFmt) (rm : Rnd) (sat neg : Bool) : Nat :=
  if sat then f.pack neg f.maxFinite
  else if !f.hasInf then f.pack neg f.nanBits
  else
    let toInf := match rm with
      | .rne => true
      | .rtz => false
      | .rup => !neg
      | .rdn => neg
    f.pack neg (if toInf then f.infBits else f.maxFinite)

/-- R63, R62, R59: the encoding of an exact value in a format, with its events. `ff` flushes subnormal results
(DEDUCED, log entry 14). -/
def FloatFmt.round (f : FloatFmt) (rm : Rnd) (sat ff : Bool) (x : Ex) : Nat × Flags :=
  match x with
  | .nan s => (f.nanBits, if s then fIV else 0)
  | .inf neg =>
    if sat then (f.pack neg f.maxFinite, fOF ||| fIX)
    else if f.hasInf then (f.pack neg f.infBits, 0) else (f.pack neg f.nanBits, 0)
  | .zero neg => (f.pack neg 0, 0)
  | .num neg m e st =>
    let emin : Int := 1 - (f.bias : Int)
    let ku : Int := topExp m e - f.fbits
    let (qu, lu) := roundAt rm neg m e st ku
    -- the result rounded with an unbounded exponent: qu × 2^ku
    let eu := topExp qu ku
    if eu < emin then
      let kq : Int := emin - f.fbits
      let (q, lost) := roundAt rm neg m e st kq
      let fl : Flags := if lost then fUF ||| fIX else 0
      if ff && decide (q ≠ 0) && decide (q < 2 ^ f.fbits) then (f.pack neg 0, fUF ||| fIX)
      else (f.pack neg q, fl)
    else
      let q := if qu ≥ 2 ^ (f.fbits + 1) then qu / 2 else qu
      let code := (eu + f.bias).toNat * 2 ^ f.fbits + (q - 2 ^ f.fbits)
      if code > f.maxFinite then (f.overflowBits rm sat neg, fOF ||| fIX)
      else (f.pack neg code, if lu then fIX else 0)

/-- R59, R63: the integer nearest to an exact value in a mode, and whether anything was lost; none for NaN and ±∞. -/
def Ex.toInt? (x : Ex) (rm : Rnd) : Option (Int × Bool) :=
  match x with
  | .nan _ => none
  | .inf _ => none
  | .zero _ => some (0, false)
  | .num neg m e st =>
    let (q, lost) := roundAt rm neg m e st 0
    some (if neg then -(q : Int) else q, lost)

/-- R63: the range an integer destination clamps to. -/
def clampInt (lo hi x : Int) : Int := if x < lo then lo else if x > hi then hi else x

/-- R63, integer from float. -/
def roundToInt (lo hi : Int) (rm : Rnd) (x : Ex) : Int × Flags :=
  match x with
  | .nan _ => (0, fIV)
  | .inf neg => (if neg then lo else hi, fIV)
  | x =>
    match x.toInt? rm with
    | none => (0, fIV)
    | some (v, lost) => if v < lo ∨ v > hi then (clampInt lo hi v, fIV) else (v, if lost then fIX else 0)

/-- The exact value of an integer. -/
def Ex.ofInt (v : Int) : Ex := if v = 0 then .zero false else .num (decide (v < 0)) v.natAbs 0 false

/-- The exact value times a power of two. -/
def Ex.scale2 (x : Ex) (k : Int) : Ex :=
  match x with
  | .num n m e st => .num n m (e + k) st
  | y => y

/-- The value with its sign changed. -/
def Ex.neg (x : Ex) : Ex :=
  match x with
  | .nan s => .nan s
  | .inf n => .inf (!n)
  | .zero n => .zero (!n)
  | .num n m e st => .num (!n) m e st

def Ex.isNan : Ex → Bool
  | .nan _ => true
  | _ => false
def Ex.isSnan : Ex → Bool
  | .nan s => s
  | _ => false
def Ex.isInf : Ex → Bool
  | .inf _ => true
  | _ => false
def Ex.isZero : Ex → Bool
  | .zero _ => true
  | _ => false
def Ex.isFinite (x : Ex) : Bool := !x.isNan && !x.isInf
def Ex.isNeg : Ex → Bool
  | .nan _ => false
  | .inf n => n
  | .zero n => n
  | .num n _ _ _ => n

/-- R49, R59: Invalid for a signalling NaN among the operands. -/
def snanFlag (a b : Ex) : Flags := if a.isSnan || b.isSnan then fIV else 0

/-- The exact product of two finite non-zero magnitudes, or what R70 gives the special cases; IV for ∞ × 0. -/
def Ex.mul (a b : Ex) : Ex × Flags :=
  match a, b with
  | .nan _, _ => (.nan false, snanFlag a b)
  | _, .nan _ => (.nan false, snanFlag a b)
  | .inf n, .zero _ => let _ := n; (.nan false, fIV)
  | .zero _, .inf n => let _ := n; (.nan false, fIV)
  | .inf n, b => (.inf (n != b.isNeg), 0)
  | a, .inf n => (.inf (a.isNeg != n), 0)
  | .zero n, b => (.zero (n != b.isNeg), 0)
  | a, .zero n => (.zero (a.isNeg != n), 0)
  | .num n m e _, .num n' m' e' _ => (.num (n != n') (m * m') (e + e') false, 0)

/-- The sum of two finite values as an integer count of `2^k`. -/
def alignedInt (x : Ex) (k : Int) : Int :=
  match x with
  | .num n m e _ => if n then -((m * 2 ^ (e - k).toNat : Nat) : Int) else ((m * 2 ^ (e - k).toNat : Nat) : Int)
  | _ => 0

/-- The exponent of a finite value's last bit; `d` for a zero. -/
def Ex.lowExp (x : Ex) (d : Int) : Int :=
  match x with
  | .num _ _ e _ => e
  | _ => d

/-- R150: the exact sum, with the sign of an exact zero as the mode gives it; IV for ∞ − ∞. -/
def Ex.add (rm : Rnd) (a b : Ex) : Ex × Flags :=
  match a, b with
  | .nan _, _ => (.nan false, snanFlag a b)
  | _, .nan _ => (.nan false, snanFlag a b)
  | .inf n, .inf n' => if n = n' then (.inf n, 0) else (.nan false, fIV)
  | .inf n, _ => (.inf n, 0)
  | _, .inf n => (.inf n, 0)
  | .zero n, .zero n' => (.zero (if n = n' then n else decide (rm = .rdn)), 0)
  | .zero _, b => (b, 0)
  | a, .zero _ => (a, 0)
  | a, b =>
    let k := min (a.lowExp 0) (b.lowExp 0)
    let v := alignedInt a k + alignedInt b k
    if v = 0 then (.zero (decide (rm = .rdn)), 0) else (.num (decide (v < 0)) v.natAbs k false, 0)

/-- The exact difference, as the sum a + (−b) (R150). -/
def Ex.sub (rm : Rnd) (a b : Ex) : Ex × Flags := Ex.add rm a b.neg

/-- Bits kept of a quotient or a root: enough for every format's rounding. -/
def workBits : Nat := 64

/-- R156: a / b, the exact quotient held as a floor and a sticky bit. -/
def Ex.div (a b : Ex) : Ex × Flags :=
  match a, b with
  | .nan _, _ => (.nan false, snanFlag a b)
  | _, .nan _ => (.nan false, snanFlag a b)
  | .inf _, .inf _ => (.nan false, fIV)
  | .zero _, .zero _ => (.nan false, fIV)
  | .inf n, b => (.inf (n != b.isNeg), 0)
  | a, .inf n => (.zero (a.isNeg != n), 0)
  | .zero n, b => (.zero (n != b.isNeg), 0)
  | a, .zero n => (.inf (a.isNeg != n), fDZ)
  | .num n m e _, .num n' m' e' _ =>
    let k := workBits + m'.log2
    let q := m * 2 ^ k / m'
    (.num (n != n') q (e - e' - k) (decide (m * 2 ^ k % m' ≠ 0)), 0)

/-- R156: the square root, held as a floor and a sticky bit. -/
def Ex.sqrt (x : Ex) : Ex × Flags :=
  match x with
  | .nan s => (.nan false, if s then fIV else 0)
  | .zero n => (.zero n, 0)
  | .inf n => if n then (.nan false, fIV) else (.inf false, 0)
  | .num n m e _ =>
    if n then (.nan false, fIV)
    else
      -- an even exponent k with m × 2^e = M × 2^k and M of at least 2 × workBits bits
      let k0 : Int := e - 2 * workBits
      let k : Int := if k0 % 2 = 0 then k0 else k0 - 1
      let mm := m * 2 ^ (e - k).toNat
      let r := mm.sqrt
      (.num false r (k / 2) (decide (r * r ≠ mm)), 0)

/-- R156: 1 / √y for a positive finite y, exactly held. -/
def Ex.rsqrt (x : Ex) : Ex × Flags :=
  match x with
  | .nan s => (.nan false, if s then fIV else 0)
  | .zero n => (.inf n, fDZ)
  | .inf n => if n then (.nan false, fIV) else (.zero false, 0)
  | .num n m e _ =>
    if n then (.nan false, fIV)
    else
      -- with an even exponent, 1/√(m 2^e) = √(2^(2K) / m) × 2^(−K − e/2)
      let m := if e % 2 = 0 then m else 2 * m
      let e := if e % 2 = 0 then e else e - 1
      let k := workBits + m.log2
      let r := (2 ^ (2 * k) / m).sqrt
      (.num false r (-(k : Int) - e / 2) (decide (r * r * m ≠ 2 ^ (2 * k))), 0)

/-- −1, 0 or 1 as the finite or infinite value a is below, equal to or above b; 0 for a NaN (R152: −0 equals +0). -/
def Ex.cmp (a b : Ex) : Int :=
  match a, b with
  | .nan _, _ => 0
  | _, .nan _ => 0
  | .inf n, .inf n' => if n = n' then 0 else if n then -1 else 1
  | .inf n, _ => if n then -1 else 1
  | _, .inf n => if n then 1 else -1
  | a, b =>
    let k := min (a.lowExp 0) (b.lowExp 0)
    let v := alignedInt a k - alignedInt b k
    if v < 0 then -1 else if v = 0 then 0 else 1

/-- R150: whether a orders below b with −0 below +0. -/
def Ex.below (a b : Ex) : Bool :=
  match a, b with
  | .zero n, .zero n' => n && !n'
  | a, b => decide (a.cmp b < 0)

/-- R150, R242: the larger (`mx`) or smaller of two values; the canonical NaN when either is NaN. -/
def Ex.maxMin (mx : Bool) (a b : Ex) : Ex × Flags :=
  if a.isNan || b.isNan then (.nan false, snanFlag a b)
  else if mx then (if a.below b then b else a, 0) else (if b.below a then b else a, 0)

/-- R64: the FP32 encoding of an exact value under RNE, with its events; never flushes. -/
def rne32 (x : Ex) : Nat × Flags := FloatFmt.fp32.round .rne false false x

/-- An FP32 word's exact value (R48). -/
def f32 (w : BitVec 32) : Ex := FloatFmt.fp32.decode w.toNat

/-- The FP32 word of an exact value under RNE. -/
def w32 (x : Ex) : BitVec 32 := BitVec.ofNat 32 (rne32 x).1

/-- An FP32 operation of fixed rounding (R61): the RNE result of an exact operation, with the operation's events. -/
def rneOp (r : Ex × Flags) : BitVec 32 × Flags :=
  let (b, fl) := rne32 r.1
  (BitVec.ofNat 32 b, r.2 ||| fl)

def add32 (a b : BitVec 32) : BitVec 32 × Flags := rneOp (Ex.add .rne (f32 a) (f32 b))
def sub32 (a b : BitVec 32) : BitVec 32 × Flags := rneOp (Ex.sub .rne (f32 a) (f32 b))
def mul32 (a b : BitVec 32) : BitVec 32 × Flags := rneOp (Ex.mul (f32 a) (f32 b))
def div32 (a b : BitVec 32) : BitVec 32 × Flags := rneOp (Ex.div (f32 a) (f32 b))
def sqrt32 (a : BitVec 32) : BitVec 32 × Flags := rneOp (Ex.sqrt (f32 a))

/-- a × b + c exactly, before its one rounding (R150): IV for ∞ × 0 even when c is a quiet NaN. -/
def Ex.fma (rm : Rnd) (a b c : Ex) : Ex × Flags :=
  let (p, fp) := Ex.mul a b
  let (r, fr) := Ex.add rm p c
  (r, fp ||| fr)

def fma32 (a b c : BitVec 32) : BitVec 32 × Flags := rneOp (Ex.fma .rne (f32 a) (f32 b) (f32 c))
/-- The larger of two FP32 words, as R242's `max`. -/
def max32 (a b : BitVec 32) : BitVec 32 := w32 (Ex.maxMin true (f32 a) (f32 b)).1
def min32 (a b : BitVec 32) : BitVec 32 := w32 (Ex.maxMin false (f32 a) (f32 b)).1

/-- FP32 constants. -/
def one32 : BitVec 32 := 0x3F800000
def nan32 : BitVec 32 := 0x7FC00000

/-- R64: BF16 by RTZ and by RNE, from an exact value. -/
def rtzbf16 (x : Ex) : Nat := (FloatFmt.bf16.round .rtz false false x).1
def rnebf16 (x : Ex) : Nat × Flags := FloatFmt.bf16.round .rne false false x
def rne16 (x : Ex) : Nat × Flags := FloatFmt.fp16.round .rne false false x

/-! LNS6 (R51 to R55). -/

/-- c_j of R52. -/
def lnsC (j : Nat) : Nat := if j = 0 then 0x800 else if j = 1 then 0x983 else if j = 2 then 0xB50 else 0xD74

/-- The value (−1)^s × (c_j / 2048) × 2^e with 4e + j = t (R53, R54). -/
def lnsVal (s : Bool) (t : Int) : Ex := .num s (lnsC (t % 4).toNat) (t / 4 - 11) false

/-- R53: the linear value of an LNS6 code; bits [7:6] are ignored (R51). -/
def lnsLin (code : Nat) : Ex :=
  let k := code % 32
  let s := decide (code / 32 % 2 = 1)
  if k = 0 then .zero s else lnsVal s ((k : Int) - 20)

/-- R54: the Mint's product of two LNS6 codes. -/
def lnsMul (a b : Nat) : Ex :=
  let ka := a % 32
  let kb := b % 32
  let s := decide (a / 32 % 2 = 1) != decide (b / 32 % 2 = 1)
  if ka = 0 ∨ kb = 0 then .zero s else lnsVal s ((ka : Int) + kb - 40)

/-- R55: the LNS6 code of an exact value, with its events. -/
def toLns6 (x : Ex) : Nat × Flags :=
  match x with
  | .nan _ => (0, fIV)
  | .zero s => (if s then 32 else 0, 0)
  | .inf s => ((if s then 32 else 0) + 31, fOF ||| fIX)
  | .num s m e st =>
    let sb := if s then 32 else 0
    let t := topExp m e
    -- m / 2^log2(m) × 4096 against c (twice the threshold of R55, which counts in 1/2048)
    let le (c : Nat) (orEq : Bool) : Bool :=
      let d := m * 4096
      let lim := c * 2 ^ m.log2
      if orEq && !st then decide (d ≤ lim) else decide (d < lim)
    let (j, t') : Nat × Int :=
      if le 4483 true then (0, t) else if le 5331 false then (1, t) else if le 6340 true then (2, t)
      else if le 7540 false then (3, t) else (0, t + 1)
    let k := 4 * t' + j + 20
    if k > 31 then (sb + 31, fOF ||| fIX)
    else if k < 1 then (sb, fUF ||| fIX)
    else
      let code := k.toNat
      let same := decide ((lnsLin code).cmp (.num false m e false) = 0) && !st
      (sb + code, if same then 0 else fIX)

/-! E8M0 (R50). -/

/-- The exact value of an E8M0 scale; NaN for 0xFF. -/
def e8m0 (code : Nat) : Ex := if code = 255 then .nan false else .num false 1 ((code : Int) - 127) false

end Sys2Proof.Machine
end

