-- ==== Sys2Proof/Machine/Special.lean ====
section
/-! DEFINITION. The special functions of R156, correctly rounded: each is enclosed between two fixed-point bounds whose
precision is raised until both bounds have the same leading bits, so that the one rounding of R145 is exact. -/

namespace Sys2Proof.Machine

/-- The functions of R156 with one argument. -/
inductive SpFn where
  | rcp | rsqrt | sqrt | exp2 | log2 | exp | log | tanh | sigm
  deriving DecidableEq, Repr

/-- An enclosure of a positive real: lower and upper bound in units of 2^-P. -/
structure Encl where
  lo : Nat
  hi : Nat
  deriving DecidableEq, Repr

/-- a / b rounded up. -/
def ceilDiv (a b : Nat) : Nat := (a + b - 1) / b

/-- The sum of the series with next term `t` and term ratio step `f i t`, bounds kept apart; `n` terms more. -/
def seriesSum (step : Nat → Nat → Nat) (n i t acc : Nat) : Nat :=
  match n with
  | 0 => acc
  | n + 1 =>
    let t' := step i t
    seriesSum step n (i + 1) t' (acc + t')

/-- e^z for z in [0, 1] given within bounds in units of 2^-P. -/
def expEncl (p : Nat) (z : Encl) : Encl :=
  let n := p / 4 + 16
  let lo := seriesSum (fun i t => t * z.lo / (2 ^ p * (i + 1))) n 0 (2 ^ p) (2 ^ p)
  let hi := seriesSum (fun i t => ceilDiv (t * z.hi) (2 ^ p * (i + 1))) n 0 (2 ^ p) (2 ^ p)
  ⟨lo, hi + 2⟩

/-- 2·atanh(a / b) for a / b in [0, 1/3], in units of 2^-P. -/
def atanh2Encl (p a b : Nat) : Encl :=
  let n := p / 3 + 16
  let rec go (n i tl th sl sh : Nat) : Encl :=
    match n with
    | 0 => ⟨2 * sl, 2 * sh + 4⟩
    | n + 1 =>
      let tl' := tl * a * a / (b * b)
      let th' := ceilDiv (th * a * a) (b * b)
      go n (i + 2) tl' th' (sl + tl' / (i + 2)) (sh + ceilDiv th' (i + 2))
  go n 1 (2 ^ p * a / b) (ceilDiv (2 ^ p * a) b) (2 ^ p * a / b) (ceilDiv (2 ^ p * a) b)

/-- ln 2 in units of 2^-P. -/
def ln2Encl (p : Nat) : Encl := atanh2Encl p 1 3

/-- A positive real as bounds times 2^e2: the value lies between lo × 2^(e2 − P) and hi × 2^(e2 − P). -/
structure PosReal where
  encl : Encl
  e2 : Int
  deriving DecidableEq, Repr

/-- ln of 2^t × f where f = m / 2^log2 m lies in [1, 2): its sign and magnitude bounds; y is not 1. -/
def lnEncl (p m : Nat) (t : Int) : Bool × Encl :=
  let two := 2 ^ m.log2
  let l := ln2Encl p
  -- above √2 the factor is taken as f/2 with t + 1, so that the two parts never cancel
  if 2 * m * m > 4 * two * two then
    -- f / 2 in (1/√2, 1): ln = −2 atanh((2·two − m) / (2·two + m))
    let r := atanh2Encl p (2 * two - m) (2 * two + m)
    let t := t + 1
    if t ≤ 0 then (true, ⟨t.natAbs * l.lo + r.lo, t.natAbs * l.hi + r.hi⟩)
    else (false, ⟨t.natAbs * l.lo - r.hi, t.natAbs * l.hi - r.lo⟩)
  else
    let r := atanh2Encl p (m - two) (m + two)
    if t ≥ 0 then (false, ⟨t.natAbs * l.lo + r.lo, t.natAbs * l.hi + r.hi⟩)
    else (true, ⟨t.natAbs * l.lo - r.hi, t.natAbs * l.hi - r.lo⟩)

/-- m × 2^e in units of 2^-P, bounds. -/
def fixEncl (p m : Nat) (e : Int) : Encl :=
  let sh := e + p
  if sh ≥ 0 then ⟨m * 2 ^ sh.toNat, m * 2 ^ sh.toNat⟩
  else ⟨m / 2 ^ ((-sh).toNat), ceilDiv m (2 ^ ((-sh).toNat))⟩

/-- e^x for x given as sign and magnitude bounds (magnitude below 2^9): k·ln2 is taken out. -/
def expOf (p : Nat) (neg : Bool) (x : Encl) : PosReal :=
  let l := ln2Encl p
  -- k = floor(x / ln 2) or one less, so that the rest is within [0, 1]
  if neg then
    let k := x.hi / l.lo + 1
    let r : Encl := ⟨k * l.lo - x.hi, k * l.hi - x.lo⟩
    ⟨expEncl p r, -(k : Int)⟩
  else
    let k := x.lo / l.hi
    let r : Encl := ⟨x.lo - k * l.hi, x.hi - k * l.lo⟩
    ⟨expEncl p r, k⟩

/-- 2^x for x = ± m × 2^e, not an integer: the integer part is taken out exactly. -/
def exp2Of (p : Nat) (neg : Bool) (m : Nat) (e : Int) : PosReal :=
  let f := fixEncl p m e
  let l := ln2Encl p
  let one := 2 ^ p
  if neg then
    let k := f.lo / one + 1
    let r : Encl := ⟨k * one - f.hi, k * one - f.lo⟩
    ⟨expEncl p ⟨r.lo * l.lo / one, ceilDiv (r.hi * l.hi) one⟩, -(k : Int)⟩
  else
    let k := f.lo / one
    let r : Encl := ⟨f.lo - k * one, f.hi - k * one⟩
    ⟨expEncl p ⟨r.lo * l.lo / one, ceilDiv (r.hi * l.hi) one⟩, k⟩

/-- (e^(2a) − 1) / (e^(2a) + 1) for a > 0 as bounds. -/
def tanhEncl (p m : Nat) (e : Int) : PosReal :=
  let x := expOf p false (fixEncl p m (e + 1))
  let sc := 2 ^ x.e2.toNat
  let one := 2 ^ p
  let lo := x.encl.lo * sc
  let hi := x.encl.hi * sc
  ⟨⟨(lo - one) * one / (lo + one), ceilDiv ((hi - one) * one) (hi + one)⟩, 0⟩

/-- 1 / (1 + e^−y): with E = e^|y|, E / (E + 1) for y > 0 and 1 / (E + 1) for y < 0. -/
def sigmEncl (p : Nat) (neg : Bool) (m : Nat) (e : Int) : PosReal :=
  let x := expOf p false (fixEncl p m e)
  let sc := 2 ^ x.e2.toNat
  let one := 2 ^ p
  let lo := x.encl.lo * sc
  let hi := x.encl.hi * sc
  if neg then ⟨⟨one * one / (hi + one), ceilDiv (one * one) (lo + one)⟩, 0⟩
  else ⟨⟨lo * one / (lo + one), ceilDiv (hi * one) (hi + one)⟩, 0⟩

/-- The leading bits of an enclosure when they are settled: the value lies strictly between q and q + 1 in units of
2^(k). At least 40 bits are required, and 20 bits of the enclosure are dropped. -/
def settled? (p : Nat) (r : PosReal) : Option (Nat × Int) :=
  let a := r.encl.lo / 2 ^ (20 : Nat)
  let b := r.encl.hi / 2 ^ (20 : Nat)
  if a = b ∧ a.log2 ≥ 40 then some (a, r.e2 - p + 20) else none

/-- The enclosure of a function's magnitude and its sign at one precision; the argument is ± m × 2^e. -/
def SpFn.encl (fn : SpFn) (p : Nat) (neg : Bool) (m : Nat) (e : Int) : Bool × PosReal :=
  match fn with
  | .exp2 => (false, exp2Of p neg m e)
  | .exp => (false, expOf p neg (fixEncl p m e))
  | .tanh => (neg, tanhEncl p m e)
  | .sigm => (false, sigmEncl p neg m e)
  | .log =>
    let (s, x) := lnEncl p m (topExp m e)
    (s, ⟨x, 0⟩)
  | .log2 =>
    let (s, x) := lnEncl p m (topExp m e)
    let l := ln2Encl p
    (s, ⟨⟨x.lo * 2 ^ p / l.hi, ceilDiv (x.hi * 2 ^ p) l.lo⟩, 0⟩)
  | .rcp => (neg, ⟨⟨0, 0⟩, 0⟩)
  | .rsqrt => (neg, ⟨⟨0, 0⟩, 0⟩)
  | .sqrt => (neg, ⟨⟨0, 0⟩, 0⟩)

/-- Raises the precision until the leading bits are settled (log entry 6 says why the last precision suffices). -/
def SpFn.settle (fn : SpFn) (neg : Bool) (m : Nat) (e : Int) : List Nat → Ex
  | [] => .nan false
  | p :: ps =>
    let (s, r) := fn.encl p neg m e
    match settled? p r with
    | some (q, k) => .num s q k true
    | none => SpFn.settle fn neg m e ps

/-- The precisions tried, in bits. -/
def precisions : List Nat := [112, 256, 640, 1600]

/-- R156: the exact value of a function at a non-special argument. -/
def SpFn.value (fn : SpFn) (neg : Bool) (m : Nat) (e : Int) : Ex :=
  let t := topExp m e
  match fn with
  | .exp2 | .exp =>
    if t ≥ 9 then (if neg then .num false 1 (-600) true else .num false 1 600 true)
    else if fn = .exp2 ∧ (e ≥ 0 ∨ m % 2 ^ ((-e).toNat) = 0) then
      let k : Int := if e ≥ 0 then ((m * 2 ^ e.toNat : Nat) : Int) else ((m / 2 ^ ((-e).toNat) : Nat) : Int)
      .num false 1 (if neg then -k else k) false
    else fn.settle neg m e precisions
  | .tanh =>
    if t ≥ 7 then .num neg (2 ^ 60 - 1) (-60) true else fn.settle neg m e precisions
  | .sigm =>
    if t ≥ 9 then (if neg then .num false 1 (-600) true else .num false (2 ^ 60 - 1) (-60) true)
    else fn.settle neg m e precisions
  | .log | .log2 =>
    if m = 2 ^ m.log2 then
      if t = 0 then .zero false
      else if fn = .log2 then Ex.ofInt t
      else fn.settle neg m e precisions
    else fn.settle neg m e precisions
  | .rcp | .rsqrt | .sqrt => .nan false

/-- R156: the table of special arguments, then the function's value. -/
def SpFn.apply (fn : SpFn) (y : Ex) : Ex × Flags :=
  match fn with
  | .rcp => Ex.div (.num false 1 0 false) y
  | .rsqrt =>
    match y with
    | .zero n => (.inf n, fDZ)
    | y => y.rsqrt
  | .sqrt => y.sqrt
  | _ =>
    match y with
    | .nan s => (.nan false, if s then fIV else 0)
    | .zero n =>
      match fn with
      | .log | .log2 => (.inf true, fDZ)
      | .tanh => (.zero n, 0)
      | .sigm => (.num false 1 (-1) false, 0)
      | _ => (.num false 1 0 false, 0)
    | .inf n =>
      match fn with
      | .log | .log2 => if n then (.nan false, fIV) else (.inf false, 0)
      | .tanh => (.num n 1 0 false, 0)
      | .sigm => (if n then .zero false else .num false 1 0 false, 0)
      | _ => (if n then .zero false else .inf false, 0)
    | .num n m e _ =>
      match fn with
      | .log | .log2 => if n then (.nan false, fIV) else (fn.value n m e, 0)
      | _ => (fn.value n m e, 0)

end Sys2Proof.Machine
end

