-- ==== Sys2Proof/Machine/Flags.lean ====
section
/-! DEFINITION. Status words and flag computations: FPCR, FFLAGS, FEVR, CSTAT and FOVF under the Access codes of R6, the
rounding and flushing that an operation samples (R56, R57, R62), and the trap registers (R294). -/

namespace Sys2Proof.Machine

/-! ### What an operation samples from FPCR (R57, R58) -/

/-- R58: FPCR.RM; codes 0 to 3 alone are ever held. -/
def fpcrRm (f : Word) : Rnd :=
  match (f.extractLsb' 0 2).toNat with
  | 0 => .rne | 1 => .rtz | 2 => .rup | _ => .rdn
def fpcrFzi (f : Word) : Bool := f.getLsbD 4
def fpcrFzo (f : Word) : Bool := f.getLsbD 5
/-- R58: the trap enables in the flag order of R59. -/
def fpcrTraps (f : Word) : BitVec 5 := f.extractLsb' 8 5

/-- R56, R145: the rounding mode of a vector operation. -/
def selRm (r : RmSel) (fpcr : Word) : Rnd :=
  match r with
  | .rne => .rne | .rtz => .rtz | .rup => .rup | .rdn => .rdn | .dyn => fpcrRm fpcr
/-- R62, R145: a flush setting. -/
def selFl (f : FlSel) (fromFpcr : Bool) : Bool :=
  match f with
  | .fpcr => fromFpcr | .never => false | .always => true

/-! ### CSR reads and writes (R133 to R137, R294, R295) -/

/-- R133: the value that a write form makes of the old one. -/
def csrApply (o : CsrOp) (old a : Dword) : Dword :=
  match o with
  | .write => a
  | .set => old ||| a
  | .clear => old &&& ~~~a

/-- R133: the bits that a write form clears in a W1C field. -/
def csrW1c (o : CsrOp) (a : Dword) : Dword :=
  match o with
  | .write | .set => a
  | .clear => 0

/-- R134, R294: the value a CSR reads as. -/
def csrRead (s : State) (k c : Nat) (r : Csr) : Dword :=
  let x := s.ctx k c
  match r with
  | .fpcr => x.fpcr.setWidth 64
  | .fflags => x.fflags
  | .fevr => x.fevr
  | .cstat => x.cstat
  | .fovf => (s.core k).fovf.setWidth 64
  | .ctxid => BitVec.ofNat 64 (16 * k + c)
  | .cause => x.cause
  | .epcb => x.epcb
  | .tval => x.tval
  | .tinfo => x.tinfo
  | .dcause => x.dcause
  | .depc => x.depc
  | .erstat => x.erstat
  | .erpop => 0
  | .errec n => match x.records with | [] => 0 | e :: _ => e.dwords.getD n.val 0
  | .hscr0 => x.hscr0
  | .hscr1 => x.hscr1

/-- R134: the CSRs of supervisor level. -/
def csrSup : Csr → Bool
  | .fpcr | .fflags | .fevr | .cstat | .fovf | .ctxid => false
  | _ => true

/-- R58: a write of FPCR; a reserved RM leaves RM. -/
def fpcrWrite (old v : Word) : Word :=
  let rm : Word := if v.getLsbD 2 then old &&& 7 else v &&& 7
  (v &&& 0x1F30) ||| rm

/-- R16: a supervisor write of SLOTRES; 7 is ignored. -/
def slotresWrite (old v : BitVec 3) : BitVec 3 := if v = 7 then old else v

/-- R133: the write, field by field under R6. -/
def csrWrite (s : State) (k c : Nat) (r : Csr) (o : CsrOp) (a : Dword) : State :=
  let v := csrApply o (csrRead s k c r) a
  let w := csrW1c o a
  let sup := (s.ctx k c).inHandler
  match r with
  | .fpcr => s.modCtx k c fun x => { x with fpcr := fpcrWrite x.fpcr (v.setWidth 32) }
  | .fflags => s.modCtx k c fun x => { x with fflags := v &&& 0x7FFFFFFFF }
  | .fevr => if w.getLsbD 0 then s.modCtx k c fun x => { x with fevr := 0 } else s
  | .cstat =>
    s.modCtx k c fun x =>
      { x with
        wconf := x.wconf && !w.getLsbD 16
        slotres := if sup then slotresWrite x.slotres (v.extractLsb' 0 3) else x.slotres }
  | .fovf => s.modCore k fun q => { q with fovf := q.fovf &&& ~~~(w.setWidth 32) }
  | .cause => s.modCtx k c fun x => { x with cause := v &&& 0x1FF }
  | .epcb => s.modCtx k c fun x => { x with epcb := v &&& ~~~31 }
  | .tval => s.modCtx k c fun x => { x with tval := v }
  | .tinfo => s.modCtx k c fun x => { x with tinfo := v &&& 0x000FFFFFFFFFFFF7 }
  | .erpop => s.modCtx k c fun x => { x with records := x.records.drop 1 }
  | .hscr0 => s.modCtx k c fun x => { x with hscr0 := v }
  | .hscr1 => s.modCtx k c fun x => { x with hscr1 := v }
  | .ctxid | .dcause | .depc | .erstat | .errec _ => s

/-- R16, R134: what a user-level write of CSTAT may not carry (DEDUCED, log entry 19). -/
def cstatBarred (o : CsrOp) (a : Dword) : Bool :=
  match o with
  | .write | .set => decide (a &&& ~~~(0x10000 : Dword) ≠ 0)
  | .clear => decide (a ≠ 0)

end Sys2Proof.Machine
end

