-- ==== Sys2Proof/Machine/Operands.lean ====
section
/-! DEFINITION. Operand forms of the slots: effective addresses (R120), typed-buffer accesses and their checks (R21, R121,
R334), global scalar accesses (R122, R123, R138), counts of the `y` slot (R97). -/

namespace Sys2Proof.Machine

/-! ### Typed buffers -/

/-- R21, R121, R334: a typed-buffer access of `n` bytes at `a` by the bundle's context: the fault it raises. A store
is not refused for poison. -/
def Bx.bufFault (b : Bx) (buf : Buf) (a : Int) (n : Nat) (load : Bool) : Option (Cause × Dword) :=
  match (b.ctx.window buf).outside a n with
  | some t => some (.bufferBounds, BitVec.ofInt 64 t)
  | none =>
    if load then
      (match b.core.poisonedAt buf a.toNat n with
        | some t => some (.memoryError, bufWord buf t)
        | none => none)
    else none

/-- R169: a byte that a started Mint command will leave: a bundle sees the old or the new value. `occ` numbers the occasion. -/
def Core.seenByte (q : Core) (occ : Nat) (buf : Buf) (a : Nat) (old : Byte) : Byte :=
  match q.mint.queue.findSome? fun c => c.early.find? fun e => decide (e.1 = buf) && decide (e.2.1 = a) with
  | some e => if Config.freeChoice (occ * 2 ^ 64 + buf.num * 2 ^ 32 + a) then e.2.2 else old
  | none => old

/-- R44: the bytes of a typed-buffer load, before any store of its bundle; those of a Mint command in progress may already
be new (R169). -/
def Bx.bufLoad (b : Bx) (buf : Buf) (a n : Nat) : List Byte :=
  let l := b.core.readBuf buf a n
  if b.core.mint.queue.all fun c => c.early.isEmpty then l
  else ((List.range n).zip l).map fun x => b.core.seenByte b.s.freeCtr buf (a + x.1) x.2

/-- R44: a typed-buffer store, which performs when its bundle commits. -/
def Bx.bufStore (b : Bx) (buf : Buf) (a : Nat) (l : List Byte) : Bx := { b with ts := b.ts ++ [(buf, a, l)] }

/-! ### Global memory -/

/-- R138: a committed store of the context that a fence orders before its next global access. -/
def Bx.fenced (b : Bx) : Bool := b.core.fenced b.c

/-- R122, R138: a global access of `n` bytes at `va`: its physical bytes and whether no L2 may hold them, or how the slot
ends; its translation stays cached (R343) (DESIGN CHOICE, log entry 8). -/
def Bx.global (b : Bx) (acc : Access) (va : Dword) (n : Nat) (go : Bx → List Nat → Bool → SlotRes) : SlotRes :=
  match b.s.ctxSpan b.k b.c acc va n with
  | .fault c a => .fault c a
  | .wait i => .stall .global 0 i
  | .ok l direct =>
    if b.fenced then .stall .global 0 none
    else if (acc = .read ∨ acc = .atomic) ∧ b.s.poisonedAny (.core b.k) l then .fault .memoryError va
    else go { b with s := b.s.fillSpan (b.s.ctxRoot b.k b.c) va n } l direct

/-- R122: the store commits; it performs later (DEDUCED, log entry 41). -/
def Bx.globalStore (b : Bx) (va : Dword) (l : List (Nat × Byte)) (direct : Bool) : Bx :=
  b.modCore fun q =>
    { q with
      stores := q.stores ++
        [{ c := b.c, card := (b.ctx.card).getD 0, bytes := l, va, level := .core, need := none, ord := q.storeCtr, direct }]
      storeCtr := q.storeCtr + 1 }

/-- R124: the read and write of an atomic as one step: in the die's L2 at die scope and narrower, else in memory after the
die has written the line back; a Vault-managed region always performs at module scope. Answers the old bytes (DEDUCED,
log entry 41). -/
def Bx.atomicStep (b : Bx) (sc : Scope) (va : Dword) (l : List Nat) (direct : Bool) (f : Nat → Nat) : Bx × Nat :=
  let d := b.die
  let wide := direct || decide (3 ≤ sc.rank)
  let touch (p : PStore) : Bool := p.meets (l.map fun a => (a, 0))
  let s := b.s.performWhere b.k wide touch
  let s := if wide then s.cleanLines d l else s
  let old := leNat (if wide then l.map s.mem.read else l.map (s.dieByte d))
  let new := l.zip (leBytes l.length (f old))
  if wide then ({ b with s := s.writeModule new (some d) }, old)
  else
    let s := (s.writeDie d new).modCore b.k fun q =>
      { q with
        stores := q.stores ++
          [{ c := b.c, card := ((b.ctx).card).getD 0, bytes := new, va, level := .die, need := none, ord := q.storeCtr,
             direct := false }]
        storeCtr := q.storeCtr + 1 }
    ({ b with s }, old)

/-! ### Counts (R97, R221) -/

/-- R221: the count of a `y` operation. -/
def Bx.count (b : Bx) (c : Cnt) : Nat :=
  match c with
  | .imm n => n.toNat
  | .reg r => (b.x r).toNat

end Sys2Proof.Machine
end

