-- ==== Sys2Proof/Machine/Engine.lean ====
section
/-! DEFINITION. What the engines share: address and notify words (R202), reads and writes at a place (R24, R218), the
party that issues a command (R208, R226, R229), notifications (R216, R217), the end of a transfer (R216, R218). -/

namespace Sys2Proof.Machine

/-! ### Engine access to a place -/

/-- How an engine's access ends: done, a fault that ends the work (R218), a fault for the page service, a wait. -/
inductive Acc (α : Type) where
  | ok (a : α)
  | fault (c : Cause) (va : Dword)
  | page (cow : Bool) (va : Dword)
  | wait (dom : Option Await)
  deriving DecidableEq, Repr

def Acc.bind {α β : Type} (x : Acc α) (f : α → Acc β) : Acc β :=
  match x with
  | .ok a => f a
  | .fault c v => .fault c v
  | .page w v => .page w v
  | .wait d => .wait d

/-- What is left of an access that gives nothing. -/
def Acc.unit {α : Type} : Acc α → Acc Unit
  | .ok _ => .ok ()
  | .fault c v => .fault c v
  | .page w v => .page w v
  | .wait d => .wait d

/-- A span as an engine sees it. -/
def Span.acc (x : Span) : Acc (List Nat) :=
  match x with
  | .ok l _ => .ok l
  | .fault c va => if c = .cowWrite then .page true va else if c = .pageAbsent then .page false va else .fault c va
  | .wait d => .wait d

/-- R24, R336: an engine's read of `n` bytes in an address space, as an agent of `v`. -/
def State.engRead (s : State) (v : View) (d : Nat) (asid : BitVec 16) (va : Dword) (n : Nat) : Acc (List Byte) :=
  (s.engSpan v d asid .read va n).acc.bind fun l =>
    if s.poisonedAny v l then .fault .memoryError va else .ok (s.viewBytes v l)

/-- R216: an engine's write, which performs at module scope. -/
def State.engWrite (s : State) (v : View) (d : Nat) (asid : BitVec 16) (va : Dword) (b : List Byte) : Acc State :=
  (s.engSpan v d asid .write va b.length).acc.bind fun l => .ok (s.writeModule (l.zip b) v.dieNo)

/-- Supervisor-level forms, for device structures. -/
def State.devRead (s : State) (d : Nat) (asid : BitVec 16) (va : Dword) (n : Nat) : Acc (List Byte) :=
  (s.devSpan d asid .read va n).acc.bind fun l =>
    if s.poisonedAny (.die d) l then .fault .memoryError va else .ok (s.viewBytes (.die d) l)
def State.devWrite (s : State) (d : Nat) (asid : BitVec 16) (va : Dword) (b : List Byte) : Acc State :=
  (s.devSpan d asid .write va b.length).acc.bind fun l => .ok (s.writeModule (l.zip b))

/-- Where an address word points: a typed buffer of a core, or global memory. -/
inductive Place where
  | buf (k : Nat) (b : Buf) (a : Int)
  | gv (a : Int)
  deriving DecidableEq, Repr

def Place.plus (p : Place) (n : Int) : Place :=
  match p with
  | .buf k b a => .buf k b (a + n)
  | .gv a => .gv (a + n)

/-- R218: a read at a place; an element address outside 2^52 is a Translation-Fault. -/
def State.readPlace (s : State) (v : View) (d : Nat) (asid : BitVec 16) (p : Place) (n : Nat) : Acc (List Byte) :=
  match p with
  | .buf k b a =>
    (match (s.core k).poisonedAt b a.toNat n with
      | some t => .fault .memoryError (bufWord b t)
      | none => .ok ((s.core k).readBuf b a.toNat n))
  | .gv a =>
    if a < 0 ∨ 2 ^ 52 < a + n then .fault .translationFault (BitVec.ofInt 64 a)
    else s.engRead v d asid (BitVec.ofInt 64 a) n

def State.writePlace (s : State) (v : View) (d : Nat) (asid : BitVec 16) (p : Place) (l : List Byte) : Acc State :=
  match p with
  | .buf k b a => .ok (s.modCore k fun q => q.writeBuf b a.toNat l)
  | .gv a =>
    if a < 0 ∨ 2 ^ 52 < a + l.length then .fault .translationFault (BitVec.ofInt 64 a)
    else s.engWrite v d asid (BitVec.ofInt 64 a) l

/-- R343: what an access at a place leaves in the translation caches. -/
def State.placeFill (s : State) (v : View) (d : Nat) (asid : BitVec 16) (p : Place) (n : Nat) : State :=
  match p with
  | .buf .. => s
  | .gv a => s.engFill v d asid (BitVec.ofInt 64 a) n

/-! ### Unspecified bytes (R10) -/

/-- Free bytes, by occasion. -/
def freeBytes (occ n : Nat) : List Byte := (List.range n).map fun i => Config.freeByte (occ * 2 ^ 64 + i)

/-- R220, R10: what a command that was queued on ring `h` when its descriptor was rewritten leaves in slot `slot`
(DEDUCED, log entry 24). -/
def Core.spoil (q : Core) (occ : Nat) (h : BitVec 4) (slot : Nat) : Core :=
  let r := q.ring h
  q.writeBuf r.buf (r.slotAddr slot) (freeBytes occ r.slotBytes)

/-! ### Address and notify words (R202) -/

def wordSp (w : Dword) : Space := Space.ofCode (w.extractLsb' 62 2)
def wordNbr (w : Dword) : Bool := w.getLsbD 61
def wordPos (w : Dword) : Nat := (w.extractLsb' 59 2).toNat
def wordAddr (w : Dword) : Nat := (w.extractLsb' 0 52).toNat
/-- R202: a reserved bit, or NBR outside the A-buffer. -/
def wordBad (w : Dword) : Bool := decide (w.extractLsb' 52 7 ≠ 0) || (wordNbr w && decide (wordSp w ≠ .buf .ab))

/-- R202, R14: the core that an address word of core `k` reaches. -/
def wordCore (k : Nat) (w : Dword) : Nat := if wordNbr w then k / 4 * 4 + wordPos w else k

/-- The place that an address word of core `k` names. -/
def wordPlace (k : Nat) (w : Dword) : Place :=
  match wordSp w with
  | .gv => .gv (wordAddr w)
  | .buf b => .buf (wordCore k w) b (wordAddr w)

def noteEn (w : Dword) : Bool := w.getLsbD 0
def noteFlag (w : Dword) : BitVec 5 := w.extractLsb' 1 5
/-- The rank of SCOPE: 0 core, 1 yard, 2 die, 3 module, 4 system. -/
def noteScope (w : Dword) : Nat := (w.extractLsb' 6 3).toNat
def noteRemote (w : Dword) : Bool := w.getLsbD 9
def noteCore (w : Dword) : Nat := (w.extractLsb' 10 7).toNat
def noteAmt (w : Dword) : Nat := (w.extractLsb' 17 8).toNat + 1
/-- R202: a notify word that raises Reserved-Field. -/
def noteBad (w : Dword) : Bool :=
  decide (w.extractLsb' 25 39 ≠ 0) || decide (95 < noteCore w) || decide (4 < noteScope w) ||
    (!noteEn w && decide (w ≠ 0))

/-! ### The issuing party (R21, R226, R229) -/

/-- Who issues a command: the context, or the patron of the hand, whose windows apply. -/
structure Party where
  k : Nat
  by_ : Issuer
  card : Nat
  baddr : Dword
  ctx : Ctx
  /-- The ring role of an issuing hand. -/
  role : Option RingRole
  deriving DecidableEq, Repr

/-- A context that a card places on a core. -/
def Core.placed (q : Core) (card : Nat) : Option Ctx := (q.ctxs.find? fun (_, x) => decide (x.card = some card)).map Prod.snd

/-- R21: the window that applies to a buffer of a core. -/
def State.partyWindow (s : State) (p : Party) (k : Nat) (b : Buf) : Option Window :=
  if k = p.k then some (p.ctx.window b) else ((s.core k).placed p.card).map fun x => x.window b

/-- R21, R208 item 4. -/
def State.placeDenied (s : State) (p : Party) (pl : Place) : Bool :=
  match pl with
  | .buf k b _ => (s.partyWindow p k b).isNone
  | .gv _ => false

/-- R208 item 5: `n` bytes at a place. -/
def State.placeOut (s : State) (p : Party) (pl : Place) (n : Nat) : Option Int :=
  match pl with
  | .buf k b a => (match s.partyWindow p k b with | some w => w.outside a n | none => none)
  | .gv _ => none

/-- The context to which an issuer's records go (R227, R302); a work entry's stage has none. -/
def Issuer.ctx? : Issuer → Option (Nat × Nat)
  | .ctx k c => some (k, c)
  | .hand k _ patron => some (k, patron)
  | .entry _ _ _ => none

/-- Sends an engine record to the issuer's context. -/
def State.sendTo (s : State) (by_ : Issuer) (card : Nat) (r : EngRec) : State :=
  match by_.ctx? with
  | some (k, c) => s.sendRecord card k c r
  | none => s

/-- R25, R232: the ring role of a hand. -/
def roleRing : Role → RingRole
  | .load => .loadHand | .store => .storeHand

/-! ### Notifications (R216, R217) -/

/-- R217: core `k` holds a placed context of a card with the ASID whose kernel names the flag in FLAGMASK. -/
def State.noteMay (s : State) (k : Nat) (flag : BitVec 5) (asid : BitVec 16) : Bool :=
  (s.core k).ctxs.any fun (_, x) =>
    match x.card with
    | some n => decide ((s.card n).asid = asid) && (s.card n).hdr.getLsbD (256 + flag.toNat)
    | none => false

/-- R138, R232, R283: a store that is ordered before an engine command of core `k`: a fence of the issuing context orders it, or
the issuing hand has acquired it (DEDUCED, log entry 41). -/
def Transfer.follows (t : Transfer) (k : Nat) (p : PStore) : Bool :=
  match t.by_ with
  | .ctx k' c => decide (k' = k) && decide (p.c = c) && decide (p.ord < t.fenceOrd) && p.need.isSome
  | .hand k' _ _ => decide (k' = k) && decide (p.ord < t.fenceOrd)
  | .entry .. => false

/-- R283, R285: the release of what an engine command of core `k` signals: the stores ordered before it perform at the scope, of
rank `rank`. -/
def State.releaseAt (s : State) (k : Nat) (t : Transfer) (rank : Nat) : State :=
  if rank = 0 then s else s.performWhere k (decide (3 ≤ rank)) (t.follows k)

/-- What that release waits for (R323, R379). -/
def State.releaseWait (s : State) (k : Nat) (t : Transfer) (rank : Nat) : Option Await :=
  if rank = 0 then none else s.storesWait k (decide (3 ≤ rank)) (t.follows k)

/-- What the completion of a transfer waits for. -/
def State.noteWait (s : State) (k : Nat) (t : Transfer) : Option Await :=
  if noteEn t.notify then s.releaseWait k t (noteScope t.notify) else none

/-- R216: makes a transfer's enabled notification: a flag of core `k`, or a message to core CORE. -/
def State.notify (s : State) (k : Nat) (t : Transfer) (src : Nat) : State :=
  let w := t.notify
  let dst := t.by_.ctx?.getD (0, 0)
  if !noteEn w then s
  else
    let s := s.releaseAt k t (noteScope w)
    if !noteRemote w then s.postFlag k (noteFlag w) (noteAmt w)
    else
      { s with
        inbox := s.inbox ++
          [.notify (noteCore w) (noteFlag w) (noteAmt w) (s.card t.card).asid dst.1 dst.2 (BitVec.ofNat 4 t.ch) t.id src
            t.card t.baddr] }

/-! ### Transfers (R209, R216, R218) -/

def Core.chan (q : Core) (ch : Nat) : Chan := Tab.get {} q.chans ch

def Core.findTransfer (q : Core) (ch : Nat) (id : Dword) : Option Transfer :=
  q.transfers.find? fun t => decide (t.ch = ch) && decide (t.id = id)

/-- Replaces a transfer in flight. -/
def Core.putTransfer (q : Core) (t : Transfer) : Core :=
  { q with transfers := q.transfers.map fun x => if x.ch = t.ch ∧ x.id = t.id then t else x }

/-- R216: LOW, the lowest identifier that has not completed. -/
def lowOf (next : Dword) (ch : Nat) (l : List Transfer) : Dword :=
  l.foldl (fun m t => if t.ch = ch ∧ (next - m).toNat < (next - t.id).toNat then t.id else m) next

/-- R216: the transfer counts as complete. -/
def Core.dropTransfer (q : Core) (t : Transfer) : Core :=
  let l := q.transfers.filter fun x => !(decide (x.ch = t.ch) && decide (x.id = t.id))
  let c := q.chan t.ch
  { q with transfers := l, chans := Tab.put q.chans t.ch { c with low := lowOf c.next t.ch l } }

/-- R302: the source code of a transfer's records. -/
def TransKind.src : TransKind → BitVec 3
  | .tgather | .tupdate | .tprefetch => 2
  | .stage => 3
  | _ => 1

/-- An engine record of a transfer. -/
def Transfer.record (t : Transfer) (cause : Cause) (trap : Bool) (pay : List Dword) : EngRec :=
  { cause, trap, src := t.kind.src, ch := BitVec.ofNat 4 t.ch, id := t.id, baddr := t.baddr, pay }

/-- R216: a transfer of core `k` completes; its notification is made unless it ended in error. -/
def State.finishTransfer (s : State) (k : Nat) (t : Transfer) (good : Bool) : State :=
  let s := s.modCore k fun q => q.dropTransfer t
  if good then s.notify k t t.kind.src.toNat else s

/-- R218, R250: a transfer ends with an exception record. -/
def State.endTransfer (s : State) (k : Nat) (t : Transfer) (cause : Cause) (pay : List Dword) : State :=
  (s.finishTransfer k t false).sendTo t.by_ t.card (t.record cause true pay)

/-- R348: asks the page service for a page, once for each party that waits. -/
def State.askPage (s : State) (asid : BitVec 16) (va : Dword) (cow : Bool) (who : Waits) : State :=
  let r : PageReq := { asid, va, cow, who }
  if s.pageReqs.contains r then s else { s with pageReqs := s.pageReqs ++ [r] }

end Sys2Proof.Machine
end

