-- ==== Sys2Proof/Machine/Window.lean ====
section
/-! DEFINITION. The window record: its fields (R200, R201), its writes and its checks (R203, R204, R208), the traversal
(R206, R207, R212, R214). -/

namespace Sys2Proof.Machine

/-! ### Fields (R200) -/

abbrev WRec := BitVec 768

def recAddr (w : WRec) : Nat := (w.extractLsb' 0 52).toNat
def recFmt (w : WRec) : BitVec 4 := w.extractLsb' 64 4
def recSpace (w : WRec) : Space := Space.ofCode (w.extractLsb' 68 2)
def recNdim (w : WRec) : Nat := (w.extractLsb' 70 3).toNat
def recIlv (w : WRec) : Nat := (w.extractLsb' 73 3).toNat
def recClip (w : WRec) : Bool := w.getLsbD 76
def recFill (w : WRec) : Word := w.extractLsb' 128 32
def recNote (w : WRec) : Dword := (w.extractLsb' 160 25).setWidth 64
def recSzm (w : WRec) (d : Nat) : Nat := (w.extractLsb' (192 + 96 * d) 20).toNat
def recOrg (w : WRec) (d : Nat) : Int := (w.extractLsb' (212 + 96 * d) 20 : BitVec 20).toInt
def recExt (w : WRec) (d : Nat) : Nat := (w.extractLsb' (232 + 96 * d) 16).toNat + 1
def recStride (w : WRec) (d : Nat) : Int := (w.extractLsb' (248 + 96 * d) 40 : BitVec 40).toInt

/-- R201: element bytes; none where FMT is out of range. -/
def recSize (w : WRec) : Option Nat :=
  match Fmt.ofCode (recFmt w) with
  | some .fp32 | some .int32 => some 4
  | some .fp16 | some .bf16 | some .int16 => some 2
  | some .int64 => some 8
  | some .triple => some 12
  | some .int4 | none => none
  | some _ => some 1
def recElem (w : WRec) : Nat := (recSize w).getD 1

/-- R203: first bit and width of a `wset` field. -/
def wsetField (n : Nat) : Nat × Nat :=
  if n ≤ 2 then (64 * n, 64) else if n % 2 = 1 then (192 + 96 * ((n - 3) / 2), 56) else (248 + 96 * ((n - 4) / 2), 40)

/-- R203: writes a field with the low bits of a value. -/
def wsetRec (w : WRec) (n : Nat) (v : Dword) : WRec :=
  let (lo, len) := wsetField n
  let m : WRec := BitVec.ofNat 768 (2 ^ len - 1) <<< lo
  (w &&& ~~~m) ||| ((v.setWidth 768 <<< lo) &&& m)

/-- Dimensions of the record. -/
def recDims (w : WRec) : List Nat := List.range (min (recNdim w) 5 + 1)
/-- R206: window elements. -/
def recCount (w : WRec) : Nat := (recDims w).foldl (fun a d => a * recExt w d) 1

/-! ### Checks of the record alone (R204, R208 items 1 and 2) -/

/-- The lowest `wset` field with a non-zero reserved bit. -/
def recReserved (w : WRec) : Option Nat :=
  if w.extractLsb' 52 12 ≠ 0 then some 0
  else if w.extractLsb' 77 51 ≠ 0 then some 1
  else if w.extractLsb' 185 7 ≠ 0 then some 2
  else
    (List.range 12).findSome? fun i =>
      let f := i + 3
      let (lo, len) := wsetField f
      if (f - 3) / 2 ≤ recNdim w then none
      else if w.extractLsb' lo len ≠ 0 then some f else none

/-- R208 item 1: ranges that depend on the command. -/
def TransKind.recBad (t : TransKind) (w : WRec) : Bool :=
  match t with
  | .push | .pop => decide (recIlv w ≠ 0)
  | .stash _ => decide (recIlv w ≠ 0) || decide (recNdim w = 0)
  | .gather | .scatter false => decide (recNdim w = 0)
  | .scatter true =>
    decide (recNdim w = 0) ||
      !(match Fmt.ofCode (recFmt w) with | some .fp32 | some .bf16 | some .fp16 | some .int32 => true | _ => false)
  | _ => false

/-- The lowest `wset` field out of range: the dimensions' first one where the number of elements is too great, and that of FILL
where FILL exceeds the format (DESIGN CHOICE, log entry 46). -/
def recRange (w : WRec) (t : TransKind) : Option Nat :=
  if recNdim w > 5 || recIlv w > 4 || (recSize w).isNone || t.recBad w then some 1
  else if (recElem w ≤ 2 && decide ((recFill w).toNat / 2 ^ (8 * recElem w) ≠ 0)) || decide (95 < noteCore (recNote w)) then
    some 2
  else if 2 ^ 32 < recCount w then some 3
  else none

/-- R208 items 1 and 2. `lns` says whether LNS6 is accepted. -/
def recFault (w : WRec) (t : TransKind) (lns : Bool) : Option (Cause × Dword) :=
  match (recReserved w).or (recRange w t) with
  | some f => some (.windowRecordReserved, BitVec.ofNat 64 f)
  | none => if Fmt.ofCode (recFmt w) = some .lns6 ∧ !lns then some (.featureNotAccepted, 3) else none

/-! ### The traversal (R206) -/

/-- e(d) of element `n`. -/
def recIndex (w : WRec) (n d : Nat) : Nat := n / ((List.range d).foldl (fun a i => a * recExt w i) 1) % recExt w d

/-- R206: t(d) of element `n`; `idx` replaces e(1) in gathers and scatters. -/
def recT (w : WRec) (idx : Option Int) (n d : Nat) : Int :=
  match idx with
  | some i => if d = 1 then i + recOrg w 1 else recOrg w d + recIndex w n d
  | none => recOrg w d + recIndex w n d

def recIn (w : WRec) (idx : Option Int) (n : Nat) : Bool :=
  (recDims w).all fun d => decide (0 ≤ recT w idx n d) && decide (recT w idx n d ≤ recSzm w d)

def recWa (w : WRec) (idx : Option Int) (n : Nat) : Int :=
  (recDims w).foldl (fun a d => a + recT w idx n d * recStride w d) (recAddr w)

/-- R206: packed offset of packed place `n`. -/
def recPa (w : WRec) (n : Nat) : Nat :=
  let s := recElem w
  let e0 := recExt w 0
  if recIlv w = 0 then n * s
  else n / e0 % 2 ^ recIlv w * 65536 + n / e0 / 2 ^ recIlv w * (e0 * s) + n % e0 * s

/-- R212: the packed place of element `n` of a `dstash`: dimension 1 fastest. -/
def stashPlace (w : WRec) (n : Nat) : Nat :=
  let e0 := recExt w 0
  let e1 := recExt w 1
  n / e0 % e1 + e1 * (n % e0 + e0 * (n / (e0 * e1)))

/-- R214: the m-th element of a scatter: rows in ascending e(1), packed order within a row. -/
def scatterElem (w : WRec) (m : Nat) : Nat :=
  let e0 := recExt w 0
  let e1 := recExt w 1
  let r := recCount w / e1
  m % r % e0 + e0 * (m / r + e1 * (m % r / e0))

/-- R206: the packed side's bytes, as runs. -/
def recPacked (w : WRec) : List (Nat × Nat) :=
  let s := recElem w
  let e0 := recExt w 0
  let rows := recCount w / e0
  if recIlv w = 0 then [(0, recCount w * s)]
  else
    let k := 2 ^ recIlv w
    (List.range (min k rows)).map fun i => (i * 65536, (rows - i + k - 1) / k * (e0 * s))

/-- R201: FILL as an element. -/
def recFillBytes (w : WRec) : List Byte :=
  let l := leBytes 4 (recFill w).toNat
  match recElem w with
  | 8 => l ++ l
  | 12 => l ++ l ++ l
  | s => l.take s

/-- The in-range values of t(d); in a gather or scatter, t(1) may take any value inside the tensor. -/
def recSpanOf (w : WRec) (list : Bool) (d : Nat) : Int × Int :=
  if list && decide (d = 1) then (0, recSzm w 1)
  else (max 0 (recOrg w d), min (recOrg w d + (recExt w d - 1 : Nat)) (recSzm w d))

/-- R204: in-range elements. -/
def recInr (w : WRec) : Nat :=
  (recDims w).foldl (fun a d => let r := recSpanOf w false d; a * (r.2 - r.1 + 1).toNat) 1

/-- The lowest in-range element address, and the highest; none with no element in range. -/
def recExtent (w : WRec) (list : Bool) : Option (Int × Int) :=
  if (recDims w).any fun d => let r := recSpanOf w list d; decide (r.2 < r.1) then none
  else
    some ((recDims w).foldl (fun a d =>
      let r := recSpanOf w list d
      let x := r.1 * recStride w d
      let y := r.2 * recStride w d
      (a.1 + min x y, a.2 + max x y)) ((recAddr w : Int), (recAddr w : Int)))

/-- Every in-range element address. -/
def recAddrs (w : WRec) (list : Bool) : List Int :=
  (recDims w).foldl (fun l d =>
    let r := recSpanOf w list d
    l.flatMap fun a => (List.range (r.2 - r.1 + 1).toNat).map fun (i : Nat) => a + (r.1 + (i : Int)) * recStride w d) [(recAddr w : Int)]

/-- R208 item 5, R204 WHY 3: the lowest byte of an in-range element outside the buffer window. -/
def recOutside (w : WRec) (list : Bool) (win : Window) : Option Int :=
  match recExtent w list with
  | none => none
  | some (lo, hi) =>
    let s := recElem w
    if lo < win.base then some lo
    else if hi + s ≤ win.limit then none
    else
      (recAddrs w list).foldl (fun (m : Option Int) (a : Int) =>
        if a + s ≤ win.limit then m
        else match m with | none => some (max a win.limit) | some x => some (min x (max a win.limit))) none

/-- R204: the report of `wchk`; an element that ends past 2^52 counts as outside (DESIGN CHOICE, log entry 46). -/
def wchkReport (w : WRec) (lns : Bool) (x : Ctx) : Dword :=
  let (field, why) : Nat × Nat :=
    match recReserved w with
    | some f => (f, 1)
    | none =>
      match recRange w (.copy false) with
      | some f => (f, 2)
      | none =>
        if Fmt.ofCode (recFmt w) = some .lns6 ∧ !lns then (1, 5)
        else
          match recSpace w with
          | .buf b => if (recOutside w false (x.window b)).isSome then (0, 3) else (0, 0)
          | .gv =>
            match recExtent w false with
            | none => (0, 0)
            | some (lo, hi) => if lo < 0 ∨ 2 ^ 52 < hi + recElem w then (0, 4) else (0, 0)
  BitVec.ofNat 64
    (min (recInr w) (2 ^ 32 - 1) * 2 ^ 32 + field * 2 ^ 8 + why * 2 ^ 4 + (if why = 0 then 1 else 0))

/-- R207: the runs of the packed side start at multiples of 64 and are multiples of 64 bytes long, as the lengths of the
window's runs are; `pk` is the packed side's first byte when it lies in a typed buffer. -/
def recRunsFast (w : WRec) (pk : Option Nat) : Bool :=
  let s := recElem w
  let row := recExt w 0 * s
  (match pk with
    | none => true
    | some a => decide (a % 64 = 0) && decide ((if recIlv w = 0 then recCount w * s else row) % 64 = 0)) &&
  (match recSpace w with
    | .gv => true
    | .buf _ => decide (recStride w 0 = s) && decide (row % 64 = 0))

/-- R207: every buffer-side run starts at a multiple of 64 and is a multiple of 64 bytes long, the rows standing where the record
alone says. -/
def recFast (w : WRec) (pk : Option Nat) : Bool :=
  recRunsFast w pk &&
  (match recSpace w with
    | .gv => true
    | .buf _ =>
      decide (((recDims w).foldl (fun a d => a + recOrg w d * recStride w d) (recAddr w : Int)) % 64 = 0) &&
        (recDims w).all fun d => decide (d = 0) || decide (recExt w d = 1) || decide (recStride w d % 64 = 0))

/-- R207: a run of a window in a typed buffer whose rows an index list names starts at no multiple of 64: of the rows that have
an element in range (DEDUCED, log entry 24). -/
def recRowsSlow (w : WRec) (idx : List Int) : Bool :=
  let e0 := recExt w 0
  (match recSpace w with
    | .gv => false
    | .buf _ =>
      (List.range (recCount w / e0)).any fun r =>
        let i := some (idx.getD (recIndex w (e0 * r) 1) 0)
        ((List.range e0).any fun j => recIn w i (e0 * r + j)) && decide (recWa w i (e0 * r) % 64 ≠ 0))

end Sys2Proof.Machine
end

