-- ==== Sys2Proof/Machine/Copy.lean ====
section
/-! DEFINITION. The copy slots (R203 to R220): issue checks and acceptance of transfers, table commands and stages
(R208, R215, R248, R262), window records, ring descriptors. For each instruction, `slot…` says what its slot does in a bundle,
and `exec…` what a bundle does whose only slot that is not all zero it is. -/

namespace Sys2Proof.Machine

/-! ### Ring descriptors (R25) -/

def RingRole.code : RingRole → BitVec 3
  | .ctx => 0 | .loadHand => 1 | .storeHand => 2 | .dray => 3 | .mint => 4 | .vault => 5 | .neighbour => 6
def RingRole.ofCode (c : BitVec 3) : RingRole :=
  match c.toNat with
  | 0 => .ctx | 1 => .loadHand | 2 => .storeHand | 3 => .dray | 4 => .mint | 5 => .vault | _ => .neighbour

def bit1 (b : Bool) : BitVec 1 := if b then 1 else 0

/-- R25: the descriptor as 128 bits. -/
def Ring.pack (r : Ring) : BitVec 128 :=
  r.buf.code ++ r.base ++ r.slotsz ++ r.slots ++ r.head ++ r.tail ++ r.fill ++ r.prod.code ++ r.cons.code ++ r.pctx ++
    r.cctx ++ bit1 r.eosp ++ bit1 r.eosc ++ bit1 r.valid ++ (0 : BitVec 32)

/-- R220: the descriptor that `rdesc` writes over `old`; none where it raises Reserved-Field. With VALID = 1 the
end-of-stream bits are cleared. -/
def ringUnpack (w : BitVec 128) (old : Ring) : Option Ring :=
  match Buf.ofCode (w.extractLsb' 126 2) with
  | none => none
  | some buf =>
    let r : Ring :=
      { buf, base := w.extractLsb' 104 22, slotsz := w.extractLsb' 92 12, slots := w.extractLsb' 81 11
        head := w.extractLsb' 70 11, tail := w.extractLsb' 59 11, fill := w.extractLsb' 47 12
        prod := RingRole.ofCode (w.extractLsb' 44 3), cons := RingRole.ofCode (w.extractLsb' 41 3)
        pctx := w.extractLsb' 38 3, cctx := w.extractLsb' 35 3, eosp := w.getLsbD 34, eosc := w.getLsbD 33
        valid := w.getLsbD 32, eosSlot := if w.getLsbD 32 then none else old.eosSlot }
    if w.extractLsb' 0 32 ≠ 0 ∨ w.extractLsb' 104 6 ≠ 0 ∨ w.extractLsb' 44 3 = 7 ∨ w.extractLsb' 41 3 = 7 ∨
        r.slots < r.head ∨ r.slots < r.tail ∨ r.count < r.fill.toNat then none
    else some r

/-- R25: the lowest byte of the ring's region past the buffer or outside the window. -/
def Ring.regionOut (r : Ring) (x : Ctx) : Option Int :=
  let n := r.count * r.slotBytes
  let w := x.window r.buf
  (Window.outside { base := w.base, limit := min w.limit r.buf.size } r.base.toNat n)

/-! ### Acceptance of a transfer (R208, R209) -/

/-- A command as its slot or its hand gives it. -/
structure Issue where
  kind : TransKind
  ch : Nat
  wrec : WRec := 0
  xa : Dword := 0
  xb : Dword := 0
  h : BitVec 4 := 0
  im : IrMode := .dflt
  deriving DecidableEq, Repr

/-- How a command is received. -/
inductive IssueRes where
  | ok (s : State) (id : Dword)
  | fault (c : Cause) (tval : Dword)
  /-- The pool or the time buffer is full (R209, R213). -/
  | full
  /-- Its descriptor lies in global memory that it must wait for. -/
  | wait (dom : Option Await)
  deriving DecidableEq, Repr

def TransKind.usesRec : TransKind → Bool
  | .copy _ | .tcopy _ | .push | .pop | .stash _ | .gather | .scatter _ => true
  | _ => false
def TransKind.usesRing : TransKind → Bool
  | .push | .pushEos | .pop => true
  | _ => false
def TransKind.usesList : TransKind → Bool
  | .gather | .scatter _ => true
  | _ => false

/-- The notify word of a command (R205). -/
def Issue.note (i : Issue) : Dword :=
  match i.kind with
  | .copy _ | .tcopy _ | .push | .pop | .stash _ | .gather | .scatter _ => recNote i.wrec
  | .pushEos | .tgather | .tupdate | .tprefetch | .stage => i.xb

/-- R211: the reserved ring-select bits. -/
def ringSelBad (x : Dword) : Bool := decide (x.extractLsb' 62 2 ≠ 0) || decide (x.extractLsb' 52 7 ≠ 0)

/-- R208 item 3. A record's NOTE with EN = 0 and other bits set, or of a reserved SCOPE, is such a notify word; it is no field
range of item 1 (DESIGN CHOICE, log entry 46). -/
def Issue.wordsBad (i : Issue) : Bool :=
  noteBad i.note ||
    (match i.kind with
      | .copy _ | .tcopy _ | .stash _ => wordBad i.xa
      | .gather | .scatter _ => wordBad i.xa || wordBad i.xb || decide (wordSp i.xb = .gv)
      | .push | .pop => ringSelBad i.xa
      | .pushEos => false
      | .tgather | .tupdate | .tprefetch | .stage => wordBad i.xa || decide (wordSp i.xa = .gv))

/-- The core whose ring a ring command names (R211); `dpush.eos` has no ring-select bits. -/
def Issue.ringCore (i : Issue) (k : Nat) : Nat :=
  match i.kind with
  | .pushEos => k
  | _ => wordCore k i.xa

/-- R208 item 4, R211, R253. -/
def Issue.denied (i : Issue) (s : State) (p : Party) : Bool :=
  match i.kind with
  | .copy _ | .tcopy _ | .stash _ => s.placeDenied p (wordPlace p.k i.xa)
  | .gather | .scatter _ => s.placeDenied p (wordPlace p.k i.xa) || s.placeDenied p (wordPlace p.k i.xb)
  | .push | .pop | .pushEos =>
    let k := i.ringCore p.k
    decide (k ≠ p.k) && (((s.core k).placed p.card).isNone || decide (((s.core k).ring i.h).buf ≠ .ab))
  | .tgather => s.placeDenied p (wordPlace p.k i.xa) || decide (((s.core p.k).ring i.h).buf = .cb)
  | .tupdate | .tprefetch | .stage => s.placeDenied p (wordPlace p.k i.xa)

/-- R210: the ring commands in flight in the yard on a ring. -/
def State.ringQueued (s : State) (k : Nat) (h : BitVec 4) : Nat :=
  (List.range 4).foldl (fun n i =>
    n + ((s.core (k / 4 * 4 + i)).transfers.filter fun x => x.kind.usesRing && decide (x.ring = some (k, h.toNat))).length) 0

/-- R210: the slots that a ring command may fill or empty: that of its position, and those before it that commands ahead leave
when they end without an advance (R218). -/
def State.ringSlots (s : State) (k : Nat) (h : BitVec 4) (push : Bool) : List Nat :=
  let r := (s.core k).ring h
  (List.range (min (s.ringQueued k h + 1) r.count)).map fun p =>
    r.slotAddr (((if push then r.tail else r.head).toNat + p) % r.count)

/-- R208 item 5, R210, R211: the bytes that a ring command may touch of its slots lie outside the slot, or outside the window that
its card gives it on the ring's core; a ring that is not valid has no slots (DESIGN CHOICE, log entry 48). -/
def ringSlotOut (s : State) (i : Issue) (p : Party) : Option Int :=
  let k := i.ringCore p.k
  let r := (s.core k).ring i.h
  let at_ := r.slotAddr (if i.kind = .push then r.tail else r.head).toNat
  let n := recCount i.wrec * recElem i.wrec
  match i.kind with
  | .push | .pop =>
    (Window.outside { base := at_, limit := at_ + r.slotBytes } (at_ + wordAddr i.xa) n).or
      (if r.valid then
        (s.ringSlots k i.h (decide (i.kind = .push))).findSome? fun (a : Nat) => s.placeOut p (.buf k r.buf ((a : Int) + wordAddr i.xa)) n
      else none)
  | _ => none

/-- R208 item 5. -/
def Issue.outside (i : Issue) (s : State) (p : Party) : Option Int :=
  let win : Option Int :=
    if i.kind.usesRec then
      (match recSpace i.wrec with
        | .buf b => recOutside i.wrec i.kind.usesList (p.ctx.window b)
        | .gv => none)
    else none
  let packed : Option Int :=
    (recPacked i.wrec).findSome? fun r => s.placeOut p ((wordPlace p.k i.xa).plus r.1) r.2
  match i.kind with
  | .copy _ | .tcopy _ | .stash _ => win.or packed
  | .gather | .scatter _ => win.or (packed.or (s.placeOut p (wordPlace p.k i.xb) (4 * recExt i.wrec 1)))
  | .push | .pop | .pushEos => win.or (ringSlotOut s i p)
  | .tgather | .tupdate | .tprefetch | .stage => s.placeOut p (wordPlace p.k i.xa) 64

/-- R208 item 6, R210, R211, R229, R28. -/
def Issue.ringBad (i : Issue) (s : State) (p : Party) : Bool :=
  let k := i.ringCore p.k
  let r := (s.core k).ring i.h
  let may (x : RingRole) : Bool :=
    if k = p.k then decide (x = .dray) || decide (p.role = some x) else decide (x = .neighbour)
  match i.kind with
  | .push | .pushEos => r.badP (may r.prod)
  | .pop => r.badC (may r.cons)
  | .tgather => let r := (s.core p.k).ring i.h; r.badP (decide (r.prod = .vault))
  | _ => false

/-! ### Table command records (R247, R248) and stage descriptors (R261, R262) -/

def dw (l : List Dword) (i : Nat) : Dword := l.getD i 0
def bytesDwords (l : List Byte) : List Dword := (pieces 8 l.length l).map leDword

/-- R247: the fields of a table command record. -/
def tcKind (l : List Dword) : Nat := ((dw l 0).extractLsb' 0 2).toNat
def tcMode (l : List Dword) : PoolMode :=
  match ((dw l 0).extractLsb' 2 2).toNat with
  | 0 => .sum | 1 => .mean | 2 => .max | _ => .stats
def tcWen (l : List Dword) : Bool := (dw l 0).getLsbD 4
def tcSeq (l : List Dword) : Bool := (dw l 0).getLsbD 5
def tcEos (l : List Dword) : Bool := (dw l 0).getLsbD 6
def tcFence (l : List Dword) : Bool := (dw l 0).getLsbD 7
def tcTable (l : List Dword) : BitVec 16 := (dw l 0).extractLsb' 32 16
def tcProg (l : List Dword) : BitVec 8 := (dw l 0).extractLsb' 56 8
def tcNidx (l : List Dword) : Nat := ((dw l 1).extractLsb' 0 32).toNat
def tcNbags (l : List Dword) : Nat := ((dw l 1).extractLsb' 32 32).toNat
def tcConsts (l : List Dword) : List Word :=
  (List.range 6).map fun j => (dw l (5 + j / 2)).extractLsb' (32 * (j % 2)) 32

/-- R248 item 1: a `tprefetch` and the pooling program read no constant (R247, R252), which must then be zero; `kind` is the command's, `progs` the programs it may name, `rowprog` whether the card has a row image. -/
def tcBad (l : List Dword) (kind : Nat) (progs : List Nat) (rowprog : Bool) : Bool :=
  let g := decide (kind = 0)
  decide ((dw l 0).extractLsb' 48 8 ≠ 0) || decide ((dw l 0).extractLsb' 8 24 ≠ 0) || decide (tcKind l ≠ kind) ||
    !progs.contains (tcProg l).toNat || (decide ((tcProg l).toNat = 16) && !rowprog) ||
    (!g && (tcEos l || tcWen l || decide ((dw l 0).extractLsb' 2 2 ≠ 0))) || (decide (kind ≠ 1) && tcSeq l) ||
    decide (16777216 < tcNidx l) || (g && (decide (tcNbags l = 0) || decide (65536 < tcNbags l))) ||
    (!g && decide (tcNbags l ≠ 0)) || (decide (kind = 2) && decide (dw l 3 ≠ 0)) ||
    (!(g && tcWen l) && decide (dw l 4 ≠ 0)) ||
    ((decide (kind = 2) || decide ((tcProg l).toNat = 0)) && (tcConsts l).any fun c => decide (c ≠ 0)) || wordBad (dw l 2) || wordBad (dw l 3) || wordBad (dw l 4)

/-- R248 item 3: the index, offset and weight lists. -/
def tcLists (k : Nat) (l : List Dword) : List (Place × Nat) :=
  [(wordPlace k (dw l 2), 8 * tcNidx l)] ++
    (if tcKind l = 0 then [(wordPlace k (dw l 3), 4 * (tcNbags l + 1))] else []) ++
    (if tcWen l then [(wordPlace k (dw l 4), 4 * tcNidx l)] else [])

/-- R248: the checks of a record; a list in the buffer of a core where the card has no context is refused between the feature and
the bounds (DESIGN CHOICE, log entry 48). -/
def tcCheck (s : State) (p : Party) (l : List Dword) (kind : Nat) (progs : List Nat) : Option (Cause × Dword) :=
  if tcBad l kind progs ((s.card p.card).hdr.getLsbD 251) then some (.reservedField, 0)
  else if kind = 0 ∧ tcMode l = .stats ∧ !s.accepted 2 then some (.featureNotAccepted, 2)
  else if (tcLists p.k l).any fun x => s.placeDenied p x.1 then some (.bufferPermission, 0)
  else ((tcLists p.k l).findSome? fun x => s.placeOut p x.1 x.2).map fun t => (.bufferBounds, BitVec.ofInt 64 t)

/-- R238: the programs that each table command may name. -/
def TransKind.progs : TransKind → List Nat
  | .tgather => [0, 16]
  | .tupdate => [1, 2, 3, 4, 16]
  | _ => [0]
def TransKind.code : TransKind → Nat
  | .tgather => 0
  | .tupdate => 1
  | _ => 2

def sdStage (l : List Dword) : Nat := ((dw l 0).extractLsb' 60 4).toNat
def sdGroup (l : List Dword) : Nat := ((dw l 0).extractLsb' 52 8).toNat
def sdRing (l : List Dword) : BitVec 4 := (dw l 0).extractLsb' 48 4
def sdBlk (l : List Dword) : Nat := ((dw l 0).extractLsb' 24 24).toNat + 1
def sdIr (l : List Dword) : Nat := ((dw l 0).extractLsb' 22 2).toNat

/-- R261, R262: Reserved-Field of a stage descriptor. -/
def sdBad (l : List Dword) : Bool :=
  let st := sdStage l
  let col := decide (st = 14) || decide (st = 15)
  !(decide (st = 1) || decide (st = 2) || decide (st = 3) || col) || decide ((dw l 0).extractLsb' 0 22 ≠ 0) ||
    (List.range 4).any (fun i => decide (dw l (4 + i) ≠ 0)) || (decide (st ≠ 2) && decide (sdRing l ≠ 0)) ||
    (col && decide ((dw l 0).extractLsb' 24 24 ≠ 0)) || (col && decide (sdGroup l ≠ 0)) ||
    (!(decide (st = 2) || decide (st = 3)) && decide (sdIr l ≠ 0)) || decide (sdIr l = 3) ||
    (decide (st ≠ 1) && decide (dw l 2 ≠ 0)) || (col && decide (dw l 1 ≠ 0)) || wordBad (dw l 1) || wordBad (dw l 2) ||
    (match st with
      | 1 => decide ((dw l 3).extractLsb' 32 32 ≠ 0) || decide (16777216 < (dw l 3).toNat)
      | 2 => decide (dw l 3 ≠ 0)
      | 3 => decide ((dw l 3).extractLsb' 32 32 ≠ 0)
      | 14 => decide (dw l 3 &&& 0xFFFFFFFFF000FF00 ≠ 0)
      | _ => decide (dw l 3 &&& 0x00000000FFFFEC00 ≠ 0))

/-- R263: bytes of BUCKET's counts, and of the whole output area. -/
def bucketCounts (d : Nat) : Nat := up64 (4 * (d + 1))
def bucketArea (d nidx : Nat) : Nat := bucketCounts d + 12 * nidx
/-- R259: D of a group entry. -/
def groupD (e : Dword) : Nat := (e.extractLsb' 8 12).toNat + 1
def groupRank (e : Dword) : Nat := (e.extractLsb' 32 12).toNat
def groupValid (e : Dword) : Bool := e.getLsbD 0
/-- R259: XTMO in cycles; none without a limit. -/
def groupXtmo (e : Dword) : Option Nat :=
  let x := (e.extractLsb' 44 20).toNat
  if x = 0 then none else some (1024 * x)
def State.group (s : State) (g : Nat) : Dword := Tab.get 0 s.groups g

/-- The descriptor and, for GATHER and UPDATE, the record it names. -/
inductive StageRead where
  | ok (l : List Dword)
  | fault (c : Cause) (tval : Dword)
  | wait (dom : Option Await)
  deriving DecidableEq, Repr

/-- R138: a fence of the issuing context holds its next global access. -/
def Party.fenced (p : Party) (s : State) : Bool :=
  match p.by_ with
  | .ctx k c => (s.core k).fenced c
  | _ => false

/-- R262: reads and checks a stage descriptor at issue; a record in global memory is read after what a fence orders before
it (R138). -/
def stageCheck (s : State) (p : Party) (l : List Dword) : StageRead :=
  let fin (l : List Dword) (x : Option (Cause × Dword)) : StageRead :=
    match x with
    | some (c, v) => .fault c v
    | none => .ok l
  if sdBad l then .fault .reservedField 0
  else if s.placeDenied p (wordPlace p.k (dw l 1)) || s.placeDenied p (wordPlace p.k (dw l 2)) then .fault .bufferPermission 0
  else
    match sdStage l with
    | 1 =>
      let n := (dw l 3).toNat
      let out := (s.placeOut p (wordPlace p.k (dw l 1)) (8 * n)).or
        (s.placeOut p (wordPlace p.k (dw l 2)) (bucketArea (groupD (s.group (sdGroup l))) n))
      fin l (out.map fun t => (.bufferBounds, BitVec.ofInt 64 t))
    | 2 | 3 =>
      (match s.placeOut p (wordPlace p.k (dw l 1)) 64 with
        | some t => .fault .bufferBounds (BitVec.ofInt 64 t)
        | none =>
          if p.fenced s && decide (wordSp (dw l 1) = .gv) then .wait none
          else
          match s.readPlace (.core p.k) (dieOf p.k) (s.card p.card).asid (wordPlace p.k (dw l 1)) 64 with
          | .fault c v => .fault c v
          | .page w v => .fault (if w then .cowWrite else .pageAbsent) v
          | .wait d => .wait d
          | .ok b =>
            let r := bytesDwords b
            match tcCheck s p r (sdStage l - 2) (if sdStage l = 2 then [0] else [1, 2, 3, 4]) with
            | some (c, v) => .fault c v
            | none =>
              let ring := (s.core p.k).ring (sdRing l)
              if sdStage l = 2 ∧ ring.buf = .cb then .fault .bufferPermission 0
              else if sdStage l = 2 ∧ ring.badP (decide (ring.prod = .vault)) then
                .fault .ringProtocol ((sdRing l).setWidth 64)
              else .ok (l ++ r))
    | _ => .ok l

/-! ### Acceptance -/

/-- R213: `dtcopy` commands that still wait in the time buffer. -/
def Core.timeBuffer (q : Core) : Nat :=
  (q.transfers.filter fun t => !t.started && (match t.kind with | .tcopy _ => true | _ => false)).length

/-- R205, R106: what IRMODE resolves to. -/
def irTrap (im : IrMode) (card : Card) : Bool :=
  match im with
  | .dflt => card.irtrap
  | .cont => false
  | .trap => true

/-- R138, R232: the committed stores of the issuer's core that may be ordered before a command: all of them, or what the issuing
hand has acquired. -/
def Party.orders (p : Party) (s : State) : Nat :=
  match p.by_ with
  | .hand k r _ => if r = .load then (s.core k).loadHand.acq else (s.core k).storeHand.acq
  | _ => (s.core p.k).storeCtr

/-- R207: the command takes the shuffle path, as far as its record and its packed side say. -/
def Issue.slow (i : Issue) : Bool :=
  let pk : Option Nat :=
    if i.kind.usesRing then some (wordAddr i.xa)
    else match wordSp i.xa with | .gv => none | .buf _ => some (wordAddr i.xa)
  i.kind.usesRec && !(if i.kind.usesList then recRunsFast i.wrec pk else recFast i.wrec pk)

/-- R209: takes the identifier and enters the pool. -/
def accept (s : State) (p : Party) (i : Issue) (recd : List Dword) (trap : Bool) : State × Dword :=
  let q := s.core p.k
  let c := q.chan i.ch
  let ring := if i.kind.usesRing then some (i.ringCore p.k, i.h.toNat)
    else if i.kind = .tgather then some (p.k, i.h.toNat) else none
  let t : Transfer :=
    { ch := i.ch, id := c.next, kind := i.kind, wrec := i.wrec, xa := i.xa, xb := i.xb, by_ := p.by_, baddr := p.baddr
      card := p.card, notify := i.note, order := s.issueCtr, fenceOrd := p.orders s, ring, recd, irtrap := trap
      counted := i.slow || !i.kind.usesList }
  let s := s.modCore p.k fun q =>
    { q with
      transfers := q.transfers ++ [t], chans := Tab.put q.chans i.ch { c with next := c.next + 1 }
      dshc := if i.slow then q.dshc + 1 else q.dshc }
  ({ s with issueCtr := s.issueCtr + 1 }, c.next)

/-- R208, R209, R215, R248, R262: the checks in order, then acceptance. -/
def issueTransfer (s : State) (p : Party) (i : Issue) : IssueRes :=
  let enter (recd : List Dword) (trap : Bool) : IssueRes :=
    let q := s.core p.k
    if Config.transferPool ≤ q.transfers.length then .full
    else if (match i.kind with | .tcopy _ => true | _ => false) && decide (Config.timeBuffer ≤ q.timeBuffer) then .full
    else let r := accept s p i recd trap; .ok r.1 r.2
  match (if i.kind.usesRec then recFault i.wrec i.kind (s.accepted 3) else none) with
  | some (c, v) => .fault c v
  | none =>
    if i.wordsBad then .fault .reservedField 0
    else if i.denied s p then .fault .bufferPermission 0
    else
      match i.outside s p with
      | some t => .fault .bufferBounds (BitVec.ofInt 64 t)
      | none =>
        let record : List Dword :=
          match wordPlace p.k i.xa with
          | .buf k b a => bytesDwords ((s.core k).readBuf b a.toNat 64)
          | .gv _ => []
        match i.kind with
        | .tgather | .tupdate | .tprefetch =>
          (match tcCheck s p record i.kind.code i.kind.progs with
            | some (c, v) => .fault c v
            | none =>
              if i.ringBad s p then .fault .ringProtocol (i.h.setWidth 64)
              else enter record (irTrap i.im (s.card p.card)))
        | .stage =>
          (match stageCheck s p record with
            | .fault c v => .fault c v
            | .wait d => .wait d
            | .ok l =>
              enter l (match sdIr l with | 0 => (s.card p.card).irtrap | 2 => true | _ => false))
        | _ => if i.ringBad s p then .fault .ringProtocol (i.h.setWidth 64) else enter [] false

/-! ### The slots -/

/-- The context of a bundle as the issuing party. -/
def Bx.party (b : Bx) : Party :=
  { k := b.k, by_ := .ctx b.k b.c, card := (b.ctx.card).getD 0, baddr := b.pc, ctx := b.ctx, role := none }

/-- R209: a transfer from a copy slot. -/
def transSlot (g : Guard) (i : Bx → Issue) : SlotFn := fun b =>
  b.guarded g <|
    match issueTransfer b.s b.party (i b) with
    | .ok s _ => .done { b with s }
    | .fault c v => .fault c v
    | .full => .stall .pool 0 none
    | .wait d => .stall .global 0 d

/-- The record that a slot names, as the earlier slots left it. -/
def Bx.wrec (b : Bx) (w : BitVec 2) : WRec := b.ctx.wrec w

/-! ### The instructions -/

/-- R203, R84: writes one field of window record W; two writes of one field in a bundle set WCONF. -/
def slotWset (g : Guard) (fld : BitVec 4) (w : BitVec 2) (xa : Reg) : SlotFn :=
  fun b =>
    b.guarded g <|
      let v := wsetRec (b.wrec w) fld.toNat (b.x xa)
      let b := b.modCtx fun x =>
        { x with w := Tab.put x.w w.toNat v, wconf := x.wconf || b.wsets.contains (w, fld) }
      .done { b with wsets := b.wsets ++ [(w, fld)] }
def execWset (g : Guard) (c1 : Bool) (fld : BitVec 4) (w : BitVec 2) (xa : Reg) (s : State) : Host.Outcome State Fault Refusal :=
  .next (s.issueOne (if c1 then 5 else 4) (slotWset g fld w xa))

/-- R204: Checks a window record and writes a report without faulting. -/
def slotWchk (g : Guard) (w : BitVec 2) (xd : Reg) : SlotFn :=
  fun b =>
    b.guarded g (.done (b.land 1 (.x xd) (.dword (wchkReport (b.wrec w) (b.s.accepted 3) b.ctx))))
def execWchk (g : Guard) (c1 : Bool) (w : BitVec 2) (xd : Reg) (s : State) : Host.Outcome State Fault Refusal :=
  .next (s.issueOne (if c1 then 5 else 4) (slotWchk g w xd))

/-- R212: Starts a transfer that copies a window into a packed region. -/
def slotDcopyRd (g : Guard) (ch : BitVec 4) (w : BitVec 2) (xa : Reg) : SlotFn :=
  transSlot g fun b => { kind := .copy false, ch := ch.toNat, wrec := b.wrec w, xa := b.x xa }
def execDcopyRd (g : Guard) (c1 : Bool) (ch : BitVec 4) (w : BitVec 2) (xa : Reg) (s : State) : Host.Outcome State Fault Refusal :=
  .next (s.issueOne (if c1 then 5 else 4) (slotDcopyRd g ch w xa))

/-- R213: Starts a timed window-to-packed copy that begins no earlier than a TIMEBASE value. -/
def slotDtcopyRd (g : Guard) (ch : BitVec 4) (w : BitVec 2) (xa xb : Reg) : SlotFn :=
  fun b => b.need 4 <| (transSlot g fun b => { kind := .tcopy false, ch := ch.toNat, wrec := b.wrec w, xa := b.x xa, xb := b.x xb }) b
def execDtcopyRd (g : Guard) (c1 : Bool) (ch : BitVec 4) (w : BitVec 2) (xa xb : Reg) (s : State) : Host.Outcome State Fault Refusal :=
  .next (s.issueOne (if c1 then 5 else 4) (slotDtcopyRd g ch w xa xb))

/-- R212: Starts a transfer that copies a packed region into a window. -/
def slotDcopyWr (g : Guard) (ch : BitVec 4) (w : BitVec 2) (xa : Reg) : SlotFn :=
  transSlot g fun b => { kind := .copy true, ch := ch.toNat, wrec := b.wrec w, xa := b.x xa }
def execDcopyWr (g : Guard) (c1 : Bool) (ch : BitVec 4) (w : BitVec 2) (xa : Reg) (s : State) : Host.Outcome State Fault Refusal :=
  .next (s.issueOne (if c1 then 5 else 4) (slotDcopyWr g ch w xa))

/-- R213: Starts a timed packed-to-window copy. -/
def slotDtcopyWr (g : Guard) (ch : BitVec 4) (w : BitVec 2) (xa xb : Reg) : SlotFn :=
  fun b => b.need 4 <| (transSlot g fun b => { kind := .tcopy true, ch := ch.toNat, wrec := b.wrec w, xa := b.x xa, xb := b.x xb }) b
def execDtcopyWr (g : Guard) (c1 : Bool) (ch : BitVec 4) (w : BitVec 2) (xa xb : Reg) (s : State) : Host.Outcome State Fault Refusal :=
  .next (s.issueOne (if c1 then 5 else 4) (slotDtcopyWr g ch w xa xb))

/-- R210: Starts a transfer of a window into the next ring slot, with a producer advance at completion. -/
def slotDpush (g : Guard) (ch : BitVec 4) (w : BitVec 2) (h : BitVec 4) (xa : Reg) : SlotFn :=
  transSlot g fun b => { kind := .push, ch := ch.toNat, wrec := b.wrec w, xa := b.x xa, h }
def execDpush (g : Guard) (c1 : Bool) (ch : BitVec 4) (w : BitVec 2) (h : BitVec 4) (xa : Reg) (s : State) : Host.Outcome State Fault Refusal :=
  .next (s.issueOne (if c1 then 5 else 4) (slotDpush g ch w h xa))

/-- R210: Pushes the end-of-stream token into a ring. -/
def slotDpushEos (g : Guard) (ch h : BitVec 4) (xb : Reg) : SlotFn :=
  transSlot g fun b => { kind := .pushEos, ch := ch.toNat, xb := b.x xb, h }
def execDpushEos (g : Guard) (c1 : Bool) (ch h : BitVec 4) (xb : Reg) (s : State) : Host.Outcome State Fault Refusal :=
  .next (s.issueOne (if c1 then 5 else 4) (slotDpushEos g ch h xb))

/-- R210: Starts a transfer of a ring slot into a window, with a consumer advance at completion. -/
def slotDpop (g : Guard) (ch : BitVec 4) (w : BitVec 2) (h : BitVec 4) (xa : Reg) : SlotFn :=
  transSlot g fun b => { kind := .pop, ch := ch.toNat, wrec := b.wrec w, xa := b.x xa, h }
def execDpop (g : Guard) (c1 : Bool) (ch : BitVec 4) (w : BitVec 2) (h : BitVec 4) (xa : Reg) (s : State) : Host.Outcome State Fault Refusal :=
  .next (s.issueOne (if c1 then 5 else 4) (slotDpop g ch w h xa))

/-- R212: Starts a window read into a corner-turned packed region. -/
def slotDstashRd (g : Guard) (ch : BitVec 4) (w : BitVec 2) (xa : Reg) : SlotFn :=
  transSlot g fun b => { kind := .stash false, ch := ch.toNat, wrec := b.wrec w, xa := b.x xa }
def execDstashRd (g : Guard) (c1 : Bool) (ch : BitVec 4) (w : BitVec 2) (xa : Reg) (s : State) : Host.Outcome State Fault Refusal :=
  .next (s.issueOne (if c1 then 5 else 4) (slotDstashRd g ch w xa))

/-- R212: Starts a write from a corner-turned packed region into a window. -/
def slotDstashWr (g : Guard) (ch : BitVec 4) (w : BitVec 2) (xa : Reg) : SlotFn :=
  transSlot g fun b => { kind := .stash true, ch := ch.toNat, wrec := b.wrec w, xa := b.x xa }
def execDstashWr (g : Guard) (c1 : Bool) (ch : BitVec 4) (w : BitVec 2) (xa : Reg) (s : State) : Host.Outcome State Fault Refusal :=
  .next (s.issueOne (if c1 then 5 else 4) (slotDstashWr g ch w xa))

/-- R212: Starts a window read whose dimension-1 rows come from an index list. -/
def slotDgather (g : Guard) (ch : BitVec 4) (w : BitVec 2) (xa xb : Reg) : SlotFn :=
  transSlot g fun b => { kind := .gather, ch := ch.toNat, wrec := b.wrec w, xa := b.x xa, xb := b.x xb }
def execDgather (g : Guard) (c1 : Bool) (ch : BitVec 4) (w : BitVec 2) (xa xb : Reg) (s : State) : Host.Outcome State Fault Refusal :=
  .next (s.issueOne (if c1 then 5 else 4) (slotDgather g ch w xa xb))

/-- R214: Starts a window write by index list, in which the higher list position wins. -/
def slotDscatter (g : Guard) (ch : BitVec 4) (w : BitVec 2) (xa xb : Reg) : SlotFn :=
  transSlot g fun b => { kind := .scatter false, ch := ch.toNat, wrec := b.wrec w, xa := b.x xa, xb := b.x xb }
def execDscatter (g : Guard) (c1 : Bool) (ch : BitVec 4) (w : BitVec 2) (xa xb : Reg) (s : State) : Host.Outcome State Fault Refusal :=
  .next (s.issueOne (if c1 then 5 else 4) (slotDscatter g ch w xa xb))

/-- R214: Starts a window write by index list that sums rows with the same destination. -/
def slotDscatterComb (g : Guard) (ch : BitVec 4) (w : BitVec 2) (xa xb : Reg) : SlotFn :=
  transSlot g fun b => { kind := .scatter true, ch := ch.toNat, wrec := b.wrec w, xa := b.x xa, xb := b.x xb }
def execDscatterComb (g : Guard) (c1 : Bool) (ch : BitVec 4) (w : BitVec 2) (xa xb : Reg) (s : State) : Host.Outcome State Fault Refusal :=
  .next (s.issueOne (if c1 then 5 else 4) (slotDscatterComb g ch w xa xb))

/-- R247: Reads a table command record and sends a pooled gather to the table's Vault. -/
def slotTgather (g : Guard) (ch h : BitVec 4) (xa xb : Reg) (im : IrMode) : SlotFn :=
  transSlot g fun b => { kind := .tgather, ch := ch.toNat, xa := b.x xa, xb := b.x xb, h, im }
def execTgather (g : Guard) (c1 : Bool) (ch h : BitVec 4) (xa xb : Reg) (im : IrMode) (s : State) : Host.Outcome State Fault Refusal :=
  .next (s.issueOne (if c1 then 5 else 4) (slotTgather g ch h xa xb im))

/-- R247: Reads a table command record and sends an optimiser update to the table's Vault. -/
def slotTupdate (g : Guard) (ch : BitVec 4) (xa xb : Reg) (im : IrMode) : SlotFn :=
  transSlot g fun b => { kind := .tupdate, ch := ch.toNat, xa := b.x xa, xb := b.x xb, im }
def execTupdate (g : Guard) (c1 : Bool) (ch : BitVec 4) (xa xb : Reg) (im : IrMode) (s : State) : Host.Outcome State Fault Refusal :=
  .next (s.issueOne (if c1 then 5 else 4) (slotTupdate g ch xa xb im))

/-- R247: Reads a table command record and sends Till promotions of the listed rows to the Vault. -/
def slotTprefetch (g : Guard) (ch : BitVec 4) (xa xb : Reg) : SlotFn :=
  fun b => b.need 5 <| (transSlot g fun b => { kind := .tprefetch, ch := ch.toNat, xa := b.x xa, xb := b.x xb }) b
def execTprefetch (g : Guard) (c1 : Bool) (ch : BitVec 4) (xa xb : Reg) (s : State) : Host.Outcome State Fault Refusal :=
  .next (s.issueOne (if c1 then 5 else 4) (slotTprefetch g ch xa xb))

/-- R261: Hands an Exchange stage descriptor to the die's Exchange as a transfer. -/
def slotXsub (g : Guard) (ch : BitVec 4) (xa xb : Reg) : SlotFn :=
  transSlot g fun b => { kind := .stage, ch := ch.toNat, xa := b.x xa, xb := b.x xb }
def execXsub (g : Guard) (c1 : Bool) (ch : BitVec 4) (xa xb : Reg) (s : State) : Host.Outcome State Fault Refusal :=
  .next (s.issueOne (if c1 then 5 else 4) (slotXsub g ch xa xb))

/-- R220: Writes a ring descriptor at commit, after checking it. -/
def slotRdesc (g : Guard) (h : BitVec 4) (xa xb : Reg) : SlotFn :=
  fun b =>
    b.guarded g <|
      match ringUnpack (b.x xb ++ b.x xa) (b.core.ring h) with
      | none => .fault .reservedField 0
      | some r =>
        match (if r.valid then r.regionOut b.ctx else none) with
        | some t => .fault .bufferBounds (BitVec.ofInt 64 t)
        | none =>
          .done (b.modCore fun q =>
            q.setRing h { r with stampT := b.s.issueCtr, stampM := q.mint.nextId, stampS := b.s.stageCtr })
def execRdesc (g : Guard) (c1 : Bool) (h : BitVec 4) (xa xb : Reg) (s : State) : Host.Outcome State Fault Refusal :=
  .next (s.issueOne (if c1 then 5 else 4) (slotRdesc g h xa xb))

/-- R220: Reads one half of a ring descriptor. -/
def slotRget (g : Guard) (xd : Reg) (h : BitVec 4) (half : Bool) : SlotFn :=
  fun b =>
    b.guarded g (.done (b.land 1 (.x xd) (.dword ((b.core.ring h).pack.extractLsb' (if half then 64 else 0) 64))))
def execRget (g : Guard) (c1 : Bool) (xd : Reg) (h : BitVec 4) (half : Bool) (s : State) : Host.Outcome State Fault Refusal :=
  .next (s.issueOne (if c1 then 5 else 4) (slotRget g xd h half))

/-- R219: Reads LOW or NEXT of a channel, or DSHC. -/
def slotDlow (g : Guard) (xd : Reg) (ch : BitVec 4) (sel : BitVec 2) : SlotFn :=
  fun b =>
    b.guarded g <|
      let c : Chan := Tab.get {} b.chans ch.toNat
      .done (b.land 1 (.x xd) (.dword (if sel = 0 then c.low else if sel = 1 then c.next else b.dshc)))
def execDlow (g : Guard) (c1 : Bool) (xd : Reg) (ch : BitVec 4) (sel : BitVec 2) (s : State) : Host.Outcome State Fault Refusal :=
  .next (s.issueOne (if c1 then 5 else 4) (slotDlow g xd ch sel))

end Sys2Proof.Machine
end

