-- ==== Sys2Proof/Machine/Vector.lean ====
section
/-! DEFINITION. The vector slots (Vector and statistics instructions, R143 to R165). For each operation, `slot…` says what
its syllable does in a bundle, and `exec…` what a bundle does whose only slot that is not all zero it is. -/

namespace Sys2Proof.Machine

/-! ### Elements of lanes (R143) -/

/-- The binary format of a float format code. -/
def floatFmt (f : Fmt) : Option FloatFmt :=
  match f with
  | .fp32 => some .fp32 | .fp16 => some .fp16 | .bf16 => some .bf16 | .e4m3 => some .e4m3 | .e5m2 => some .e5m2
  | _ => none

/-- R143: the width of an element. -/
def fmtWidth (f : Fmt) : Nat :=
  match f with
  | .int4 => 4 | .lns6 => 6 | .e4m3 | .e5m2 | .int8 | .uint8 | .e8m0 => 8 | .fp16 | .bf16 | .int16 => 16
  | .fp32 | .int32 => 32 | .int64 => 64 | .triple => 96

/-- R143: the bits of an element; bits above its width are ignored. -/
def elemBits (f : Fmt) (w : Word) : Nat := w.toNat % 2 ^ fmtWidth f

/-- R45: whether an integer format is unsigned. -/
def fmtUnsigned (f : Fmt) : Bool := decide (f = .uint8)

/-- R45: the least and the greatest value of an integer format. -/
def intMin (f : Fmt) : Int := if fmtUnsigned f then 0 else -(2 ^ (fmtWidth f - 1) : Nat)
def intMax (f : Fmt) : Int := if fmtUnsigned f then 2 ^ fmtWidth f - 1 else 2 ^ (fmtWidth f - 1) - 1

/-- R143: an integer element. -/
def elemInt (f : Fmt) (w : Word) : Int :=
  let v := elemBits f w
  if fmtUnsigned f || decide (v < 2 ^ (fmtWidth f - 1)) then v else (v : Int) - 2 ^ fmtWidth f

/-- R62, R48: a float element, with input flushing as `fz` says. -/
def elemEx (f : Fmt) (fz : Bool) (w : Word) : Ex :=
  match floatFmt f with
  | some ff => ff.decodeFz fz (elemBits f w)
  | none => .nan false

/-- R63, integer from integer: the lane of an integer result. -/
def intLane (f : Fmt) (sat : Bool) (v : Int) : Word :=
  let v := if sat then clampInt (intMin f) (intMax f) v else v
  BitVec.ofNat 32 (v % 2 ^ fmtWidth f).toNat

/-- R145: a float result in a lane. -/
def floatLane (f : Fmt) (rm : Rnd) (sat fo : Bool) (x : Ex × Flags) : Word × Flags :=
  match floatFmt f with
  | some ff =>
    let (v, fl) := ff.round rm sat fo x.1
    (BitVec.ofNat 32 v, x.2 ||| fl)
  | none => (0, 0)

/-- A lane of a vector register. -/
def lane (v : VReg) (l : Nat) : Word := v.getD l 0
/-- A lane of a statistics register. -/
def qlane (v : QReg) (l : Nat) : Triple := v.getD l Triple.empty

/-- R145: whether GMASK enables lane `l`. -/
def laneOn (m : BitVec 8) (l : Nat) : Bool := m.getLsbD (l / 16)

/-- R145: the lanes of an operation, computed in enabled groups only, and the union of their events. -/
def lanes {α : Type} (m : BitVec 8) (dflt : α) (f : Nat → α × Flags) : List α × Flags :=
  let r := (List.range 128).map fun l => if laneOn m l then f l else (dflt, 0)
  (r.map Prod.fst, r.foldl (fun a x => a ||| x.2) 0)

/-! ### What a syllable samples (R145) -/

/-- The operation's rounding mode. -/
def vRm (a : VArgs) (b : Bx) : Rnd := selRm a.w.rm b.fpcr
def vFi (a : VArgs) (b : Bx) : Bool := selFl a.w.fli (fpcrFzi b.fpcr)
def vFo (a : VArgs) (b : Bx) : Bool := selFl a.w.flo (fpcrFzo b.fpcr)
def vA (a : VArgs) (b : Bx) : VReg := b.core.vreg a.va
def vB (a : VArgs) (b : Bx) : VReg := b.core.vreg a.vb
def vD (a : VArgs) (b : Bx) : VReg := b.core.vreg a.vd
def qA (a : VArgs) (b : Bx) : QReg := b.core.qreg (a.va.setWidth 4)
def qB (a : VArgs) (b : Bx) : QReg := b.core.qreg (a.vb.setWidth 4)
def qD (a : VArgs) (b : Bx) : QReg := b.core.qreg (a.vd.setWidth 4)

/-- R83 order 3, R147: the features that a syllable's formats and operation need; then its guard. -/
def vecSlot (a : VArgs) (stat : Bool) (f : Bx → SlotRes) : SlotFn := fun b =>
  if (a.w.fa = .lns6 ∨ a.w.fb = .lns6 ∨ a.w.fd = .lns6) ∧ !b.s.accepted 3 then .fault .featureNotAccepted 3
  else if stat && !b.s.accepted 2 then .fault .featureNotAccepted 2
  else b.guarded a.g (f b)

/-- R145: a result into a vector register. -/
def toV (a : VArgs) (lat : Nat) (f : Bx → Nat → Word × Flags) : SlotFn :=
  vecSlot a false fun b =>
    let (l, fl) := lanes a.w.gmask 0 (f b)
    .done (b.land lat (.v a.vd a.w.gmask) (.lanes l) fl (fpcrTraps b.fpcr))

/-- R160: a statistics result into a vector register. -/
def toVq (a : VArgs) (lat : Nat) (f : Bx → Nat → Word × Flags) : SlotFn :=
  vecSlot a true fun b =>
    let (l, fl) := lanes a.w.gmask 0 (f b)
    .done (b.land lat (.v a.vd a.w.gmask) (.lanes l) fl (fpcrTraps b.fpcr))

/-- R160: a result into a statistics register. -/
def toQ (a : VArgs) (lat : Nat) (f : Bx → Nat → Triple × Flags) : SlotFn :=
  vecSlot a true fun b =>
    let (l, fl) := lanes a.w.gmask Triple.empty (f b)
    .done (b.land lat (.q (a.vd.setWidth 4) a.w.gmask) (.triples l) fl (fpcrTraps b.fpcr))

/-! ### Arithmetic (R150, R151) -/

/-- Whether the operation works on integers. -/
def vInt (f : Fmt) : Bool := (floatFmt f).isNone

/-- R150: a lane operation: `fi` on integers, `ff` on exact values; `c` is vd's element. -/
def arith (a : VArgs) (lat : Nat) (fi : Int → Int → Int → Int) (ff : Rnd → Ex → Ex → Ex → Ex × Flags) : SlotFn :=
  toV a lat fun b l =>
    let w := a.w
    if vInt w.fa then
      (intLane w.fd w.sat (fi (elemInt w.fa (lane (vA a b) l)) (elemInt w.fb (lane (vB a b) l)) (elemInt w.fd (lane (vD a b) l))), 0)
    else
      let z := vFi a b
      floatLane w.fd (vRm a b) w.sat (vFo a b)
        (ff (vRm a b) (elemEx w.fa z (lane (vA a b) l)) (elemEx w.fb z (lane (vB a b) l)) (elemEx w.fd z (lane (vD a b) l)))

/-- R150: an operation with the immediate IMM0, read as FP32 or INT32. -/
def arithImm (a : VArgs) (fi : Int → Int → Int) (ff : Rnd → Ex → Ex → Ex × Flags) : SlotFn :=
  toV a 3 fun b l =>
    let w := a.w
    if vInt w.fa then (intLane w.fd w.sat (fi (elemInt w.fa (lane (vA a b) l)) w.imm0.toInt), 0)
    else
      let z := vFi a b
      floatLane w.fd (vRm a b) w.sat (vFo a b) (ff (vRm a b) (elemEx w.fa z (lane (vA a b) l)) (elemEx .fp32 z w.imm0))

/-- R150: |a| and −a; a NaN gives the canonical NaN, Invalid when it signals (R49) (DEDUCED, log entry 14). -/
def signOp (f : Ex → Ex) (x : Ex) : Ex × Flags :=
  match x with
  | .nan s => (.nan false, if s then fIV else 0)
  | y => (f y, 0)
def Ex.abs (x : Ex) : Ex := if x.isNeg then x.neg else x

/-- R150: `vabs` and `vneg`: only the sign of a value changes, with no flag; no output flush and no saturation of an
infinity changes it further, but in E4M3, which has none, SAT gives ±448 (R63) (DEDUCED, log entry 14). -/
def signLanes (a : VArgs) (fi : Int → Int) (f : Ex → Ex) : SlotFn :=
  toV a 3 fun b l =>
    let w := a.w
    if vInt w.fa then (intLane w.fd w.sat (fi (elemInt w.fa (lane (vA a b) l))), 0)
    else
      let r := signOp f (elemEx w.fa (vFi a b) (lane (vA a b) l))
      ((floatLane w.fd (vRm a b) (w.sat && (!r.1.isInf || decide (w.fd = .e4m3))) false (r.1, 0)).1, r.2)

/-- R151: an operation on 32 bits (DEDUCED, log entry 14). -/
def bitOp (a : VArgs) (f : Word → Word → Word) : SlotFn :=
  toV a 3 fun b l => (f (lane (vA a b) l) (lane (vB a b) l), 0)
def sh5 (w : Word) : Nat := (w.extractLsb' 0 5).toNat

/-! ### Compare, select, conversions (R152 to R154) -/

/-- R152: the conditions. -/
inductive VCc where
  | eq | ne | lt | le | gt | ge | un
  deriving DecidableEq, Repr

/-- R152: a condition on the order of two values: below, equal or above. -/
def VCc.holds (c : VCc) (o : Int) : Bool :=
  match c with
  | .eq => decide (o = 0) | .ne => decide (o ≠ 0) | .lt => decide (o < 0) | .le => decide (o ≤ 0)
  | .gt => decide (o > 0) | .ge => decide (o ≥ 0) | .un => false

/-- R152: a float compare. -/
def VCc.float (c : VCc) (x y : Ex) : Bool × Flags :=
  let quiet := c = .eq ∨ c = .ne ∨ c = .un
  if x.isNan || y.isNan then (decide (c = .ne ∨ c = .un), if quiet then snanFlag x y else fIV)
  else (c.holds (x.cmp y), 0)

/-- R152. -/
def cmpOp (a : VArgs) (c : VCc) : SlotFn :=
  toV a 3 fun b l =>
    let x := lane (vA a b) l; let y := lane (vB a b) l
    let (t, fl) :=
      if vInt a.w.fa then (c.holds (elemInt a.w.fa x - elemInt a.w.fb y), (0 : Flags))
      else c.float (elemEx a.w.fa (vFi a b) x) (elemEx a.w.fb (vFi a b) y)
    (if t then 0xFFFFFFFF else 0, fl)

/-- R50: the exact value of an E8M0 code other than 0xFF. -/
def e8m0Ex (e : Nat) : Ex := .num false 1 ((e : Int) - 127) false

/-- R62: a conversion from `f` to `g` widens. -/
def widening (f g : Fmt) : Bool :=
  match floatFmt f, floatFmt g with
  | some x, some y => x.widensTo y
  | _, _ => false

/-- R153: the conversion of one element; a widening one never flushes its output (R62). -/
def convert (a : VArgs) (b : Bx) (x : Word) : Word × Flags :=
  let w := a.w
  let out := floatLane w.fd (vRm a b) w.sat (vFo a b)
  if w.fa = .e8m0 then
    (if elemBits .e8m0 x = 255 then (nan32, 0) else floatLane .fp32 .rne false false (e8m0Ex (elemBits .e8m0 x), 0))
  else if w.fd = .lns6 then
    let (v, fl) := toLns6 (elemEx w.fa (vFi a b) x)
    (BitVec.ofNat 32 v, fl)
  else if w.fa = .lns6 then out (lnsLin (elemBits .lns6 x), 0)
  else if vInt w.fa then
    (if vInt w.fd then (intLane w.fd w.sat (elemInt w.fa x), 0) else out (Ex.ofInt (elemInt w.fa x), 0))
  else if vInt w.fd then
    let (v, fl) := roundToInt (intMin w.fd) (intMax w.fd) (vRm a b) (elemEx w.fa (vFi a b) x)
    (intLane w.fd false v, fl)
  else floatLane w.fd (vRm a b) w.sat (vFo a b && !widening w.fa w.fd) (elemEx w.fa (vFi a b) x, 0)

/-- R154. -/
def blockScale (a : VArgs) (b : Bx) (x e : Word) : Word × Flags :=
  let e := elemBits .e8m0 e
  let nan := floatLane a.w.fd .rne false false (.nan false, 0)
  if e = 255 then (nan.1, 0)
  else
    floatLane a.w.fd (vRm a b) a.w.sat (vFo a b)
      (match elemEx a.w.fa (vFi a b) x with
        | .nan s => (.nan false, if s then fIV else 0)
        | y => (y.scale2 ((e : Int) - 127), 0))

/-! ### Moves and group reductions (R155) -/

/-- R155: an element moved unchanged; `src` names the lane. -/
def moveOp (a : VArgs) (lat : Nat) (src : Nat → Nat) : SlotFn :=
  toV a lat fun b l => (BitVec.ofNat 32 (elemBits a.w.fa (lane (vA a b) (src l))), 0)

/-- One round of a tree: pairs merged in order. -/
def treeRound {α : Type} (op : α → α → α × Flags) : List α → List α × Flags
  | x :: y :: t =>
    let (z, f) := op x y
    let (r, g) := treeRound op t
    (z :: r, f ||| g)
  | l => (l, 0)

/-- R155, R161: the tree over 2^n values. -/
def tree {α : Type} (op : α → α → α × Flags) : Nat → List α → List α × Flags
  | 0, l => (l, 0)
  | n + 1, l =>
    let (r, f) := treeRound op l
    let (t, g) := tree op n r
    (t, f ||| g)

/-- R155: `vgred` with the step `op`. -/
def gredOp (a : VArgs) (op : Rnd → Ex → Ex → Ex × Flags) : SlotFn :=
  toV a 9 fun b l =>
    let step (x y : Word × Bool) : (Word × Bool) × Flags :=
      let (w, f) := floatLane .fp32 (vRm a b) false (vFo a b)
        (op (vRm a b) (elemEx .fp32 x.2 x.1) (elemEx .fp32 y.2 y.1))
      ((w, false), f)
    let start := ((vA a b).drop (16 * (l / 16))).take 16 |>.map fun w => (w, vFi a b)
    let (r, f) := tree step 4 start
    (((r.head?).map Prod.fst).getD 0, f)

/-! ### Special functions (R156) -/

/-- R156: σ from SFP. -/
def sigma (sfp : Half) : Ex := if sfp = 0 then .num false 1 0 false else FloatFmt.bf16.decode sfp.toNat

/-- R156: a unary function of σ × a. -/
def specialOp (a : VArgs) (fn : SpFn) : SlotFn :=
  toV a 10 fun b l =>
    let x := elemEx a.w.fa (vFi a b) (lane (vA a b) l)
    let y := match x with
      | .nan s => Ex.nan s
      | x => (Ex.mul (sigma a.w.sfp) x).1
    floatLane a.w.fd (vRm a b) a.w.sat (vFo a b) (fn.apply y)

/-! ### Buffer and ring access (R157, R158, R164) -/

/-- R157: bytes of an element in memory; INT4 counts half bytes and has none of its own. -/
def elemBytes (f : Fmt) : Nat := (fmtWidth f + 7) / 8

/-- R157: the first byte of lane `l` from the start of a contiguous run. -/
def packOff (f : Fmt) (l : Nat) : Nat := if f = .int4 then l / 2 else l * elemBytes f

/-- R157: the base address of an access. -/
def vecEa (a : VArgs) (b : Bx) : Nat := (b.x a.w.xb + sextD a.w.imm0).toNat

/-- R157: the address of lane `l`: of `vld` and `vst`. -/
def memAddr (a : VArgs) (b : Bx) (l : Nat) : Int :=
  if a.w.imm1 = 0 then (vecEa a b : Int) + packOff a.w.fd l else (vecEa a b : Int) + l * a.w.imm1.toInt
/-- R157: of `vldx` and `vstx`. -/
def idxAddr (a : VArgs) (b : Bx) (l : Nat) : Int :=
  (vecEa a b : Int) + (lane (vA a b) l).toNat * elemBytes a.w.fd

/-- The least of a list of addresses. -/
def leastOf (l : List Int) : Option Int :=
  match l with
  | [] => none
  | x :: t => some (t.foldl min x)

/-- R157, R21, R334: the fault of an access of `n` bytes for each enabled lane. -/
def vecFault (a : VArgs) (b : Bx) (buf : Buf) (n : Nat) (addr : Nat → Int) (load : Bool) : Option (Cause × Dword) :=
  let on := (List.range 128).filter (laneOn a.w.gmask)
  match leastOf (on.filterMap fun l => (b.ctx.window buf).outside (addr l) n) with
  | some t => some (.bufferBounds, BitVec.ofInt 64 t)
  | none =>
    if !load || b.core.poison.isEmpty then none
    else
      (leastOf (on.filterMap fun l => (b.core.poisonedAt buf (addr l).toNat n).map fun (t : Nat) => (t : Int))).map fun t =>
        (.memoryError, bufWord buf t.toNat)

/-- R157, R46: the element that lane `l` loads from its bytes. -/
def loadLane (f : Fmt) (l : Nat) (bytes : List Byte) : Word :=
  let v := leNat bytes
  if f = .int4 then BitVec.ofNat 32 (v / 16 ^ (l % 2) % 16) else BitVec.ofNat 32 (v % 2 ^ fmtWidth f)

/-- R157, R46: the bytes that lane `l` stores; an even INT4 lane stores its byte's two nibbles, an odd one nothing. -/
def storeLane (f : Fmt) (d : VReg) (l : Nat) : List Byte :=
  if f = .int4 then
    if l % 2 = 1 then []
    else leBytes 1 (elemBits f (lane d l) + 16 * elemBits f (lane d (l + 1)))
  else leBytes (elemBytes f) (elemBits f (lane d l))

/-- A vector load. -/
def vecLoad (a : VArgs) (addr : Bx → Nat → Int) : SlotFn :=
  vecSlot a false fun b =>
    let n := elemBytes a.w.fd
    match vecFault a b a.w.buf n (addr b) true with
    | some (c, t) => .fault c t
    | none =>
      let (l, _) := lanes a.w.gmask (0 : Word) fun l => (loadLane a.w.fd l (b.bufLoad a.w.buf (addr b l).toNat n), 0)
      .done (b.land 5 (.v a.vd a.w.gmask) (.lanes l))

/-- The stores of the enabled lanes, in ascending order: bytes of the higher lane are kept (R157). -/
def storeLanes (a : VArgs) (buf : Buf) (b : Bx) (d : VReg) (addr : Nat → Int) : Bx :=
  ((List.range 128).filter (laneOn a.w.gmask)).foldl
    (fun b l =>
      let bytes := storeLane a.w.fd d l
      if bytes.isEmpty then b else b.bufStore buf (addr l).toNat bytes) b

/-- A vector store. -/
def vecStore (a : VArgs) (addr : Bx → Nat → Int) : SlotFn :=
  vecSlot a false fun b =>
    match vecFault a b a.w.buf (elemBytes a.w.fd) (addr b) false with
    | some (c, t) => .fault c t
    | none => .done (storeLanes a a.w.buf b (vD a b) (addr b))

/-- R158: the ring slot touched, and each lane's offset in it. -/
def ringSlot (r : Ring) (k : Nat) (read : Bool) : Nat := ((if read then r.head.toNat else r.tail.toNat) + k) % r.count
/-- DEDUCED, log entry 15. -/
def ringOff (a : VArgs) (b : Bx) (l : Nat) : Int := ((b.x a.w.xb).toNat : Int) + a.w.imm0.toInt + packOff a.w.fd l

/-- R158: the checks of a ring access. -/
def ringFault (a : VArgs) (b : Bx) (r : Ring) (read : Bool) : Option (Cause × Dword) :=
  let k := a.w.imm1.toNat
  let n := elemBytes a.w.fd
  let slotWin : Window := { base := 0, limit := r.slotBytes }
  let on := (List.range 128).filter (laneOn a.w.gmask)
  let ctxNo : BitVec 3 := BitVec.ofNat 3 b.c
  match leastOf (on.filterMap fun l => slotWin.outside (ringOff a b l) n) with
  | some d => some (.bufferBounds, BitVec.ofInt 64 ((r.slotAddr (ringSlot r k read) : Int) + d))
  | none =>
    let role := if read then decide (r.cons = .ctx) && decide (r.cctx = ctxNo)
      else decide (r.prod = .ctx) && decide (r.pctx = ctxNo)
    let ended := if read then r.eosc || (r.eosp && (match r.eosPos with | some p => decide (p ≤ k) | none => false)) else r.eosp
    if !r.valid || !role || decide (k > r.slots.toNat) || ended then some (.ringProtocol, a.w.ring.setWidth 64) else none

/-- R158: the trap value of a ring access that waits too long (DEDUCED, log entry 15). -/
def ringTval (h : BitVec 4) : Dword := 0x20 ||| h.setWidth 64

/-- R158: a ring access: its checks, its stall, then `go` with the slot's buffer address. -/
def ringAccess (a : VArgs) (read : Bool) (go : Bx → Ring → Nat → SlotRes) : SlotFn :=
  vecSlot a false fun b =>
    let r := b.core.ring a.w.ring
    let k := a.w.imm1.toNat
    match ringFault a b r read with
    | some (c, t) => .fault c t
    | none =>
      let ready := if read then decide (k + 1 ≤ r.fill.toNat) else decide (k + 1 + r.fill.toNat ≤ r.count)
      if !ready then .stall (.ring b.slot) (ringTval a.w.ring) none
      else go b r (r.slotAddr (ringSlot r k read))

/-! ### Statistics (R74 to R78, R160 to R164) -/

/-- R75: the classes of a triple. -/
inductive QClass where
  | invalid | empty | normal
  deriving DecidableEq, Repr

/-- R75: whether a word is NaN or infinite. -/
def notFinite (w : Word) : Bool := !(f32 w).isFinite
/-- R75: the class depends on W alone. -/
def qclass (t : Triple) : QClass :=
  if notFinite t.w then .invalid
  else if (f32 t.w).isZero then .empty
  else if (f32 t.w).isNeg then .invalid
  else .normal

def plus (a b : Word) : Word := (add32 a b).1
def minus (a b : Word) : Word := (sub32 a b).1
def times (a b : Word) : Word := (mul32 a b).1
def overW (a b : Word) : Word := (div32 a b).1

/-- R76. -/
def qupdate (t : Triple) (x w : Word) : Triple × Flags :=
  if qclass t = .invalid then (Triple.invalid, 0)
  else if (f32 w).isZero then (t, 0)
  else if notFinite x || notFinite w then (Triple.invalid, fIV)
  else
    let s := if qclass t = .empty then ⟨0, 0, 0⟩ else t
    let w1 := plus s.w w
    if notFinite w1 || ((f32 w1).isNeg && !(f32 w1).isZero) then (Triple.invalid, fIV)
    else if (f32 w1).isZero then (Triple.empty, 0)
    else
      let d := minus x s.mu
      let mu1 := plus s.mu (times d (overW w w1))
      let m2 := plus s.m2 (times (times w d) (minus x mu1))
      if notFinite mu1 || notFinite m2 then (Triple.invalid, fIV) else (⟨w1, mu1, m2⟩, 0)

/-- R77; the first operand is A. -/
def qmerge (a b : Triple) : Triple × Flags :=
  if qclass a = .invalid ∨ qclass b = .invalid then (Triple.invalid, 0)
  else if qclass a = .empty then (b, 0)
  else if qclass b = .empty then (a, 0)
  else
    let w := plus a.w b.w
    if notFinite w then (Triple.invalid, fIV)
    else
      let d := minus b.mu a.mu
      let mu := plus a.mu (times d (overW b.w w))
      let g := overW (times a.w b.w) w
      let m2 := plus (plus a.m2 b.m2) (times (times d d) g)
      if notFinite mu || notFinite m2 then (Triple.invalid, fIV) else (⟨w, mu, m2⟩, 0)

/-- R78, R162: what an EMPTY triple reads as. -/
def emptyRead (en : Bool) : Word := if en then 0x7FC000E5 else 0

/-- R78: the variance of a normal triple, over a divisor; of a NaN it is the canonical NaN (DEDUCED, log entry 14). -/
def varianceOver (m2 d : Word) : Word := max32 (overW m2 d) 0

/-- R78: the reciprocal standard deviation of a normal triple, with the IV and DZ of its steps. -/
def rsdOf (t : Triple) (eps : Word) : Word × Flags :=
  let f0 := (div32 t.m2 t.w).2
  let (v, f1) := add32 (varianceOver t.m2 t.w) eps
  let (r, f2) := sqrt32 v
  if (f32 r).isZero then (0x7F800000, ((f0 ||| f1 ||| f2) &&& fIV) ||| fDZ)
  else
    let (q, f3) := div32 one32 r
    (q, (f0 ||| f1 ||| f2 ||| f3) &&& fIV)

/-- R78, R162: the quantity that EXSEL selects; EXSEL 0 of an EMPTY lane is W as stored (R78). Only DZ is set (R160)
(DEDUCED, log entry 14). -/
def qextract (t : Triple) (sel : Nat) (eps : Word) (en : Bool) : Word × Flags :=
  match qclass t with
  | .invalid => (0x7FC000E6, 0)
  | .empty => (if sel = 0 then t.w else emptyRead en, 0)
  | .normal =>
    match sel with
    | 0 => (t.w, 0)
    | 1 => (t.mu, 0)
    | 2 => (varianceOver t.m2 t.w, 0)
    | 3 => (if Ex.below (f32 one32) (f32 t.w) then varianceOver t.m2 (minus t.w one32) else emptyRead en, 0)
    | 4 => ((sqrt32 (varianceOver t.m2 t.w)).1, 0)
    | _ => let (r, f) := rsdOf t eps; (r, f &&& fDZ)

/-- R78, R163: normalisation; γ and β when given (DEDUCED, log entry 14). -/
def qnormalise (x : Ex) (t : Triple) (eps : Word) (en : Bool) (gb : Option (Word × Word)) : Word × Flags :=
  let mean := (qextract t 1 eps en).1
  let (rsd, f0) := if qclass t = .normal then rsdOf t eps else qextract t 5 eps en
  let (d, f1) := rneOp (Ex.sub .rne x (f32 mean))
  let (z, f2) := mul32 d rsd
  let keep : Flags := fIV ||| fDZ
  match gb with
  | none => (z, (f0 ||| f1 ||| f2) &&& keep)
  | some (g, h) =>
    let (z, f3) := mul32 z g
    let (z, f4) := add32 z h
    (z, (f0 ||| f1 ||| f2 ||| f3 ||| f4) &&& keep)

/-- R160: a source element widened exactly to FP32. -/
def widen (f : Fmt) (w : Word) : Word :=
  if f = .fp32 then w else BitVec.ofNat 32 (rne32 (elemEx f false w)).1

/-- R164: the address of lane `l`. -/
def qAddr (a : VArgs) (b : Bx) (l : Nat) : Int := (vecEa a b : Int) + 12 * l

def tripleBytes (t : Triple) : List Byte := leBytes 4 t.w.toNat ++ leBytes 4 t.mu.toNat ++ leBytes 4 t.m2.toNat
def bytesTriple (l : List Byte) : Triple := ⟨leWord (l.take 4), leWord ((l.drop 4).take 4), leWord ((l.drop 8).take 4)⟩

/-! ### The instructions -/

/-- R150: Adds two vectors lane by lane. -/
def slotVadd (a : VArgs) : SlotFn :=
  arith a 3 (fun x y _ => x + y) fun m x y _ => Ex.add m x y
def execVadd (a : VArgs) (s : State) : Host.Outcome State Fault Refusal :=
  .next (s.issueOne (if a.v1 then 2 else 1) (slotVadd a))

/-- R150: Subtracts two vectors lane by lane. -/
def slotVsub (a : VArgs) : SlotFn :=
  arith a 3 (fun x y _ => x - y) fun m x y _ => Ex.sub m x y
def execVsub (a : VArgs) (s : State) : Host.Outcome State Fault Refusal :=
  .next (s.issueOne (if a.v1 then 2 else 1) (slotVsub a))

/-- R150: Multiplies two vectors lane by lane. -/
def slotVmul (a : VArgs) : SlotFn :=
  arith a 3 (fun x y _ => x * y) fun _ x y _ => Ex.mul x y
def execVmul (a : VArgs) (s : State) : Host.Outcome State Fault Refusal :=
  .next (s.issueOne (if a.v1 then 2 else 1) (slotVmul a))

/-- R150: Computes a × b + c with one rounding. -/
def slotVfma (a : VArgs) : SlotFn :=
  arith a 4 (fun x y c => x * y + c) fun m x y c => Ex.fma m x y c
def execVfma (a : VArgs) (s : State) : Host.Outcome State Fault Refusal :=
  .next (s.issueOne (if a.v1 then 2 else 1) (slotVfma a))

/-- R150: Computes c − a × b with one rounding. -/
def slotVfnma (a : VArgs) : SlotFn :=
  arith a 4 (fun x y c => c - x * y) fun m x y c => Ex.fma m x.neg y c
def execVfnma (a : VArgs) (s : State) : Host.Outcome State Fault Refusal :=
  .next (s.issueOne (if a.v1 then 2 else 1) (slotVfnma a))

/-- R150: Takes the lane minimum. -/
def slotVmin (a : VArgs) : SlotFn :=
  arith a 3 (fun x y _ => min x y) fun _ x y _ => Ex.maxMin false x y
def execVmin (a : VArgs) (s : State) : Host.Outcome State Fault Refusal :=
  .next (s.issueOne (if a.v1 then 2 else 1) (slotVmin a))

/-- R150: Takes the lane maximum. -/
def slotVmax (a : VArgs) : SlotFn :=
  arith a 3 (fun x y _ => max x y) fun _ x y _ => Ex.maxMin true x y
def execVmax (a : VArgs) (s : State) : Host.Outcome State Fault Refusal :=
  .next (s.issueOne (if a.v1 then 2 else 1) (slotVmax a))

/-- R150: Takes the lane absolute value. -/
def slotVabs (a : VArgs) : SlotFn :=
  signLanes a (fun x => x.natAbs) Ex.abs
def execVabs (a : VArgs) (s : State) : Host.Outcome State Fault Refusal :=
  .next (s.issueOne (if a.v1 then 2 else 1) (slotVabs a))

/-- R150: Negates each lane. -/
def slotVneg (a : VArgs) : SlotFn :=
  signLanes a (fun x => -x) Ex.neg
def execVneg (a : VArgs) (s : State) : Host.Outcome State Fault Refusal :=
  .next (s.issueOne (if a.v1 then 2 else 1) (slotVneg a))

/-- R150: Adds the IMM0 constant to each lane. -/
def slotVaddi (a : VArgs) : SlotFn := arithImm a (fun x i => x + i) Ex.add
def execVaddi (a : VArgs) (s : State) : Host.Outcome State Fault Refusal :=
  .next (s.issueOne (if a.v1 then 2 else 1) (slotVaddi a))

/-- R150: Multiplies each lane by the IMM0 constant. -/
def slotVmuli (a : VArgs) : SlotFn := arithImm a (fun x i => x * i) fun _ x i => Ex.mul x i
def execVmuli (a : VArgs) (s : State) : Host.Outcome State Fault Refusal :=
  .next (s.issueOne (if a.v1 then 2 else 1) (slotVmuli a))

/-- R151: Ands INT32 lanes. -/
def slotVand (a : VArgs) : SlotFn := bitOp a fun x y => x &&& y
def execVand (a : VArgs) (s : State) : Host.Outcome State Fault Refusal :=
  .next (s.issueOne (if a.v1 then 2 else 1) (slotVand a))

/-- R151: Ors INT32 lanes. -/
def slotVor (a : VArgs) : SlotFn := bitOp a fun x y => x ||| y
def execVor (a : VArgs) (s : State) : Host.Outcome State Fault Refusal :=
  .next (s.issueOne (if a.v1 then 2 else 1) (slotVor a))

/-- R151: Xors INT32 lanes. -/
def slotVxor (a : VArgs) : SlotFn := bitOp a fun x y => x ^^^ y
def execVxor (a : VArgs) (s : State) : Host.Outcome State Fault Refusal :=
  .next (s.issueOne (if a.v1 then 2 else 1) (slotVxor a))

/-- R151: Shifts INT32 lanes left. -/
def slotVshl (a : VArgs) : SlotFn := bitOp a fun x y => x <<< sh5 y
def execVshl (a : VArgs) (s : State) : Host.Outcome State Fault Refusal :=
  .next (s.issueOne (if a.v1 then 2 else 1) (slotVshl a))

/-- R151: Shifts INT32 lanes right logically. -/
def slotVshr (a : VArgs) : SlotFn := bitOp a fun x y => x >>> sh5 y
def execVshr (a : VArgs) (s : State) : Host.Outcome State Fault Refusal :=
  .next (s.issueOne (if a.v1 then 2 else 1) (slotVshr a))

/-- R151: Shifts INT32 lanes right arithmetically. -/
def slotVsra (a : VArgs) : SlotFn := bitOp a fun x y => x.sshiftRight (sh5 y)
def execVsra (a : VArgs) (s : State) : Host.Outcome State Fault Refusal :=
  .next (s.issueOne (if a.v1 then 2 else 1) (slotVsra a))

/-- R152: Writes an all-ones mask where the lanes are equal. -/
def slotVcmpEq (a : VArgs) : SlotFn := cmpOp a .eq
def execVcmpEq (a : VArgs) (s : State) : Host.Outcome State Fault Refusal :=
  .next (s.issueOne (if a.v1 then 2 else 1) (slotVcmpEq a))

/-- R152: Writes an all-ones mask where the lanes differ. -/
def slotVcmpNe (a : VArgs) : SlotFn := cmpOp a .ne
def execVcmpNe (a : VArgs) (s : State) : Host.Outcome State Fault Refusal :=
  .next (s.issueOne (if a.v1 then 2 else 1) (slotVcmpNe a))

/-- R152: Writes an all-ones mask where a < b. -/
def slotVcmpLt (a : VArgs) : SlotFn := cmpOp a .lt
def execVcmpLt (a : VArgs) (s : State) : Host.Outcome State Fault Refusal :=
  .next (s.issueOne (if a.v1 then 2 else 1) (slotVcmpLt a))

/-- R152: Writes an all-ones mask where a ≤ b. -/
def slotVcmpLe (a : VArgs) : SlotFn := cmpOp a .le
def execVcmpLe (a : VArgs) (s : State) : Host.Outcome State Fault Refusal :=
  .next (s.issueOne (if a.v1 then 2 else 1) (slotVcmpLe a))

/-- R152: Writes an all-ones mask where a > b. -/
def slotVcmpGt (a : VArgs) : SlotFn := cmpOp a .gt
def execVcmpGt (a : VArgs) (s : State) : Host.Outcome State Fault Refusal :=
  .next (s.issueOne (if a.v1 then 2 else 1) (slotVcmpGt a))

/-- R152: Writes an all-ones mask where a ≥ b. -/
def slotVcmpGe (a : VArgs) : SlotFn := cmpOp a .ge
def execVcmpGe (a : VArgs) (s : State) : Host.Outcome State Fault Refusal :=
  .next (s.issueOne (if a.v1 then 2 else 1) (slotVcmpGe a))

/-- R152: Writes an all-ones mask where either input is NaN. -/
def slotVcmpUn (a : VArgs) : SlotFn := cmpOp a .un
def execVcmpUn (a : VArgs) (s : State) : Host.Outcome State Fault Refusal :=
  .next (s.issueOne (if a.v1 then 2 else 1) (slotVcmpUn a))

/-- R152: Selects va or vb per lane by the mask register named in IMM0. -/
def slotVsel (a : VArgs) : SlotFn :=
  toV a 3 fun b l =>
    let m := b.core.vreg (a.w.imm0.extractLsb' 0 6)
    (BitVec.ofNat 32 (elemBits a.w.fa (if lane m l ≠ 0 then lane (vA a b) l else lane (vB a b) l)), 0)
def execVsel (a : VArgs) (s : State) : Host.Outcome State Fault Refusal :=
  .next (s.issueOne (if a.v1 then 2 else 1) (slotVsel a))

/-- R153: Converts each lane from FA to FD. -/
def slotVcvt (a : VArgs) : SlotFn := toV a 3 fun b l => convert a b (lane (vA a b) l)
def execVcvt (a : VArgs) (s : State) : Host.Outcome State Fault Refusal :=
  .next (s.issueOne (if a.v1 then 2 else 1) (slotVcvt a))

/-- R154: Applies an E8M0 block offset to each lane. -/
def slotVbscl (a : VArgs) : SlotFn :=
  toV a 3 fun b l => blockScale a b (lane (vA a b) l) (lane (vB a b) l)
def execVbscl (a : VArgs) (s : State) : Host.Outcome State Fault Refusal :=
  .next (s.issueOne (if a.v1 then 2 else 1) (slotVbscl a))

/-- R155: Shuffles lanes within each group by the SHUF pattern. -/
def slotVshuf (a : VArgs) : SlotFn :=
  moveOp a 3 fun l => 16 * (l / 16) + bits a.w.shuf.toNat (4 * (l % 16) + 3) (4 * (l % 16))
def execVshuf (a : VArgs) (s : State) : Host.Outcome State Fault Refusal :=
  .next (s.issueOne (if a.v1 then 2 else 1) (slotVshuf a))

/-- R155: Broadcasts one lane to every lane. -/
def slotVbcast (a : VArgs) : SlotFn := moveOp a 6 fun _ => (a.w.imm0.extractLsb' 0 7).toNat
def execVbcast (a : VArgs) (s : State) : Host.Outcome State Fault Refusal :=
  .next (s.issueOne (if a.v1 then 2 else 1) (slotVbcast a))

/-- R155: Moves whole lane groups across groups. -/
def slotVxmov (a : VArgs) : SlotFn :=
  moveOp a 6 fun l => 16 * bits a.w.imm0.toNat (3 * (l / 16) + 2) (3 * (l / 16)) + l % 16
def execVxmov (a : VArgs) (s : State) : Host.Outcome State Fault Refusal :=
  .next (s.issueOne (if a.v1 then 2 else 1) (slotVxmov a))

/-- R155: Sums each lane group in a fixed tree. -/
def slotVgredAdd (a : VArgs) : SlotFn := gredOp a Ex.add
def execVgredAdd (a : VArgs) (s : State) : Host.Outcome State Fault Refusal :=
  .next (s.issueOne (if a.v1 then 2 else 1) (slotVgredAdd a))

/-- R155: Takes the maximum of each lane group in a fixed tree. -/
def slotVgredMax (a : VArgs) : SlotFn := gredOp a fun _ x y => Ex.maxMin true x y
def execVgredMax (a : VArgs) (s : State) : Host.Outcome State Fault Refusal :=
  .next (s.issueOne (if a.v1 then 2 else 1) (slotVgredMax a))

/-- R155: Takes the minimum of each lane group in a fixed tree. -/
def slotVgredMin (a : VArgs) : SlotFn := gredOp a fun _ x y => Ex.maxMin false x y
def execVgredMin (a : VArgs) (s : State) : Host.Outcome State Fault Refusal :=
  .next (s.issueOne (if a.v1 then 2 else 1) (slotVgredMin a))

/-- R156: Computes a correctly rounded reciprocal. -/
def slotVrcp (a : VArgs) : SlotFn := specialOp a .rcp
def execVrcp (a : VArgs) (s : State) : Host.Outcome State Fault Refusal :=
  .next (s.issueOne (if a.v1 then 2 else 1) (slotVrcp a))

/-- R156: Computes a correctly rounded reciprocal square root. -/
def slotVrsqrt (a : VArgs) : SlotFn := specialOp a .rsqrt
def execVrsqrt (a : VArgs) (s : State) : Host.Outcome State Fault Refusal :=
  .next (s.issueOne (if a.v1 then 2 else 1) (slotVrsqrt a))

/-- R156: Computes a correctly rounded square root. -/
def slotVsqrt (a : VArgs) : SlotFn := specialOp a .sqrt
def execVsqrt (a : VArgs) (s : State) : Host.Outcome State Fault Refusal :=
  .next (s.issueOne (if a.v1 then 2 else 1) (slotVsqrt a))

/-- R156: Computes 2 to the power of the scaled argument. -/
def slotVexp2 (a : VArgs) : SlotFn := specialOp a .exp2
def execVexp2 (a : VArgs) (s : State) : Host.Outcome State Fault Refusal :=
  .next (s.issueOne (if a.v1 then 2 else 1) (slotVexp2 a))

/-- R156: Computes the base-2 logarithm. -/
def slotVlog2 (a : VArgs) : SlotFn := specialOp a .log2
def execVlog2 (a : VArgs) (s : State) : Host.Outcome State Fault Refusal :=
  .next (s.issueOne (if a.v1 then 2 else 1) (slotVlog2 a))

/-- R156: Computes e to the power of the scaled argument. -/
def slotVexp (a : VArgs) : SlotFn := specialOp a .exp
def execVexp (a : VArgs) (s : State) : Host.Outcome State Fault Refusal :=
  .next (s.issueOne (if a.v1 then 2 else 1) (slotVexp a))

/-- R156: Computes the natural logarithm. -/
def slotVlog (a : VArgs) : SlotFn := specialOp a .log
def execVlog (a : VArgs) (s : State) : Host.Outcome State Fault Refusal :=
  .next (s.issueOne (if a.v1 then 2 else 1) (slotVlog a))

/-- R156: Computes tanh. -/
def slotVtanh (a : VArgs) : SlotFn := specialOp a .tanh
def execVtanh (a : VArgs) (s : State) : Host.Outcome State Fault Refusal :=
  .next (s.issueOne (if a.v1 then 2 else 1) (slotVtanh a))

/-- R156: Computes the logistic sigmoid. -/
def slotVsigm (a : VArgs) : SlotFn := specialOp a .sigm
def execVsigm (a : VArgs) (s : State) : Host.Outcome State Fault Refusal :=
  .next (s.issueOne (if a.v1 then 2 else 1) (slotVsigm a))

/-- R156: Computes a correctly rounded a / b. -/
def slotVdiv (a : VArgs) : SlotFn :=
  toV a 10 fun b l =>
    floatLane a.w.fd (vRm a b) a.w.sat (vFo a b)
      (Ex.div (elemEx a.w.fa (vFi a b) (lane (vA a b) l)) (elemEx a.w.fb (vFi a b) (lane (vB a b) l)))
def execVdiv (a : VArgs) (s : State) : Host.Outcome State Fault Refusal :=
  .next (s.issueOne (if a.v1 then 2 else 1) (slotVdiv a))

/-- R157: Loads lanes from a typed buffer, contiguous or strided. -/
def slotVld (a : VArgs) : SlotFn := vecLoad a (memAddr a)
def execVld (a : VArgs) (s : State) : Host.Outcome State Fault Refusal :=
  .next (s.issueOne (if a.v1 then 2 else 1) (slotVld a))

/-- R157: Stores lanes to a typed buffer at commit. -/
def slotVst (a : VArgs) : SlotFn := vecStore a (memAddr a)
def execVst (a : VArgs) (s : State) : Host.Outcome State Fault Refusal :=
  .next (s.issueOne (if a.v1 then 2 else 1) (slotVst a))

/-- R157: Gathers lanes from a typed buffer by the index vector va. -/
def slotVldx (a : VArgs) : SlotFn := vecLoad a (idxAddr a)
def execVldx (a : VArgs) (s : State) : Host.Outcome State Fault Refusal :=
  .next (s.issueOne (if a.v1 then 2 else 1) (slotVldx a))

/-- R157: Scatters lanes to a typed buffer by the index vector va. -/
def slotVstx (a : VArgs) : SlotFn := vecStore a (idxAddr a)
def execVstx (a : VArgs) (s : State) : Host.Outcome State Fault Refusal :=
  .next (s.issueOne (if a.v1 then 2 else 1) (slotVstx a))

/-- R158: Reads a ring slot at HEAD + k, stalling until that slot is filled. -/
def slotVrd (a : VArgs) : SlotFn :=
  ringAccess a true fun b r base =>
    let n := elemBytes a.w.fd
    let addr (l : Nat) : Int := (base : Int) + ringOff a b l
    let (ls, _) := lanes a.w.gmask (0 : Word) fun l => (loadLane a.w.fd l (b.bufLoad r.buf (addr l).toNat n), 0)
    let on := (List.range 128).filter (laneOn a.w.gmask)
    match (if b.core.poison.isEmpty then none
        else leastOf (on.filterMap fun l => (b.core.poisonedAt r.buf (addr l).toNat n).map fun (t : Nat) => (t : Int))) with
    | some t => .fault .memoryError (bufWord r.buf t.toNat)
    | none => .done (b.land 5 (.v a.vd a.w.gmask) (.lanes ls))
def execVrd (a : VArgs) (s : State) : Host.Outcome State Fault Refusal :=
  .next (s.issueOne (if a.v1 then 2 else 1) (slotVrd a))

/-- R158: Writes a ring slot at TAIL + k, stalling until that slot is free. -/
def slotVwr (a : VArgs) : SlotFn :=
  ringAccess a false fun b r base =>
    .done (storeLanes a r.buf b (vD a b) fun l => (base : Int) + ringOff a b l)
def execVwr (a : VArgs) (s : State) : Host.Outcome State Fault Refusal :=
  .next (s.issueOne (if a.v1 then 2 else 1) (slotVwr a))

/-- R160: Sets every enabled triple lane to EMPTY. -/
def slotQclr (a : VArgs) : SlotFn := toQ a 3 fun _ _ => (Triple.empty, 0)
def execQclr (a : VArgs) (s : State) : Host.Outcome State Fault Refusal :=
  .next (s.issueOne (if a.v1 then 2 else 1) (slotQclr a))

/-- R160: Updates each triple with a value of weight 1.0. -/
def slotQupd (a : VArgs) : SlotFn :=
  toQ a 6 fun b l => qupdate (qlane (qD a b) l) (widen a.w.fa (lane (vA a b) l)) one32
def execQupd (a : VArgs) (s : State) : Host.Outcome State Fault Refusal :=
  .next (s.issueOne (if a.v1 then 2 else 1) (slotQupd a))

/-- R160: Updates each triple with a weighted value. -/
def slotQupdW (a : VArgs) : SlotFn :=
  toQ a 6 fun b l => qupdate (qlane (qD a b) l) (widen a.w.fa (lane (vA a b) l)) (widen a.w.fb (lane (vB a b) l))
def execQupdW (a : VArgs) (s : State) : Host.Outcome State Fault Refusal :=
  .next (s.issueOne (if a.v1 then 2 else 1) (slotQupdW a))

/-- R160: Merges two triple registers lane by lane. -/
def slotQmrg (a : VArgs) : SlotFn :=
  toQ a 8 fun b l => qmerge (qlane (qA a b) l) (qlane (qB a b) l)
def execQmrg (a : VArgs) (s : State) : Host.Outcome State Fault Refusal :=
  .next (s.issueOne (if a.v1 then 2 else 1) (slotQmrg a))

/-- R160: Merges raw triples held in three vector registers into qd. -/
def slotQmrgV (a : VArgs) : SlotFn :=
  toQ a 8 fun b l =>
    qmerge (qlane (qD a b) l)
      ⟨lane (vA a b) l, lane (b.core.vreg (a.va + 1)) l, lane (b.core.vreg (a.va + 2)) l⟩
def execQmrgV (a : VArgs) (s : State) : Host.Outcome State Fault Refusal :=
  .next (s.issueOne (if a.v1 then 2 else 1) (slotQmrgV a))

/-- R161: Merges the triples of each lane group in a fixed tree. -/
def slotQred (a : VArgs) : SlotFn :=
  toQ a 12 fun b l =>
    let (t, f) := tree qmerge 4 (((qA a b).drop (16 * (l / 16))).take 16)
    ((t.head?).getD Triple.empty, f)
def execQred (a : VArgs) (s : State) : Host.Outcome State Fault Refusal :=
  .next (s.issueOne (if a.v1 then 2 else 1) (slotQred a))

/-- R161: Merges lane 16g of each group in a fixed cross-group tree. -/
def slotQxm (a : VArgs) : SlotFn :=
  toQ a 14 fun b _ =>
    let (t, f) := tree qmerge 3 ((List.range 8).map fun g => qlane (qA a b) (16 * g))
    ((t.head?).getD Triple.empty, f)
def execQxm (a : VArgs) (s : State) : Host.Outcome State Fault Refusal :=
  .next (s.issueOne (if a.v1 then 2 else 1) (slotQxm a))

/-- R162: Extracts W, the mean, a variance or a deviation from each triple. -/
def slotQext (a : VArgs) : SlotFn :=
  toVq a 10 fun b l => qextract (qlane (qA a b) l) a.w.exsel.toNat a.w.imm1 a.w.emptynan
def execQext (a : VArgs) (s : State) : Host.Outcome State Fault Refusal :=
  .next (s.issueOne (if a.v1 then 2 else 1) (slotQext a))

/-- R162: Copies the raw bits of one word of each triple. -/
def slotQraw (a : VArgs) : SlotFn :=
  toVq a 3 fun b l =>
    let t := qlane (qA a b) l
    (if a.w.imm0 = 0 then t.w else if a.w.imm0 = 1 then t.mu else t.m2, 0)
def execQraw (a : VArgs) (s : State) : Host.Outcome State Fault Refusal :=
  .next (s.issueOne (if a.v1 then 2 else 1) (slotQraw a))

/-- R163: Normalises lanes with the mean and reciprocal deviation of a triple. -/
def slotQnorm (a : VArgs) : SlotFn :=
  toVq a 12 fun b l =>
    qnormalise (elemEx a.w.fa false (lane (vA a b) l)) (qlane (qB a b) l) a.w.imm1 a.w.emptynan none
def execQnorm (a : VArgs) (s : State) : Host.Outcome State Fault Refusal :=
  .next (s.issueOne (if a.v1 then 2 else 1) (slotQnorm a))

/-- R163: Normalises lanes and then applies γ and β. -/
def slotQnormA (a : VArgs) : SlotFn :=
  toVq a 12 fun b l =>
    qnormalise (elemEx a.w.fa false (lane (vA a b) l)) (qlane (qB a b) l) a.w.imm1 a.w.emptynan
      (some (lane (b.core.vreg (a.w.imm0.extractLsb' 0 6)) l, lane (b.core.vreg (a.w.imm0.extractLsb' 6 6)) l))
def execQnormA (a : VArgs) (s : State) : Host.Outcome State Fault Refusal :=
  .next (s.issueOne (if a.v1 then 2 else 1) (slotQnormA a))

/-- R164: Loads a statistics register from a typed buffer. -/
def slotQld (a : VArgs) : SlotFn :=
  vecSlot a true fun b =>
    match vecFault a b a.w.buf 12 (qAddr a b) true with
    | some (c, t) => .fault c t
    | none =>
      let (l, _) := lanes a.w.gmask Triple.empty fun l => (bytesTriple (b.bufLoad a.w.buf (qAddr a b l).toNat 12), 0)
      .done (b.land 5 (.q (a.vd.setWidth 4) a.w.gmask) (.triples l))
def execQld (a : VArgs) (s : State) : Host.Outcome State Fault Refusal :=
  .next (s.issueOne (if a.v1 then 2 else 1) (slotQld a))

/-- R164: Stores a statistics register to a typed buffer. -/
def slotQst (a : VArgs) : SlotFn :=
  vecSlot a true fun b =>
    match vecFault a b a.w.buf 12 (qAddr a b) false with
    | some (c, t) => .fault c t
    | none =>
      .done (((List.range 128).filter (laneOn a.w.gmask)).foldl
        (fun b' l => b'.bufStore a.w.buf (qAddr a b l).toNat (tripleBytes (qlane (qD a b) l))) b)
def execQst (a : VArgs) (s : State) : Host.Outcome State Fault Refusal :=
  .next (s.issueOne (if a.v1 then 2 else 1) (slotQst a))

/-- R159: Clears masked bits of the slot's own sticky flag set. -/
def slotVfclr (a : VArgs) : SlotFn :=
  vecSlot a false fun b =>
    let m : Dword := ((a.w.imm0.extractLsb' 0 5).setWidth 64 : Dword) <<< (5 * b.slot)
    .done (b.modCtx fun x => { x with fflags := x.fflags &&& ~~~m })
def execVfclr (a : VArgs) (s : State) : Host.Outcome State Fault Refusal :=
  .next (s.issueOne (if a.v1 then 2 else 1) (slotVfclr a))

/-- R159: Clears FEVR and CSTAT.FEVV. -/
def slotVfevclr (a : VArgs) : SlotFn :=
  vecSlot a false fun b => .done (b.modCtx fun x => { x with fevr := 0 })
def execVfevclr (a : VArgs) (s : State) : Host.Outcome State Fault Refusal :=
  .next (s.issueOne (if a.v1 then 2 else 1) (slotVfevclr a))

end Sys2Proof.Machine
end

