-- ==== Sys2Proof/Machine/Dray.lean ====
section
/-! DEFINITION. The Dray at work: the movement of window elements (R206, R210 to R214), starts, completions and ends of
transfers (R209, R213, R216, R218), remote notifications (R217). -/

namespace Sys2Proof.Machine

/-! ### Places of an element -/

/-- R212: the window is the destination. -/
def TransKind.toWindow : TransKind → Bool
  | .copy wr | .tcopy wr | .stash wr => wr
  | .pop | .scatter _ => true
  | _ => false

/-- The element that a transfer moves m-th. -/
def Transfer.elem (t : Transfer) (m : Nat) : Nat :=
  match t.kind with
  | .scatter _ => scatterElem t.wrec m
  | _ => m

/-- Its packed byte offset. -/
def Transfer.packOff (t : Transfer) (n : Nat) : Nat :=
  match t.kind with
  | .stash _ => recPa t.wrec (stashPlace t.wrec n)
  | _ => recPa t.wrec n

/-- The packed side: the ring slot, or the place of the address word. -/
def Transfer.packedPlace (t : Transfer) (k : Nat) : Place :=
  match t.ring with
  | some (kr, _) => .buf kr t.slotBuf ((t.slotAt : Int) + wordAddr t.xa)
  | none => wordPlace k t.xa

def Transfer.windowPlace (t : Transfer) (k : Nat) (idx : Option Int) (n : Nat) : Place :=
  match recSpace t.wrec with
  | .buf b => .buf k b (recWa t.wrec idx n)
  | .gv => .gv (recWa t.wrec idx n)

/-- A 32-bit signed integer of a list. -/
def bytesInt (l : List Byte) : Int := (leWord l).toInt

/-- The number of a place's first byte, in the issuer's view. -/
def Place.key (p : Place) : Int :=
  match p with
  | .buf k b a => 2 ^ 60 + (4 * k + b.num) * 2 ^ 24 + a
  | .gv a => a

/-- R209: a transfer's read of a source: bytes that it has read before are not read again. -/
def State.readOnce (s : State) (k : Nat) (t : Transfer) (p : Place) (n : Nat) : Acc (List Byte) :=
  let read := s.readPlace (.core k) (dieOf k) (s.card t.card).asid p n
  if t.got.isEmpty then read
  else
    let old := (List.range n).map fun (i : Nat) => (t.got.find? fun x => decide ((x.1 : Int) = p.key + i)).map Prod.snd
    match old.mapM id with
    | some l => .ok l
    | none => read.bind fun l => .ok ((old.zip l).map fun x => x.1.getD x.2)

/-- R212: idx(e(1)). -/
def State.listIndex (s : State) (k : Nat) (t : Transfer) (e1 : Nat) : Acc Int :=
  (s.readOnce k t ((wordPlace k t.xb).plus (4 * e1)) 4).bind fun b => .ok (bytesInt b)

/-- Elements that a transfer moves; none for one without a record. -/
def Transfer.count (t : Transfer) : Nat := if t.kind.usesRec then recCount t.wrec else 0

/-- What one element's move is (R206): the place it reads, none for FILL, and the place it writes, none for nothing. -/
structure ElemMove where
  src : Option Place
  dst : Option Place
  deriving DecidableEq, Repr

def State.elemPlan (s : State) (k : Nat) (t : Transfer) (m : Nat) : Acc ElemMove :=
  let w := t.wrec
  let n := t.elem m
  let packed := (t.packedPlace k).plus (t.packOff n)
  let idx : Acc (Option Int) :=
    if t.kind.usesList then (s.listIndex k t (recIndex w n 1)).bind fun i => .ok (some i) else .ok none
  idx.bind fun idx =>
    let win := t.windowPlace k idx n
    .ok (if t.kind.toWindow then (if recIn w idx n then ⟨some packed, some win⟩ else ⟨none, none⟩)
      else if recIn w idx n then ⟨some win, some packed⟩
      else if recClip w then ⟨none, none⟩
      else ⟨none, some packed⟩)

/-! ### Bytes that a command both reads and writes (R206, R10) -/

/-- The bytes of a place, each as one number; none where it does not translate. -/
def State.placeKeys (s : State) (v : View) (d : Nat) (asid : BitVec 16) (acc : Access) (p : Place) (n : Nat) : List Nat :=
  match p with
  | .buf _ _ _ => (List.range n).map fun i => p.key.toNat + i
  | .gv a => if a < 0 ∨ 2 ^ 52 < a + n then [] else ((s.engSpan v d asid acc (BitVec.ofInt 64 a) n).addrs?).getD []

/-- Two places in one memory. -/
def Place.near (p q : Place) : Bool :=
  match p, q with
  | .buf k b _, .buf k' b' _ => decide (k = k') && decide (b = b')
  | .gv _, .gv _ => true
  | _, _ => false

/-- The sides of a transfer lie so that they could share a byte. -/
def Transfer.mayOverlap (t : Transfer) (k : Nat) : Bool :=
  let win := t.windowPlace k none 0
  let packed := t.packedPlace k
  let dst := if t.kind.toWindow then win else packed
  win.near packed || (t.kind.usesList && (wordPlace k t.xb).near dst)

/-- R206: the bytes that the transfer both reads and writes (DEDUCED, log entry 24). -/
def State.overlap (s : State) (k : Nat) (t : Transfer) : List Nat :=
  if !t.mayOverlap k then []
  else
    let d := dieOf k
    let asid := (s.card t.card).asid
    let keys (acc : Access) (p : Option Place) (n : Nat) : List Nat :=
      match p with
      | some p => s.placeKeys (.core k) d asid acc p n
      | none => []
    let plans := (List.range t.count).filterMap fun m => match s.elemPlan k t m with | .ok e => some e | _ => none
    let list := if t.kind.usesList then keys .read (some (wordPlace k t.xb)) (4 * recExt t.wrec 1) else []
    let reads := plans.flatMap (fun e => keys .read e.src (recElem t.wrec)) ++ list
    let writes := plans.flatMap fun e => keys .write e.dst (recElem t.wrec)
    let lo := reads.foldl min (reads.headD 0)
    let hi := reads.foldl max 0
    writes.filter fun x => decide (lo ≤ x) && decide (x ≤ hi) && reads.contains x

/-- The bytes of `l` with those at the places `bad` changed by `f`. -/
def mendBytes (bad keys : List Nat) (l : List Byte) (f : Nat → Byte → Byte) : List Byte :=
  (keys.zip l).map fun x => if bad.contains x.1 then f x.1 x.2 else x.2

/-- Writes a destination, but for its bytes that the command also reads (`bad`): they keep what they hold until the transfer
ends. Global bytes are kept until the transfer writes them (R291). -/
def State.writeElem (s : State) (k : Nat) (t : Transfer) (bad : List Nat) (p : Place) (l : List Byte) :
    Acc (State × Transfer) :=
  let d := dieOf k
  let asid := (s.card t.card).asid
  match p with
  | .buf kb b a =>
    let old := (s.core kb).readBuf b a.toNat l.length
    let new := if bad.isEmpty then l
      else ((s.placeKeys (.core k) d asid .write p l.length).zip (l.zip old)).map fun x => if bad.contains x.1 then x.2.2 else x.2.1
    .ok (s.modCore kb fun q => q.writeBuf b a.toNat new, t)
  | .gv a =>
    if a < 0 ∨ 2 ^ 52 < a + l.length then .fault .translationFault (BitVec.ofInt 64 a)
    else
      (s.engSpan (.core k) d asid .write (BitVec.ofInt 64 a) l.length).acc.bind fun pas =>
        let table := match pas with | pa :: _ => s.tableFrame a.toNat pa | [] => false
        let new := ((pas.zip l).zipIdx.filter fun x => !bad.contains x.1.1).map fun x =>
          ({ va := a.toNat + x.2, byte := x.1.2, pa := some x.1.1, table } : PendByte)
        .ok (s, { t with pending := new.reverse ++ t.pending })

/-- R206: the overlapping bytes of the destinations of the elements below `m` are free (DEDUCED, log entry 24). -/
def State.freeOverlap (s : State) (k : Nat) (t : Transfer) (bad : List Nat) (m : Nat) : State :=
  if bad.isEmpty then s
  else
    let d := dieOf k
    let asid := (s.card t.card).asid
    let plans := (List.range m).filterMap fun i => match s.elemPlan k t i with | .ok e => e.dst | _ => none
    let occ := s.freeCtr
    (plans.foldl (fun s p =>
      match s.readPlace (.core k) d asid p (recElem t.wrec) with
      | .ok l =>
        let keys := s.placeKeys (.core k) d asid .write p (recElem t.wrec)
        (match s.writePlace (.core k) d asid p (mendBytes bad keys l fun x _ => Config.freeByte (occ * 2 ^ 64 + x)) with
          | .ok s => s
          | _ => s)
      | _ => s) s).fresh

/-- R206: moves one element (DEDUCED, log entry 24). -/
def State.moveElem (s : State) (k : Nat) (t : Transfer) (bad : List Nat) (m : Nat) : Acc (State × Transfer) :=
  (s.elemPlan k t m).bind fun e =>
    match e.src, e.dst with
    | _, none => .ok (s, t)
    | none, some p => s.writeElem k t bad p (recFillBytes t.wrec)
    | some a, some p => (s.readOnce k t a (recElem t.wrec)).bind fun b => s.writeElem k t bad p b

/-! ### `dscatter.comb` (R214) -/

/-- R214: an element widened, the sum of two, and the element written. -/
def combSum (f : Fmt) (l : List (List Byte)) : List Byte :=
  match f, l with
  | .int32, l => leBytes 4 ((l.foldl (fun a b => a + leNat b) 0) % 2 ^ 32)
  | _, [] => []
  | f, x :: t =>
    let wide (b : List Byte) : Word := widen f (leWord b)
    let a := t.foldl (fun a b => (add32 a (wide b)).1) (wide x)
    match f with
    | .bf16 => leBytes 2 (rnebf16 (f32 a)).1
    | .fp16 => leBytes 2 (rne16 (f32 a)).1
    | _ => leBytes 4 a.toNat

/-- Reads a list of things in turn. -/
def readEach {α β : Type} (f : α → Acc β) : List α → Acc (List β)
  | [] => .ok []
  | x :: t => (f x).bind fun y => (readEach f t).bind fun r => .ok (y :: r)

/-- Distinct values in order of first appearance. -/
def distinct (l : List Int) : List Int := l.foldl (fun a x => if a.contains x then a else a ++ [x]) []

/-- How far a movement came: the state, the transfer, and what stopped it. -/
structure Move where
  s : State
  t : Transfer
  stop : Option (Acc Unit)

/-- R214, R218: writes the combined rows in turn, up to the first that faults. -/
def State.writeRows (s : State) (k : Nat) (t : Transfer) (bad : List Nat) : List (Option (Place × List Byte)) → Move
  | [] => ⟨s, { t with moved := t.count }, none⟩
  | none :: l => s.writeRows k t bad l
  | some (p, b) :: l =>
    match s.writeElem k t bad p b with
    | .ok (s', t') => State.writeRows s' k t' bad l
    | x => ⟨s, t, some x.unit⟩

/-- R214: the whole of a `dscatter.comb`. -/
def State.moveComb (s : State) (k : Nat) (t : Transfer) (bad : List Nat) : Move :=
  let w := t.wrec
  let e0 := recExt w 0
  let e1 := recExt w 1
  let rest := recCount w / e1
  let f := (Fmt.ofCode (recFmt w)).getD .fp32
  let elem (e r : Nat) : Nat := r % e0 + e0 * (e + e1 * (r / e0))
  let sums := (readEach (s.listIndex k t) (List.range e1)).bind fun idx =>
    let rows (v : Int) : List Nat := (List.range e1).filter fun e => decide (idx.getD e 0 = v)
    let work := (distinct idx).flatMap fun v => (List.range rest).map fun r => (v, r)
    let value (x : Int × Nat) : Acc (Option (Place × List Byte)) :=
      let l := rows x.1
      let n := elem (l.headD 0) x.2
      if recIn w (some x.1) n then
        (readEach (fun e => s.readOnce k t ((t.packedPlace k).plus (t.packOff (elem e x.2))) (recElem w)) l).bind
          fun bs => .ok (some (t.windowPlace k (some x.1) n, combSum f bs))
      else .ok none
    readEach value work
  match sums with
  | .ok out => s.writeRows k t bad out
  | x => ⟨s, t, some x.unit⟩

/-! ### Progress -/

/-- Moves up to `fuel` further elements. -/
def State.moveRun (s : State) (k : Nat) (t : Transfer) (bad : List Nat) : Nat → Move
  | 0 => ⟨s, t, none⟩
  | fuel + 1 =>
    if t.count ≤ t.moved then ⟨s, t, none⟩
    else
      match s.moveElem k t bad t.moved with
      | .ok (s', t') => State.moveRun s' k { t' with moved := t.moved + 1 } bad fuel
      | x => ⟨s, t, some x.unit⟩

/-- Moves elements of a started transfer, `dscatter.comb` in one piece. -/
def State.moveSome (s : State) (k : Nat) (t : Transfer) (bad : List Nat) (n : Nat) : Move :=
  match t.kind with
  | .scatter true => if t.moved = 0 ∧ t.count ≤ n then s.moveComb k t bad else ⟨s, t, none⟩
  | _ => s.moveRun k t bad n

/-- R291: the bytes that the transfer may write now: all at its end, before that whole words, and in a table region whole
sectors. -/
def Transfer.ready (t : Transfer) (all : Bool) (x : PendByte) : Bool :=
  let n := if x.table then 64 else 4
  all || (List.range n).all fun i => t.pending.any fun y => decide (y.va = x.va / n * n + i)

/-- R344: the bytes that a transfer has moved and not written are translated again after a shootdown of their page; they may have
to wait (R323, R379). -/
def State.retarget (s : State) (k : Nat) (t : Transfer) : Acc Transfer :=
  if t.pending.all fun x => x.pa.isSome then
    match s.busyFor (t.pending.filterMap (·.pa)) with
    | some w => .wait (some w)
    | none => .ok t
  else
    (readEach (fun (x : PendByte) =>
      match x.pa with
      | some _ => .ok x
      | none =>
        (s.engSpan (.core k) (dieOf k) (s.card t.card).asid .write (BitVec.ofNat 64 x.va) 1).acc.bind fun l =>
          .ok { x with pa := l.head?, table := (l.head?.map (s.tableFrame x.va)).getD false }) t.pending).bind fun l =>
      .ok { t with pending := l }

/-- R334: the sectors and buffer units that the elements moved so far cover whole are no longer poisoned. -/
def State.clearCovered (s : State) (k : Nat) (t : Transfer) : State :=
  if decide (t.take ≠ .slot) || (s.poison.isEmpty && (List.range 4).all fun i => (s.core (k / 4 * 4 + i)).poison.isEmpty) then s
  else
    let plans := (List.range t.moved).filterMap fun i => match s.elemPlan k t i with | .ok e => e.dst | _ => none
    let keys := plans.flatMap fun p => s.placeKeys (.core k) (dieOf k) (s.card t.card).asid .write p (recElem t.wrec)
    let covered (j : Nat) (b : Buf) (u : Nat) : Bool :=
      (List.range 8).all fun i => keys.contains ((Place.buf j b (8 * u + i : Nat)).key.toNat)
    let s := { s with poison := clearSectors s.poison keys }
    (List.range 4).foldl (fun s i =>
      let j := k / 4 * 4 + i
      s.modCore j fun q => { q with poison := q.poison.filter fun x => !covered j x.1 x.2 }) s

/-- R216, R291: writes what may be written of the bytes moved. -/
def State.flush (s : State) (k : Nat) (t : Transfer) (all : Bool) : State × Transfer :=
  let l := (t.pending.reverse.filter (t.ready all)).filterMap fun x => x.pa.map fun a => (a, x.byte)
  let s := if l.isEmpty then s else s.writeModule l (some (dieOf k))
  (s.clearCovered k t, { t with pending := t.pending.filter fun x => !t.ready all x })

/-- The bytes of a place, each with its number. -/
def State.readKeys (s : State) (k : Nat) (t : Transfer) (p : Place) (n : Nat) : List (Nat × Byte) :=
  match s.readOnce k t p n with
  | .ok l => ((List.range n).map fun (i : Nat) => (p.key + (i : Int)).toNat).zip l
  | _ => []

/-- R256, R291: the units of which a transfer sees each whole, in which `n` bytes lie: in global memory the aligned dwords, in a
table region the sectors. -/
def State.readUnits (s : State) (k : Nat) (t : Transfer) (p : Place) (n : Nat) : Place × Nat :=
  match p with
  | .buf .. => (p, n)
  | .gv a =>
    let table := match s.engSpan (.core k) (dieOf k) (s.card t.card).asid .read (BitVec.ofInt 64 a) 1 with
      | .ok (pa :: _) _ => s.tableFrame a.toNat pa
      | _ => false
    let u := if table then 64 else 8
    let lo := a.toNat / u * u
    (.gv lo, (a.toNat + n + u - 1) / u * u - lo)

/-- R209, R212: what a transfer that goes on later has read: its index list, and the sources of elements `lo` up to `hi`, in whole
units. -/
def State.remember (s : State) (k : Nat) (t : Transfer) (lo hi : Nat) : Transfer :=
  let list := if t.kind.usesList && t.got.isEmpty then [s.readUnits k t (wordPlace k t.xb) (4 * recExt t.wrec 1)] else []
  let srcs := ((List.range hi).drop lo).filterMap fun i =>
    match s.elemPlan k t i with
    | .ok ⟨some p, _⟩ => some (s.readUnits k t p (recElem t.wrec))
    | _ => none
  { t with got := t.got ++ ((list ++ srcs).eraseDups).flatMap fun x => s.readKeys k t x.1 x.2 }

/-- R343: the pages that elements `lo` up to `hi` touch enter the translation caches. -/
def State.fillMoved (s : State) (k : Nat) (t : Transfer) (lo hi : Nat) : State :=
  let pages := ((List.range hi).drop lo).foldl (fun (l : List Nat) i =>
    match s.elemPlan k t i with
    | .ok e => [e.src, e.dst].foldl (fun l p =>
        match p with
        | some (.gv a) => if l.contains (a.toNat / 65536) then l else a.toNat / 65536 :: l
        | _ => l) l
    | _ => l) []
  pages.foldl (fun s p => s.fill (s.asidRoot (dieOf k) (some (k / 4)) (s.card t.card).asid) (65536 * p)) s

/-- R210: transfer `x` is a command on the ring of `t` that was issued before it. -/
def Transfer.aheadOf (x t : Transfer) : Bool := x.kind.usesRing && decide (x.ring = t.ring) && decide (x.order < t.order)

/-- R210: the ring commands of the yard on the ring of `t` that were issued before it and have not completed. -/
def State.ringAhead (s : State) (k : Nat) (t : Transfer) : List Transfer :=
  (List.range 4).flatMap fun i => (s.core (k / 4 * 4 + i)).transfers.filter fun x => x.aheadOf t

/-- R210, R218: a ring command ends without its advance, so that those after it on the ring take the slots one place earlier:
those that have started begin again (DEDUCED, log entry 24). -/
def State.ringBack (s : State) (k : Nat) (t : Transfer) : State :=
  if !t.kind.usesRing then s
  else
    (List.range 4).foldl (fun s i =>
      s.modCore (k / 4 * 4 + i) fun q =>
        { q with
          transfers := q.transfers.map fun x =>
            if t.aheadOf x then
              { x with started := false, moved := 0, pending := [], got := if x.kind = .pop then [] else x.got }
            else x }) s

/-- R218, R206: a transfer ends with a fault where it stands; what it has moved stays written. -/
def State.faultTransfer (s : State) (k : Nat) (t : Transfer) (bad : List Nat) (cause : Cause) (pay : List Dword) : State :=
  let t := match s.retarget k t with
    | .ok t => t
    | _ => t
  let (s, t) := s.flush k t true
  ((s.freeOverlap k t bad t.moved).endTransfer k t cause pay).ringBack k t

/-- Ends a transfer for a reason of its surroundings. -/
def State.abortTransfer (s : State) (k : Nat) (t : Transfer) (cause : Cause) (pay : List Dword) : State :=
  s.faultTransfer k t (if t.started && decide (t.take = .slot) then s.overlap k t else []) cause pay

/-- R218, R348: what a stopped movement asks for; the transfer goes on later from where it stands. -/
def State.stopped (s : State) (k : Nat) (t : Transfer) (bad : List Nat) (x : Acc Unit) : State :=
  match x with
  | .ok _ => s
  | .fault c v => s.faultTransfer k t bad c [v]
  | .page w v => s.askPage (s.card t.card).asid v w (.transfer k t.ch t.id)
  | .wait d => s.awaitDomain (dieOf k) d

/-! ### Start (R209, R210, R213) -/

/-- R138, R209: no global store that a fence of its context orders before the transfer is still to perform. -/
def Core.fenceMet (q : Core) (t : Transfer) : Bool :=
  match t.by_ with
  | .ctx _ c =>
    q.stores.all fun p =>
      !(decide (p.c = c) && decide (p.ord < t.fenceOrd) &&
        (match p.need with | some sc => !p.performedAt sc | none => false))
  | _ => true

/-- R210: no ring command issued earlier on the same ring, from any core of the yard, is still in flight. -/
def State.ringFirst (s : State) (k : Nat) (t : Transfer) : Bool := (s.ringAhead k t).isEmpty

/-- R210: what the ring gives the command at position p now; none while it must wait (DEDUCED, log entry 24). -/
def State.ringGives (s : State) (k : Nat) (t : Transfer) : Option (RingTake × Nat) :=
  match t.ring with
  | none => some (.slot, 0)
  | some (kr, h) =>
    let r := (s.core kr).ring (BitVec.ofNat 4 h)
    let ahead := s.ringAhead k t
    let p := ahead.length
    match t.kind with
    | .pop =>
      if r.eosc || !r.valid then some (.ended, 0)
      else if r.fill.toNat ≤ p then none
      else if r.eosPos = some p then some (.token, 0)
      else some (.slot, r.slotAddr ((r.head.toNat + p) % r.count))
    | _ =>
      if r.eosp || !r.valid then some (.ended, 0)
      else if decide (r.count ≤ r.fill.toNat + p) || ahead.any (fun x => decide (x.kind = .pushEos)) then none
      else some (.slot, r.slotAddr ((r.tail.toNat + p) % r.count))

/-- R209: every earlier transfer of the channel has started. -/
def Core.channelFirst (q : Core) (ch : Nat) : Option Transfer :=
  q.transfers.find? fun t => decide (t.ch = ch) && !t.started

/-- R213: the time of a `dtcopy` has come. -/
def State.timeReached (s : State) (t : Transfer) : Bool :=
  match t.kind with
  | .tcopy _ => decide (t.xb ≤ s.timebase)
  | _ => true

/-- R261: the stage that a transfer hands to the Exchange of its die. -/
def State.stageFor (s : State) (k : Nat) (t : Transfer) (uid : Nat) : Stage :=
  let l := t.recd
  let r := l.drop 8
  { code := sdStage l, group := sdGroup l, ring := (sdRing l).toNat, blk := sdBlk l, trap := t.irtrap, addrA := dw l 1
    addrB := dw l 2, param := dw l 3, by_ := t.by_, k, ch := t.ch, id := t.id, card := t.card
    asid := (s.card t.card).asid, baddr := t.baddr, tcr := r, nbags := tcNbags r, mode := tcMode r, eos := tcEos r, uid }

/-- A transfer that has started, with what its ring gave it. -/
def State.begun (s : State) (t : Transfer) (g : RingTake × Nat) : Transfer :=
  { t with
    started := true, take := g.1, slotAt := g.2, sent := decide (t.kind = .stage)
    slotBuf := match t.ring with
      | some (kr, h) => ((s.core kr).ring (BitVec.ofNat 4 h)).buf
      | none => t.slotBuf }

/-- Starts a transfer; a stage goes to its Exchange. -/
def State.startTransfer (s : State) (k : Nat) (t : Transfer) (g : RingTake × Nat) : State :=
  let t := s.begun t g
  let s := s.modCore k fun q => q.putTransfer t
  if t.kind = .stage then
    let uid := s.stageCtr
    { s.modDie (dieOf k) fun x => { x with stages := x.stages ++ [s.stageFor k t uid] } with stageCtr := uid + 1 }
  else s

/-- The start of the channel's next transfer, where every condition holds. -/
def State.tryStart (s : State) (k ch : Nat) : Option (State × Transfer) :=
  match (s.core k).channelFirst ch with
  | none => none
  | some t =>
    if !(s.core k).fenceMet t || !s.timeReached t then none
    else
      match (if t.kind.usesRing then s.ringGives k t else some (.slot, 0)) with
      | none => none
      | some g =>
        some (s.startTransfer k t g, s.begun t g)

/-- R207: DSHC counts a command whose list names a row that starts at no multiple of 64, once it has read the list. -/
def State.countShuffle (s : State) (k : Nat) (t : Transfer) : State × Transfer :=
  if t.counted then (s, t)
  else
    match readEach (s.listIndex k t) (List.range (recExt t.wrec 1)) with
    | .ok idx =>
      (if recRowsSlow t.wrec idx then s.modCore k fun q => { q with dshc := q.dshc + 1 } else s, { t with counted := true })
    | _ => (s, t)

/-- Moves elements and keeps the progress; a stop is dealt with. Says whether everything has moved. -/
def State.progress (s : State) (k : Nat) (t : Transfer) (n : Nat) : State × Bool :=
  let bad := if t.take = .slot then s.overlap k t else []
  match s.retarget k t with
  | .ok t =>
    let (s, t) := s.countShuffle k t
    let m : Move := if t.take = .slot then s.moveSome k t bad n else ⟨s, { t with moved := t.count }, none⟩
    (match m.stop with
      | none =>
        let all := decide (m.t.count ≤ m.t.moved)
        let (s', t') := m.s.flush k m.t all
        let s' := if t.take = .slot then s'.fillMoved k t' t.moved t'.moved else s'
        let t' := if all then t' else s'.remember k t' t.moved t'.moved
        (if all then (s'.modCore k fun q => q.putTransfer t').freeOverlap k t' bad t'.moved
          else s'.modCore k fun q => q.putTransfer t', all)
      | some x =>
        let comb := decide (m.t.kind = .scatter true)
        let t' := m.s.remember k m.t t.moved (if comb then m.t.count else m.t.moved)
        let keep := if comb then { t' with pending := [], moved := 0 } else t'
        ((m.s.modCore k fun q => q.putTransfer keep).stopped k t' bad x, false))
  | x => (s.stopped k t bad x.unit, false)

/-- R28, R210: the advance of a ring command at its completion, and whether it breaks R28 on the ring as it stands then: the
ring is left unchanged. -/
def State.ringDone (s : State) (k : Nat) (t : Transfer) : State × Bool :=
  match t.ring with
  | none => (s, false)
  | some (kr, h) =>
    let n := BitVec.ofNat 4 h
    let r := (s.core kr).ring n
    let own (x : RingRole) : Bool :=
      match t.by_ with
      | .hand _ z _ => decide (x = (if kr = k then .dray else .neighbour)) || (decide (kr = k) && decide (x = roleRing z))
      | _ => decide (x = if kr = k then .dray else .neighbour)
    let put (r' : Ring) : State := s.modCore kr fun q => q.setRing n r'
    match t.kind, t.take with
    | .push, .slot =>
      if r.badP (own r.prod) || r.badAdvP 1 then (s, true)
      else if t.order < r.stampT then
        (s.fresh.modCore kr fun q => (q.spoil s.freeCtr n r.tail.toNat).setRing n (r.advP 1), false)
      else (put (r.advP 1), false)
    | .pushEos, .slot => if r.badP (own r.prod) || r.badAdvP 1 then (s, true) else (put r.advEos, false)
    | .pop, .slot | .pop, .token => if r.badC (own r.cons) || r.badAdvC 1 then (s, true) else (put (r.advC 1), false)
    | _, _ => (s, false)

/-- R216: a started data transfer that has moved everything completes. -/
def State.completeTransfer (s : State) (k : Nat) (t : Transfer) : State :=
  let (s, broken) := s.ringDone k t
  let s := s.finishTransfer k t true
  if broken || decide (t.take = .ended) then
    s.sendTo t.by_ t.card (t.record .ringProtocol true [BitVec.ofNat 64 ((t.ring.map Prod.snd).getD 0)])
  else s

/-- The transfer moves data itself, rather than go to a Vault or an Exchange. -/
def TransKind.isData (t : TransKind) : Bool := t.usesRec || decide (t = .pushEos)

/-! ### The Dray's events -/

/-- R209, R210, R213: the next transfer of channel `ch` starts and moves up to `n` elements (DESIGN CHOICE, log entry
7). -/
def execTransferStart (k ch n : Nat) (s : State) : Host.Outcome State Fault Refusal :=
  .next (match s.tryStart k ch with
    | none => s
    | some (s, t) => if t.kind.isData then (s.progress k t n).1 else s)

/-- R213: a timed copy whose TIMEBASE value has come starts. -/
def execDtcopyTimeReached (k ch id : Nat) (s : State) : Host.Outcome State Fault Refusal :=
  .next (match (s.core k).channelFirst ch with
    | none => s
    | some t =>
      if decide (t.id = BitVec.ofNat 64 id) && (match t.kind with | .tcopy _ => true | _ => false) then
        (match s.tryStart k ch with
          | none => s
          | some (s, _) => s)
      else s)

/-- R216, R210: a started transfer moves what is left and completes, a ring command after those before it on its ring; an
access fault ends it (R218). -/
def execTransferComplete (k ch id : Nat) (s : State) : Host.Outcome State Fault Refusal :=
  .next (match (s.core k).findTransfer ch (BitVec.ofNat 64 id) with
    | none => s
    | some t =>
      if t.started && t.kind.isData then
        (match s.progress k t t.count with
          | (s, true) =>
            if t.kind.usesRing && !s.ringFirst k t then s
            else
              match s.noteWait k t with
              | some w => s.awaitDomain (dieOf k) (some w)
              | none => s.completeTransfer k t
          | (s, false) => s)
      else s)

/-- R218: an unrecoverable fault on a global side ends a transfer: the fault that its next element takes, or a memory error
that its surroundings report. -/
def execTransferFaultEnd (k ch id : Nat) (cause : Cause) (va : Dword) (s : State) : Host.Outcome State Fault Refusal :=
  .next (match (s.core k).findTransfer ch (BitVec.ofNat 64 id) with
    | none => s
    | some t =>
      let bad := s.overlap k t
      if !(t.started && t.kind.isData) then s
      else if cause = .memoryError then s.abortTransfer k t cause [va]
      else
        let m := s.moveSome k t bad t.count
        match m.stop with
        | some (.fault c v) => if c = cause ∧ v = va then m.s.faultTransfer k m.t bad c [v] else s
        | _ => s)

/-- R217: a remote notification arrives. -/
def State.noteArrives (s : State) (m : Msg) : State :=
  match m with
  | .notify core flag amt asid k c ch id src card baddr =>
    if s.noteMay core flag asid then s.postFlag core flag amt
    else
      s.sendRecord card k c
        { cause := .remoteError, trap := true, src := BitVec.ofNat 3 src, ch, id, baddr, pay := [] }
  | _ => s

def Msg.isNotify : Msg → Bool
  | .notify .. => true
  | _ => false

/-- An endpoint of the fabric (R367). -/
inductive Port where
  | core (k : Nat)
  | exchange (d : Nat)
  | clearing (d : Nat)
  | vault (v : Nat)
  deriving DecidableEq, Repr

/-- SRC, DST and VC of a packet (R367). -/
structure Route where
  src : Port
  dst : Port
  vc : Nat
  deriving DecidableEq, Repr

/-- R367: the route of a message (DESIGN CHOICE, log entry 42). -/
def msgRoute (m : Msg) : Option Route :=
  match m with
  | .notify core _ _ _ k _ _ _ _ _ _ => some ⟨.core k, .core core, 4⟩
  | .bagPart q => some ⟨.exchange q.die, .vault (q.table.toNat / 8192), 3⟩
  | .bagDone q => some ⟨.vault q.vault, .exchange q.die, 3⟩
  | .count q => some ⟨.exchange q.die, .vault (q.table.toNat / 8192), 3⟩
  | .ack q => some ⟨.vault q.vault, .exchange q.die, 3⟩
  | .chunk q => some ⟨.clearing q.id.die, .clearing q.ddie, 3⟩
  | .chunkAck id _ _ _ src => some ⟨.clearing src, .clearing id.die, 1⟩
  | .counter _ _ die _ _ _ _ src => some ⟨.clearing src, .clearing die, 4⟩
  | .counterAck id src => some ⟨.clearing src, .clearing id.die, 1⟩

/-- R367: no earlier packet of the same route is still on its way. -/
def State.routeFirst (s : State) (n : Nat) (x : Msg) : Bool :=
  (msgRoute x).isNone || !((s.inbox.take n).any fun y => decide (msgRoute y = msgRoute x))

/-- A message that arrives: one in flight inside the module leaves the flight, in the order of its route (R367) (DESIGN CHOICE,
log entry 42). -/
def State.takeMsg (s : State) (m : MsgSrc) (ok : Msg → Bool) : Option (State × Msg) :=
  match m with
  | .fromPeer x => if ok x then some (s, x) else none
  | .inFlight n =>
    match s.inbox[n]? with
    | some x => if ok x && s.routeFirst n x then some ({ s with inbox := s.inbox.eraseIdx n }, x) else none
    | none => none

/-- R217, R33: a notification reaches the core it names. -/
def execRemoteNotifyArrival (m : MsgSrc) (s : State) : Host.Outcome State Fault Refusal :=
  .next (match s.takeMsg m Msg.isNotify with
    | some (s, x) => s.noteArrives x
    | none => s)

end Sys2Proof.Machine
end

