-- ==== Sys2Proof/Machine/Table.lean ====
section
/-! DEFINITION. Tables at their Vaults: row formats (R235, R236, R245), the frequency sketch (R326 to R328), arrival, start and
lookups of table commands (R248 to R252), the items of the shipped programs (R252, R255, R258), bag slots (R253, R254) and
completion (R250, R256). -/

namespace Sys2Proof.Machine

/-! ### Row formats -/

/-- R236: element `i` of a row of `n` bytes as a number. -/
def rowElem (f : Fmt) (l : List Byte) (i : Nat) : Ex :=
  match f with
  | .int4 =>
    let v := (l.getD (4 + i / 2) 0).toNat / 16 ^ (i % 2) % 16
    Ex.ofInt (if v < 8 then v else (v : Int) - 16)
  | .int8 => Ex.ofInt (l.getD (4 + i) 0).toInt
  | .e4m3 => FloatFmt.e4m3.decode (l.getD i 0).toNat
  | .e5m2 => FloatFmt.e5m2.decode (l.getD i 0).toNat
  | .bf16 => FloatFmt.bf16.decode (leNat ((l.drop (2 * i)).take 2))
  | _ => f32 (leWord ((l.drop (4 * i)).take 4))

/-- R235: the scale and bias of an integer row. -/
def rowScale (l : List Byte) : Ex := FloatFmt.fp16.decode (leNat (l.take 2))
def rowBias (l : List Byte) : Ex := FloatFmt.fp16.decode (leNat ((l.drop 2).take 2))

/-- A table's format (R234). -/
def descForm (e : BitVec 256) : Fmt := (Fmt.ofCode (descFmt e)).getD .fp32
def fmtIsInt : Fmt → Bool
  | .int4 | .int8 => true
  | _ => false

/-- R236: a row as D FP32 values. -/
def dequant (e : BitVec 256) (l : List Byte) : List Word :=
  (List.range (descD e)).map fun i =>
    let f := descForm e
    if fmtIsInt f then w32 (Ex.fma .rne (rowElem f l i) (rowScale l) (rowBias l)).1
    else if f = .fp32 then leWord ((l.drop (4 * i)).take 4)
    else w32 (rowElem f l i)

/-- R245: the scale and bias recomputed from the lanes, as the four bytes that begin the row; `old` where a lane is not
finite. -/
def requant (f : Fmt) (old : List Byte) (x : List Word) : List Byte :=
  if x.any notFinite then old.take 4
  else
    match x with
    | [] => old.take 4
    | a :: t =>
      let lo := t.foldl min32 a
      let hi := t.foldl max32 a
      let half : Word := 0x3F000000
      let b := (rne16 (f32 (times (plus hi lo) half))).1
      let qr := w32 (Ex.ofInt (if f = .int4 then 14 else 254))
      let s := (rne16 (f32 (overW (minus hi lo) qr))).1
      let bad := s % 0x8000 = 0 || FloatFmt.fp16.isSubnormal s || (FloatFmt.fp16.decode s).isInf
      leBytes 2 (if bad then 0x3C00 else s) ++ leBytes 2 b

/-- R245: one integer element. -/
def quantElem (f : Fmt) (s b : Ex) (x : Word) : Int :=
  let m : Int := if f = .int4 then 7 else 127
  if s.isZero then 0
  else
    let q := w32 (Ex.div (f32 (w32 (Ex.sub .rne (f32 x) b).1)) s).1
    if (f32 q).isNan then 0 else (roundToInt (-m) m .rne (f32 q)).1

/-- R245, R235: the bytes of a row with these lanes, its padding zero; `old` are its bytes before. -/
def quantise (e : BitVec 256) (rq : Bool) (old : List Byte) (x : List Word) : List Byte :=
  let f := descForm e
  let data : List Byte :=
    if fmtIsInt f then
      let head := if rq then requant f old x else old.take 4
      let q := x.map (quantElem f (rowScale head) (rowBias head))
      head ++
        (if f = .int4 then (pieces 2 q.length q).map fun p => BitVec.ofInt 8 (p.getD 0 0 % 16 + 16 * (p.getD 1 0 % 16))
         else q.map (BitVec.ofInt 8 ·))
    else
      match f with
      | .e4m3 => x.flatMap fun w => leBytes 1 (FloatFmt.e4m3.round .rne true false (f32 w)).1
      | .e5m2 => x.flatMap fun w => leBytes 1 (FloatFmt.e5m2.round .rne true false (f32 w)).1
      | .bf16 => x.flatMap fun w => leBytes 2 (rnebf16 (f32 w)).1
      | _ => x.flatMap fun w => leBytes 4 w.toNat
  data ++ List.replicate (descRsz e - data.length) 0

/-! ### Where a row lies -/

/-- R374: the die that a Vault stands on. -/
def vaultDie (v : Nat) : Nat := v / 4

/-- R235, R330: the bytes of a row's slot, or of its state record; ASID 0 translates the home addresses (R336). -/
def State.rowAddrs (s : State) (v slot row : Nat) (rec_ : Bool) (acc : Access) : Acc (List Nat) :=
  let x := s.vault v
  let e := x.desc slot
  let n := if rec_ then descSsz e else descRsz e
  match x.residentWay slot row with
  | some w =>
    let a := s.wayAddr x slot (tillSet (x.tillEntry slot) row) w + if rec_ then descRsz e else 0
    if s.awaited a |>.isSome then .wait (s.awaited a) else .ok ((List.range n).map (a + ·))
  | none =>
    let va := if rec_ then descState e + row * descSsz e else descHome e + row * descRsz e
    (s.rowSpan (vaultDie v) acc (BitVec.ofNat 64 va) n).acc

/-- The virtual address of a row, which its records name. -/
def rowVa (e : BitVec 256) (row : Nat) : Dword := BitVec.ofNat 64 (descHome e + row * descRsz e)

/-- The youngest handed value of a byte. -/
def handed (l : List RowWrite) (a : Nat) : Option Byte :=
  l.foldl (fun acc w => if Tab.has w.bytes a then some (Tab.get 0 w.bytes a) else acc) none

/-- R246: bytes of memory past every L2 (R279), under what items have handed to the channels. -/
def State.rowBytes (s : State) (w : List RowWrite) (l : List Nat) : List Byte :=
  l.map fun a => (handed w a).getD (s.mem.read a)

/-- R334: a byte whose sector is poisoned, and over which no item has stored. -/
def State.rowPoisoned (s : State) (w : List RowWrite) (a : Nat) : Bool := s.poison.contains (a / 64) && (handed w a).isNone

/-- R343: what a read of a row and its state record leaves in the die's translation cache. -/
def State.rowFill (s : State) (v slot row : Nat) : State :=
  let x := s.vault v
  let e := x.desc slot
  if (x.residentWay slot row).isSome then s
  else
    (s.devFill (vaultDie v) (rowVa e row) (descRsz e)).devFill (vaultDie v)
      (BitVec.ofNat 64 (descState e + row * descSsz e)) (descSsz e)

/-- R322: the unit paired with the channel of the first byte of a row's home, in the Vault wherever the row is resident. -/
def State.homeUnit (s : State) (v slot row : Nat) : Acc UnitId :=
  let va := rowVa ((s.vault v).desc slot) row
  match s.translate (s.asidRoot (vaultDie v) none 0) true .read va with
  | .ok a _ => .ok (.vault v (a / 4096 % 16))
  | .fault c => (Span.fault c va).acc.bind fun _ => .ok (.vault v 0)
  | .wait d => .wait d
/-- R330: the base-die unit of a row's set. -/
def State.tillUnit (s : State) (v slot row : Nat) : UnitId :=
  let set := tillSet ((s.vault v).tillEntry slot) row
  .base (set % 8) (set / 8 % 8)

/-! ### Sketch and promotion queue (R326 to R328) -/

def sketchKey (slot j h : Nat) : Nat := 262144 * slot + 65536 * j + h
def sketchHash (j row : Nat) : Nat := bits (row * sketchA j) 63 48
def Vault.estimate (x : Vault) (slot row : Nat) : Nat :=
  ((List.range 4).map fun j => Tab.get 0 x.sketch (sketchKey slot j (sketchHash j row))).foldl min 65535

/-- R327: one lookup counts. -/
def Vault.count (x : Vault) (slot row : Nat) : Vault :=
  let t := x.tillEntry slot
  if !tillEn t then x
  else
    let sk := (List.range 4).foldl (fun m j =>
      let k := sketchKey slot j (sketchHash j row)
      Tab.put m k (min 65535 (Tab.get 0 m k + 1))) x.sketch
    let n := (Tab.get 0 x.lcnt slot + 1) % 2 ^ 32
    if tillDecay t ≠ 0 ∧ n = tillDecay t then
      { x with
        sketch := sk.map fun (k, v) => (k, if k / 262144 = slot then v / 2 else v)
        lcnt := Tab.put x.lcnt slot 0 }
    else { x with sketch := sk, lcnt := Tab.put x.lcnt slot n }

/-- R328: queues a row for promotion. -/
def Vault.queueRow (x : Vault) (tid : BitVec 16) (row : Nat) : Vault :=
  let slot := tid.toNat % 8192
  let t := x.tillEntry slot
  if tillEn t && decide (tillSets t ≠ 0) && (x.residentWay slot row).isNone && !x.promo.contains (tid, row) &&
      !(x.moves.any fun m => decide (m.table = tid) && decide (m.row = row)) && decide (x.promo.length < Config.promoQueue) then
    { x with promo := x.promo ++ [(tid, row)] }
  else x

/-- R327, R328: a lookup of a row. -/
def Vault.lookup (x : Vault) (tid : BitVec 16) (row : Nat) : Vault :=
  let slot := tid.toNat % 8192
  let x := x.count slot row
  let th := descThresh (x.desc slot)
  if tillEn (x.tillEntry slot) && decide (th ≠ 0) && decide (th ≤ x.estimate slot row) then x.queueRow tid row else x

/-! ### Commands at a Vault -/

def cmdSlot (c : TblCmd) : Nat := c.table.toNat % 8192
def Vault.cmd (x : Vault) (order : Nat) : Option TblCmd := x.cmds.find? fun c => decide (c.order = order)
def Vault.putCmd (x : Vault) (c : TblCmd) : Vault :=
  { x with cmds := x.cmds.map fun y => if y.order = c.order then c else y }
def State.modVault (s : State) (v : Nat) (f : Vault → Vault) : State := s.setVault v (f (s.vault v))
def TblCmd.setItem (c : TblCmd) (n : Nat) (i : Item) : TblCmd := { c with items := setAt c.items n i }
def TblCmd.setBag (c : TblCmd) (n : Nat) (b : Bag) : TblCmd := { c with bags := setAt c.bags n b }

/-- Every lookup of the command has been made. -/
def TblCmd.allLooked (c : TblCmd) : Bool := c.started && c.bags.all fun b => b.looked

/-- The core whose address words a party's command uses. -/
def issuerCore : Issuer → Nat
  | .ctx k _ => k
  | .hand k _ _ => k
  | .entry d _ _ => 48 * d

/-- The issuing party as the Vault sees it. -/
def State.partyOf (s : State) (by_ : Issuer) (card : Nat) (baddr : Dword) : Party :=
  match by_ with
  | .ctx k c => { k, by_, card, baddr, ctx := s.ctx k c, role := none }
  | .hand k r p =>
    let h := match r with | .load => (s.core k).loadHand | .store => (s.core k).storeHand
    { k, by_, card, baddr, ctx := { s.ctx k p with wwin := h.wwin, awin := h.awin, cwin := h.cwin }, role := none }
  | .entry _ _ _ => { k := issuerCore by_, by_, card, baddr, ctx := {}, role := none }

/-- A record of a table command (R302). -/
def TblCmd.record (c : TblCmd) (cause : Cause) (trap : Bool) (pay : List Dword) : EngRec :=
  { cause, trap, src := 2, ch := c.ch, id := c.id, baddr := c.baddr, pay }

/-- It is sent to the issuing context; a part or a collective update has none here. -/
def State.cmdRecord (s : State) (c : TblCmd) (cause : Cause) (trap : Bool) (pay : List Dword) : State :=
  s.sendTo c.by_ c.card (c.record cause trap pay)

/-- R254, R385: an Index-Range record that traps is among the context's engine records at once; another one travels. -/
def State.rangeRecord (s : State) (c : TblCmd) (pay : List Dword) : State :=
  let r := c.record .indexRange c.trap pay
  match c.by_.ctx? with
  | some (k, x) => if c.trap then s.deliver c.card k x r else s.sendTo c.by_ c.card r
  | none => s

/-- R367: sends a message to rank `r` of a group; one to this module's own rank stays inside. -/
def State.send (s : State) (group r : Nat) (m : Msg) : State :=
  if r = groupRank (s.group group) then { s with inbox := s.inbox ++ [m] } else { s with outbox := s.outbox ++ [(group, r, m)] }

/-- R264: the owner's answer for a bag part. -/
def Bag.partial? (b : Bag) (n : Nat) : PartialBag :=
  { bag := n, poison := b.poison.map Prod.fst, split := b.split, out := (b.out.map Prod.fst).getD [] }

/-- R265: the pairs of a rank that its owner drops for their index, as source position and global index. -/
def droppedPairs (rows : Nat) (m : CountMsg) : List (Nat × Dword) :=
  (m.pairs.filter fun p => decide (p.idx < 0) || decide ((rows : Int) ≤ p.idx)).map fun p => (p.pos, p.glob)

/-- R265, R266: the owner answers every rank that contributed. -/
def State.ackCollect (s : State) (v : Nat) (c : Collect) (slot : Nat) (ok : Bool) : State :=
  let rows := descRows ((s.vault v).desc slot)
  let me := groupRank (s.group c.group)
  c.counts.foldl (fun s m =>
    s.send c.group m.rank
      (.ack { vault := v, die := m.die, stage := m.stage, owner := me, ok, dropped := if ok then droppedPairs rows m else [] })) s

/-- The unit runs the item no more. -/
def RowUnit.free (r : RowUnit) : RowUnit :=
  { r with item := none, holds := [], suspended := false, rowDue := none, stateDue := none }

/-- R334: what an item has handed is not written when it has read poison. -/
def Vault.dropPoisoned (x : Vault) (order it : Nat) (p : Option Dword) : Vault :=
  if p.isSome then { x with writes := x.writes.filter fun w => !(decide (w.order = order) && decide (w.it = it)) } else x

/-- The end of a command at its Vault: it leaves the list, its units are free, and whoever sent it is answered. What its items
have handed to the channels stays (R250). -/
def State.finishCmd (s : State) (v : Nat) (c : TblCmd) (err : Option (Cause × List Dword)) : State :=
  let mine (u : RowUnit) : Option Nat :=
    match u.item with
    | some (v', o, it) => if v' = v ∧ o = c.order then some it else none
    | none => none
  let s := s.modVault v fun x =>
    s.units.foldl (fun x (_, u) => match mine u with | some it => x.dropPoisoned c.order it u.poison | none => x)
      { x with cmds := x.cmds.filter fun y => !decide (y.order = c.order) }
  let s := { s with units := s.units.map fun (k, u) => (k, if (mine u).isSome then u.free else u) }
  match c.src with
  | .transfer k ch id =>
    (match (s.core k).findTransfer ch id with
      | none => s
      | some t =>
        match err with
        | some (cause, pay) => s.endTransfer k t cause pay
        | none => s.finishTransfer k t true)
  | .part m =>
    let parts := (List.range c.bags.length).filterMap fun i =>
      (c.bags[i]?).map fun b => b.partial? ((m.parts[i]?.map (·.bag)).getD 0)
    s.send m.group m.srcRank
      (.bagDone
        { vault := v, die := m.die, stage := m.stage, rank := groupRank (s.group m.group), ok := err.isNone
          parts := if err.isNone then parts else [] })
  | .upd group tag =>
    (match s.collects.find? fun x => decide (x.group = group) && decide (x.tag = tag) with
      | none => s
      | some x =>
        { s.ackCollect v x (cmdSlot c) err.isNone with
          collects := s.collects.filter fun y => !(decide (y.group = group) && decide (y.tag = tag)) })

/-- R250: the Vault ends a command. -/
def State.endCmd (s : State) (v : Nat) (c : TblCmd) : State := s.finishCmd v c (some (.remoteError, []))

/-- What a stopped access of a command in a space asks for (R218, R348, R379). -/
def State.cmdStopIn (s : State) (v : Nat) (c : TblCmd) (asid : BitVec 16) (x : Acc Unit) : State :=
  match x with
  | .ok _ => s
  | .fault e va => s.finishCmd v c (some (e, [va]))
  | .page w va =>
    (match c.src with
      | .transfer k ch id => s.askPage asid va w (.transfer k ch id)
      | _ => s.askPage asid va w (.command v c.order))
  | .wait d => s.awaitDomain (vaultDie v) d

/-- A stopped access to a row, which the Vault makes in the module space (R336, R350). -/
def State.cmdStop (s : State) (v : Nat) (c : TblCmd) (x : Acc Unit) : State := s.cmdStopIn v c 0 x

/-! ### Arrival and start (R248 to R251) -/

/-- The command that a transfer brings. -/
def Transfer.tblCmd (t : Transfer) (k order : Nat) : TblCmd :=
  let l := t.recd
  { src := .transfer k t.ch t.id, kind := t.kind.code, table := tcTable l, prog := tcProg l, mode := tcMode l,
    seqm := tcSeq l, wen := tcWen l, eos := tcEos l, fence := tcFence l, nidx := tcNidx l, nbags := tcNbags l, consts := tcConsts l
    trap := t.irtrap, by_ := t.by_, baddr := t.baddr, card := t.card, ch := BitVec.ofNat 4 t.ch, id := t.id, ring := t.ring
    idxs := [], wts := [], offs := [], grads := [], order }

/-- A command enters its Vault's list. -/
def State.arrive (s : State) (v : Nat) (mk : Nat → TblCmd) : State :=
  s.modVault v fun x => { x with cmds := x.cmds ++ [mk x.arrivals], arrivals := x.arrivals + 1 }

/-- R234: the Vault of a table. -/
def tableVault (t : BitVec 16) : Nat := t.toNat / 8192

def TransKind.isTable : TransKind → Bool
  | .tgather | .tupdate | .tprefetch => true
  | _ => false

/-- R249: a started table command reaches its Vault, after the earlier ones of its channel. -/
def execTableCommandArrival (k ch id : Nat) (s : State) : Host.Outcome State Fault Refusal :=
  .next (match (s.core k).findTransfer ch (BitVec.ofNat 64 id) with
    | none => s
    | some t =>
      let first := (s.core k).transfers.find? fun x => decide (x.ch = ch) && x.kind.isTable && !x.sent
      if t.started && t.kind.isTable && !t.sent && decide (first = some t) then
        (s.modCore k fun q => q.putTransfer { t with sent := true }).arrive (tableVault (tcTable t.recd)) fun n => t.tblCmd k n
      else s)

/-- R250: a descriptor that a command may use. -/
def descBad (e : BitVec 256) : Bool :=
  !descValid e || decide (e.extractLsb' 244 12 ≠ 0) || decide (e.extractLsb' 168 24 ≠ 0) || decide (e.extractLsb' 116 12 ≠ 0) ||
    decide (e.extractLsb' 20 12 ≠ 0) || decide (descNsr e = 3) || decide (4 < descNss e) ||
    !((match Fmt.ofCode (descFmt e) with
      | some .int4 | some .int8 | some .e4m3 | some .e5m2 | some .bf16 | some .fp32 => true
      | _ => false)) ||
    decide (descRows e = 0) || decide (descHome e % 65536 ≠ 0) || decide (descState e % 65536 ≠ 0) ||
    (decide (descNsr e = 0) && decide (descNss e = 0) && decide (descState e ≠ 0))

/-- R250: the state that a program needs. -/
def progLacks (e : BitVec 256) (prog : Nat) : Bool :=
  ((decide (prog = 1) || decide (prog = 3)) && decide (descNss e = 0)) ||
    ((decide (prog = 2) || decide (prog = 3)) && decide (descNsr e = 0))

/-- R250: whether an output slot of the ring holds D values, or D triples. -/
def State.slotShort (s : State) (c : TblCmd) (d : Nat) (tri : Bool) : Bool :=
  match c.ring with
  | none => false
  | some (k, h) => decide (((s.core k).ring (BitVec.ofNat 4 h)).slotBytes < 64 + d * if tri then 12 else 4)

/-- R250: what ends a command when it starts; a gradient list in a buffer in which the issuer has no window does too (DESIGN CHOICE,
log entry 48). -/
def State.cmdBad (s : State) (v : Nat) (c : TblCmd) (grads : Option Place) : Bool :=
  let e := (s.vault v).desc (cmdSlot c)
  descBad e || (decide (c.kind = 1) && progLacks e c.prog.toNat) ||
    (decide (c.kind = 0) && s.slotShort c (descD e) (decide (c.mode = .stats))) ||
    (match grads with
      | none => false
      | some p =>
        let pt := s.partyOf c.by_ c.card c.baddr
        s.placeDenied pt p || (s.placeOut pt p (4 * descD e * c.nidx)).isSome)

/-- The words and signed integers of a list. -/
def listWords (l : List Byte) : List Word := (pieces 4 l.length l).map leWord
def listInts (n : Nat) (l : List Byte) : List Int := (pieces n l.length l).map fun b => (BitVec.ofNat (8 * n) (leNat b)).toInt

/-- R251: bag b of a gather. -/
def mkBag (rows : Nat) (nidx : Nat) (offs idxs : List Int) (wts : List Word) (b : Nat) : Bag :=
  let lo := offs.getD b 0
  let hi := offs.getD (b + 1) 0
  let none_ (p : Nat × Dword) (n : Nat) : Bag :=
    { mem := [], nmem := n, poison := some p, empty := false, split := false, looked := false, out := none, nanIn := false }
  let bad (x : Int) : Bool := decide (x < 0) || decide ((nidx : Int) < x)
  if bad lo then none_ (b, 0) 0
  else if bad hi || decide (hi < lo) then none_ (b + 1, 0) 0
  else
    let ps := (List.range (hi - lo).toNat).map fun i => lo.toNat + i
    match ps.find? fun p => decide (idxs.getD p 0 < 0) || decide ((rows : Int) ≤ idxs.getD p 0) with
    | some p => none_ (p, BitVec.ofInt 64 (idxs.getD p 0)) ps.length
    | none =>
      { mem := ps.map fun p => { pos := p, row := (idxs.getD p 0).toNat, wt := wts.getD p one32 }
        nmem := ps.length, poison := none, empty := ps.isEmpty, split := false, looked := false, out := none, nanIn := false }

/-- R264: the bag of a part that another rank sent; its poison is the lowest position out of range. -/
def partBag (rows : Nat) (p : BagPart) : Bag :=
  let bad := p.mem.filter fun m => decide (m.idx.toInt < 0) || decide ((rows : Int) ≤ m.idx.toInt)
  match bad with
  | m :: _ =>
    { mem := [], nmem := p.mem.length, poison := some (m.pos, m.idx), empty := false, split := false, looked := false
      out := none, nanIn := false }
  | [] =>
    { mem := p.mem.map fun m => { pos := m.pos, row := m.idx.toNat, wt := m.wt }, nmem := p.mem.length, poison := none
      empty := p.mem.isEmpty, split := false, looked := false, out := none, nanIn := false }

/-- Places a value in a list ordered by a key, after its equals. -/
def insertBy {α : Type} (key : α → Int) (x : α) : List α → List α
  | [] => [x]
  | y :: t => if key y ≤ key x then y :: insertBy key x t else x :: y :: t
/-- R255 item 1: the stable sort. -/
def sortBy {α : Type} (key : α → Int) (l : List α) : List α := l.foldl (fun acc x => insertBy key x acc) []

/-- Lane-wise sum. -/
def addLanes (a b : List Word) : List Word := (List.range (max a.length b.length)).map fun i => plus (a.getD i 0) (b.getD i 0)

/-- R255 items 2 and 3: the items of an update, from its sorted positions and their gradient rows. -/
def updateItems (seqm : Bool) : List (ItemPos × List Word) → List Item
  | [] => []
  | (p, g) :: t =>
    let rest := updateItems seqm t
    let own : Item := { kind := .update, bag := 0, poss := [p], grad := g, unit := .vault 0 0 }
    if seqm then own :: rest
    else
      match rest with
      | i :: r =>
        if i.poss.any fun q => decide (q.row = p.row) then
          { i with poss := p :: i.poss } :: r
        else own :: rest
      | [] => [own]

/-- The gradient of a combined item: its rows added in ascending position. -/
def coalesce (grads : List (List Word)) (i : Item) : Item :=
  match i.poss with
  | [] => i
  | p :: t => { i with grad := t.foldl (fun g q => addLanes g (grads.getD q.pos [])) (grads.getD p.pos []) }

/-- R254: the first 32 bytes of a bag slot as dwords. -/
def slotHead (status : Nat) (bag : Nat) (id : Dword) (pos : Nat) (idx : Dword) : List Dword :=
  [BitVec.ofNat 64 (status + bag * 2 ^ 32), id, BitVec.ofNat 64 pos, idx]

/-- R331: whether a row is in a move. -/
def Vault.moving (x : Vault) (tid : BitVec 16) (row : Nat) : Bool :=
  x.moves.any fun m => decide (m.table = tid) && decide (m.row = row)

/-- R250, R251, R255: the lists have been read; the work is split. An update's look-ups wait for the rows that move (R331), and
the command starts when it can make them all (DEDUCED, log entry 25). The record of an update's bad index has the status of a
poisoned bag of no member (DESIGN CHOICE, log entry 48). -/
def State.splitCmd (s : State) (v : Nat) (c : TblCmd) : State :=
  let e := (s.vault v).desc (cmdSlot c)
  let rows := descRows e
  match c.kind with
  | 0 =>
    let bags := match c.src with
      | .part m => m.parts.map (partBag rows)
      | _ => (List.range c.nbags).map (mkBag rows c.nidx c.offs c.idxs c.wts)
    s.modVault v fun x => x.putCmd { c with bags, started := true }
  | 1 =>
    let ps := (List.range c.idxs.length).filter fun p => decide (0 ≤ c.idxs.getD p 0) && decide (c.idxs.getD p 0 < rows)
    let out := (List.range c.idxs.length).filter fun p => !ps.contains p
    let poss : List ItemPos := ps.map fun p => { pos := p, row := (c.idxs.getD p 0).toNat, wt := one32 }
    let items := updateItems c.seqm
      ((sortBy (fun (q : ItemPos) => (q.row : Int)) poss).map fun q => (q, c.grads.getD q.pos []))
    let items := if c.seqm then items else items.map (coalesce c.grads)
    if poss.any fun q => (s.vault v).moving c.table q.row then s
    else
    let s := s.modVault v fun x =>
      (poss.foldl (fun x q => x.lookup c.table q.row) x).putCmd { c with items, started := true }
    match c.src with
    | .upd _ _ => s
    | _ =>
      out.foldl (fun s p =>
        s.cmdRecord c .indexRange c.trap (slotHead 1 0 c.id p (BitVec.ofInt 64 (c.idxs.getD p 0)))) s
  | _ =>
    s.modVault v fun x =>
      (c.idxs.foldl (fun x (i : Int) => if 0 ≤ i ∧ i < (rows : Int) then x.queueRow c.table i.toNat else x) x).putCmd { c with started := true }

/-- R248: the Vault reads the lists of a command that a transfer brought (DEDUCED, log entry 25). -/
def State.readLists (s : State) (v : Nat) (c : TblCmd) (l : List Dword) : Acc TblCmd :=
  let k := issuerCore c.by_
  let asid := (s.card c.card).asid
  let rd (w : Dword) (n : Nat) : Acc (List Byte) := s.readPlace (.core k) (dieOf k) asid (wordPlace k w) n
  let e := (s.vault v).desc (cmdSlot c)
  (rd (dw l 2) (8 * c.nidx)).bind fun ix =>
    (if c.kind = 0 then rd (dw l 3) (4 * (c.nbags + 1)) else .ok []).bind fun of_ =>
      (if c.wen then rd (dw l 4) (4 * c.nidx) else .ok []).bind fun wt =>
        (if c.kind = 1 then rd (dw l 3) (4 * descD e * c.nidx) else .ok []).bind fun gr =>
          .ok { c with
            idxs := listInts 8 ix, offs := listInts 4 of_, wts := listWords wt
            grads := (pieces (4 * descD e) c.nidx gr).map listWords }

/-- R343: what those reads leave in the translation caches. -/
def State.listFill (s : State) (v : Nat) (c : TblCmd) (l : List Dword) : State :=
  let k := issuerCore c.by_
  let fill (w : Dword) (n : Nat) (s : State) : State := s.placeFill (.core k) (dieOf k) (s.card c.card).asid (wordPlace k w) n
  let s := fill (dw l 2) (8 * c.nidx) s
  let s := if c.kind = 0 then fill (dw l 3) (4 * (c.nbags + 1)) s else s
  let s := if c.wen then fill (dw l 4) (4 * c.nidx) s else s
  if c.kind = 1 then fill (dw l 3) (4 * descD ((s.vault v).desc (cmdSlot c)) * c.nidx) s else s

/-- R249, R257: whether a command may start: every earlier one has started and made its lookups, and a table fence waits for
the updates of its table (DEDUCED, log entry 25). -/
def Vault.mayStart (x : Vault) (c : TblCmd) : Bool :=
  (x.cmds.all fun y =>
    !decide (y.order < c.order) ||
      (y.allLooked && !(c.fence && decide (y.kind = 1) && decide (y.table = c.table)))) &&
    !(c.fence && x.writes.any fun w => decide (w.order < c.order) && decide (w.table = c.table))

/-- R249: the Vault starts the n-th command it holds. -/
def execTableCommandStart (v n : Nat) (s : State) : Host.Outcome State Fault Refusal :=
  .next (match (s.vault v).cmds[n]? with
    | none => s
    | some c =>
      if c.started || !(s.vault v).mayStart c then s
      else
        match c.src with
        | .transfer k ch id =>
          let l := ((s.core k).findTransfer ch id).map (·.recd) |>.getD []
          if s.cmdBad v c (if c.kind = 1 then some (wordPlace k (dw l 3)) else none) then s.endCmd v c
          else
            (match s.readLists v c l with
              | .ok c => (s.listFill v c l).splitCmd v c
              | x => s.cmdStopIn v c (s.card c.card).asid x.unit)
        | _ => if s.cmdBad v c none then s.endCmd v c else s.splitCmd v c)

/-! ### Lookups of bags (R252, R327) -/

/-- R252: looks up the members of bag `b`, counts them, and makes its items; none while a member's row moves (DEDUCED,
log entry 25). -/
def State.lookBag (s : State) (v : Nat) (c : TblCmd) (b : Nat) : Option (State × TblCmd) :=
  match c.bags[b]? with
  | none => none
  | some g =>
    let x := s.vault v
    if g.mem.any fun m => x.moving c.table m.row then none
    else
      let slot := cmdSlot c
      let inT (m : ItemPos) : Bool := (x.residentWay slot m.row).isSome
      let vs := g.mem.filter fun m => !inT m
      let ts := g.mem.filter inT
      let mk (k : ItemKind) (l : List ItemPos) (u : UnitId) : List Item :=
        if l.isEmpty then [] else [{ kind := k, bag := b, poss := l, grad := [], unit := u }]
      let first (l : List ItemPos) : Nat := (l.head?.map (·.row)).getD 0
      let items :=
        if c.prog = 0x10 then mk .gatherRow g.mem (.vault v 0)
        else mk .gatherV vs (.vault v 0) ++ mk .gatherT ts (s.tillUnit v slot (first ts))
      let split := decide (c.prog ≠ 0x10) && !vs.isEmpty && !ts.isEmpty
      let c := { c.setBag b { g with looked := true, split } with items := c.items ++ items }
      let x := (g.mem.foldl (fun x m => x.lookup c.table m.row) x).putCmd c
      some (s.setVault v x, c)

/-- R327: the next bag of the command that has not been looked up, after every lookup of the commands before it. -/
def State.lookNext (s : State) (v : Nat) (c : TblCmd) : Option (State × TblCmd) :=
  match (List.range c.bags.length).find? fun b => !((c.bags[b]?.map (·.looked)).getD true) with
  | none => none
  | some b =>
    if (s.vault v).cmds.all fun y => !decide (y.order < c.order) || y.allLooked then s.lookBag v c b else none

/-- Looks up bags until item `it` exists, at most `fuel` of them. -/
def State.lookToItem (s : State) (v : Nat) (c : TblCmd) (it : Nat) : Nat → State × TblCmd
  | 0 => (s, c)
  | f + 1 =>
    if it < c.items.length then (s, c)
    else match s.lookNext v c with | none => (s, c) | some (s, c) => State.lookToItem s v c it f

/-- Looks up bags until bag `b` has been. -/
def State.lookToBag (s : State) (v : Nat) (c : TblCmd) (b : Nat) : Nat → State × TblCmd
  | 0 => (s, c)
  | f + 1 =>
    if (c.bags[b]?.map (·.looked)).getD true then (s, c)
    else match s.lookNext v c with | none => (s, c) | some (s, c) => State.lookToBag s v c b f

/-! ### Items of the shipped programs (R252, R258) -/

/-- A row that an item reads, under what items have handed to the channels: its lanes, and the address of a poisoned byte (R334:
the lanes it affects read as NaN). -/
def State.readLanes (s : State) (v slot row : Nat) (w : List RowWrite) : Acc (List Word × Option Dword) :=
  let e := (s.vault v).desc slot
  (s.rowAddrs v slot row false .read).bind fun l =>
    let x := dequant e (s.rowBytes w l)
    let bad (i : Nat) : Bool := (l[i]?.map (s.rowPoisoned w)).getD false
    let f := descForm e
    let at_ (i : Nat) : List Nat :=
      match f with
      | .int4 => [0, 2, 4 + i / 2]
      | .int8 => [0, 2, 4 + i]
      | .e4m3 | .e5m2 => [i]
      | .bf16 => [2 * i]
      | _ => [4 * i]
    let hit := (List.range (descRsz e)).find? bad
    .ok (match hit with
      | none => (x, none)
      | some o =>
        ((List.range x.length).map fun i => if (at_ i).any bad then nan32 else x.getD i 0,
          some (rowVa e row + BitVec.ofNat 64 o)))

/-- Applies an action to each of a list, stopping at the first that does not answer. -/
def Acc.each {α β : Type} (f : β → α → Acc β) (b : β) : List α → Acc β
  | [] => .ok b
  | x :: t => (f b x).bind fun b => Acc.each f b t

/-- R252: `p := rne32(p + w × x)`, lane by lane. -/
def macLanes (p x : List Word) (w : Word) : List Word :=
  (List.range x.length).map fun i => (fma32 w (x.getD i 0) (p.getD i 0)).1
/-- The larger of each pair of lanes. -/
def maxLanes (a b : List Word) : List Word := (List.range b.length).map fun i => max32 (a.getD i 0) (b.getD i 0)
/-- Triples as words, and back. -/
def flatTriples (l : List Triple) : List Word := l.flatMap fun t => [t.w, t.mu, t.m2]
def wordTriples (l : List Word) : List Triple := (pieces 3 l.length l).map fun p => ⟨p.getD 0 0, p.getD 1 0, p.getD 2 0⟩

/-- R252: the partial of a part with one more member of lanes `x` and weight `w`; none before the first. -/
def poolStep (mode : PoolMode) (d : Nat) (p : Option (List Word)) (x : List Word) (w : Word) : List Word :=
  match mode with
  | .sum | .mean => macLanes (p.getD (List.replicate d 0)) x w
  | .max =>
    let y := x.map (times w)
    (match p with
      | none => y
      | some p => maxLanes p y)
  | .stats =>
    let t := (p.map wordTriples).getD (List.replicate d Triple.empty)
    flatTriples ((List.range d).map fun i => (qupdate (t.getD i Triple.empty) (x.getD i 0) w).1)

/-- R252: two partials combined; the first is the Vault's, or the earlier rank's (R264). -/
def combine (mode : PoolMode) (a b : List Word) : List Word :=
  match mode with
  | .sum | .mean => addLanes a b
  | .max => maxLanes a b
  | .stats =>
    flatTriples ((List.range (a.length / 3)).map fun i =>
      (qmerge ((wordTriples a).getD i Triple.empty) ((wordTriples b).getD i Triple.empty)).1)

/-- R252: the mean of a combined sum, over the members' weights in ascending position. -/
def meanOf (sum : List Word) (wts : List Word) : List Word :=
  let ws := wts.foldl plus 0
  if (f32 ws).isZero then sum.map fun _ => 0 else sum.map fun x => overW x ws

/-- R242: the lanes summed in ascending order. -/
def hsum (l : List Word) : Word := l.foldl plus 0
/-- R242, R243: `rne32(1 / rne32(sqrt(rne32(x + y))))`. -/
def rsqe (x y : Word) : Word := overW one32 (sqrt32 (plus x y)).1
/-- R237: s13. -/
def invD (d : Nat) : Word := overW one32 (w32 (Ex.ofInt d))

/-- R258: one step of a shipped optimiser: the row, the gradient, state row 0 and state scalar 0, and their new values. -/
def optimise (prog : Nat) (c : List Word) (w g : List Word) (sr : List Word) (ss : Word) : List Word × List Word × Word :=
  let k (i : Nat) : Word := c.getD i 0
  let d := w.length
  let sq := hsum (g.map fun x => times x x)
  let a := times sq (invD d)
  let step (x : List Word) (h : Word) : List Word :=
    (List.range d).map fun i => (fma32 (x.getD i 0) h (w.getD i 0)).1
  let neg (x : Word) : Word := minus 0 x
  match prog with
  | 1 =>
    let ss := plus ss a
    let h := times (rsqe ss (k 1)) (k 0)
    (step g (neg h), sr, ss)
  | 2 =>
    let v := (List.range d).map fun i => (fma32 (sr.getD i 0) (k 1) (g.getD i 0)).1
    (step v (neg (k 0)), v, ss)
  | 3 =>
    let m := (List.range d).map fun i => (fma32 (g.getD i 0) (minus one32 (k 1)) (times (sr.getD i 0) (k 1))).1
    let ss := (fma32 a (minus one32 (k 2)) (times ss (k 2))).1
    let h := times (times (k 0) (k 4)) (rsqe (times ss (k 5)) (k 3))
    (step m (neg h), m, ss)
  | _ => (step g (neg (k 0)), sr, ss)

/-- Poisoned bytes among addresses. -/
def State.poisonedOff (s : State) (w : List RowWrite) (l : List Nat) : Option Nat :=
  (List.range l.length).find? fun i => s.rowPoisoned w (l.getD i 0)

/-- R235: the padding of a state record at these addresses, which is written as zero. -/
def statePadding (e : BitVec 256) (sa : List Nat) : List (Nat × Byte) :=
  (sa.drop (descNsr e * descD e * 4 + descNss e * 4)).map fun a => (a, 0)

/-- R258: what an update item of a shipped program writes: physical bytes; or the poisoned address that stops it (R334). -/
def State.updateWrites (s : State) (v : Nat) (c : TblCmd) (i : Item) : Acc (List (Nat × Byte) × Option Dword) :=
  let slot := cmdSlot c
  let e := (s.vault v).desc slot
  let row := (i.poss.head?.map (·.row)).getD 0
  (s.rowAddrs v slot row false .write).bind fun ra =>
    (if descSsz e = 0 then .ok [] else s.rowAddrs v slot row true .write).bind fun sa =>
      let w := (s.vault v).writes
      let old := s.rowBytes w ra
      let st := s.rowBytes w sa
      let d := descD e
      let sr := listWords (st.take (4 * d))
      let so := 4 * d * descNsr e
      let (w', sr', ss') := optimise c.prog.toNat c.consts (dequant e old) i.grad sr (leWord ((st.drop so).take 4))
      let rowW := ra.zip (quantise e true old w')
      let stW := (if descNsr e = 0 then [] else sa.zip (sr'.flatMap fun w => leBytes 4 w.toNat)) ++
        (if descNss e = 0 then [] else (sa.drop so).zip (leBytes 4 ss'.toNat)) ++ statePadding e sa
      .ok (rowW ++ stW, (s.poisonedOff w (ra ++ sa)).map fun o => rowVa e row + BitVec.ofNat 64 o)

/-- R255 items 6 and 7: nothing earlier is still to run on an update item's row. -/
def Vault.rowFree (x : Vault) (c : TblCmd) (it : Nat) (row : Nat) : Bool :=
  let on (i : Item) : Bool := i.poss.any fun q => decide (q.row = row)
  (x.cmds.all fun y =>
    !(decide (y.order < c.order) && decide (y.kind = 1) && decide (y.table = c.table)) ||
      (y.started && y.items.all fun i => i.done || !on i)) &&
    (List.range it).all fun n => (c.items[n]?.map fun i => i.done || !on i).getD true

/-! ### Channels (R322 to R325); a unit cycle is two core cycles (R5) -/

/-- Unit cycles since a channel's last change (DESIGN CHOICE, log entry 11). -/
def State.chanSince (s : State) (c : ChanId) : Nat := (s.now - (s.chan c).since) / 2

/-- R323: a turn of a channel in row service is called for: a request is pending or, 256 unit cycles into row service, a
refresh or a scrub step is due. -/
def State.turnDue (s : State) (c : ChanId) : Bool :=
  let x := s.chan c
  !x.pending.isEmpty || (decide (256 ≤ s.chanSince c) && (x.due || Config.freeRefresh (chanKey c) s.now))

/-- R323: a turn of a channel is pending or running; it takes no new hold. -/
def State.turnPending (s : State) (c : ChanId) : Bool := decide ((s.chan c).svc ≠ .row) || s.turnDue c

/-- R325: another unit's read has the channel. -/
def State.readBusy (s : State) (u : UnitId) (c : ChanId) : Bool :=
  match (s.chan c).reader with
  | some (w, t) => decide (w ≠ u) && decide (s.now < t)
  | none => false

/-- The channels of a row and its state record. -/
def State.rowChans (s : State) (v slot row : Nat) : List ChanId :=
  let set := tillSet ((s.vault v).tillEntry slot) row
  let get (rec_ : Bool) : List ChanId :=
    match s.rowAddrs v slot row rec_ .read with
    | .ok l => (l.filterMap fun a => physChan a set).eraseDups
    | _ => []
  (get false ++ if descSsz ((s.vault v).desc slot) = 0 then [] else get true).eraseDups

/-- R325: when a read of a row's sectors, or of its state record's, that is requested now completes: 36 + 2n unit cycles on,
for n sectors in one channel. -/
def State.readDue (s : State) (v slot row : Nat) (rec_ : Bool) : Nat :=
  match s.rowAddrs v slot row rec_ .read with
  | .ok l =>
    let ch := (l.map (· / 64)).eraseDups.map fun u => physChan (64 * u) (tillSet ((s.vault v).tillEntry slot) row)
    s.now + (ch.map fun c => 2 * (36 + 2 * (ch.filter fun y => decide (y = c)).length)).foldl max 0
  | _ => s.now

/-! ### What items store (R246, R256) -/

/-- One more byte for the channel, beside the bytes of its sector that the item has handed already. -/
def addWrite (k : RowWrite) (l : List RowWrite) (x : Nat × Byte) : List RowWrite :=
  let own (w : RowWrite) : Bool := decide (w.order = k.order) && decide (w.it = k.it) && decide (w.sector = x.1 / 64)
  if l.any own then l.map fun w => if own w then { w with bytes := Tab.put w.bytes x.1 x.2 } else w
  else l ++ [{ k with sector := x.1 / 64, bytes := [x] }]

/-- R246: item `it` of a command hands bytes of a row, or of its state, to the channels. -/
def Vault.hand (x : Vault) (c : TblCmd) (u : UnitId) (it row : Nat) (l : List (Nat × Byte)) : Vault :=
  { x with
    writes := l.foldl (addWrite { order := c.order, it, table := c.table, row, sector := 0, bytes := [], unit := u }) x.writes }

/-- The item that handed the sector has ended. A reader sees a sector as it was before the item or as the item left it (R256),
and a row of an item that reads poison is not written (R334), so nothing performs before (DESIGN CHOICE, log entry 26). -/
def Vault.readyWrite (x : Vault) (w : RowWrite) : Bool :=
  match x.cmd w.order with
  | none => true
  | some c => (c.items[w.it]?.map (·.done)).getD true

/-- The channel of a sector that an item has handed. -/
def Vault.writeChan (x : Vault) (w : RowWrite) : Option ChanId :=
  physChan (64 * w.sector) (tillSet (x.tillEntry (w.table.toNat % 8192)) w.row)

/-- R325, R379: the sector can perform: no other unit's read has its channel, and its memory is not in RETENTION. -/
def State.mayPerform (s : State) (v : Nat) (w : RowWrite) : Bool :=
  (s.awaited (64 * w.sector)).isNone && !(((s.vault v).writeChan w).map (s.readBusy w.unit)).getD false

/-- A sector performs. -/
def State.rowPerforms (s : State) (v : Nat) (w : RowWrite) : State :=
  let x := s.vault v
  let s := (s.fresh.setVault v { x with writes := x.writes.erase w }).writeModule w.bytes
  match x.writeChan w with
  | some c => s.setChan c { s.chan c with lastWrite := some s.now }
  | none => s

/-- R256: one of the sectors that a test picks performs, those of one sector in the order in which they were handed, or all of
them wait; none where there is no such sector. -/
def State.performRow (s : State) (v : Nat) (pick : RowWrite → Bool) : Option State :=
  let x := s.vault v
  let l := (x.writes.filter fun w => pick w && x.readyWrite w).map fun z =>
    (x.writes.find? fun w => decide (w.sector = z.sector)).getD z
  let can := l.filter (s.mayPerform v)
  match l, can[Config.freeSector s.freeCtr % can.length]? with
  | [], _ => none
  | _, some w => some (s.rowPerforms v w)
  | _, none => some (s.awaitDomain (vaultDie v) (l.findSome? fun w => s.awaited (64 * w.sector)))

/-- R237: the registers of a unit at the start of an item. -/
def unitStart (prog : Option (Nat × List Dword)) (d k : Nat) (item : Nat × Nat × Nat) : RowUnit :=
  { prog, s := [(13, invD d), (14, w32 (Ex.ofInt d)), (15, w32 (Ex.ofInt k))], item := some item }

/-- R334: the record of a poisoned read, and the item's end. -/
def State.itemPoison (s : State) (c : TblCmd) (p : Option Dword) : State :=
  match p with
  | none => s
  | some va => s.cmdRecord c .memoryError true [va]

/-- R379: the unit's Vault is in RETENTION, where row units are stopped. -/
def State.unitStopped (s : State) (u : UnitId) : Bool :=
  match u with
  | .vault v _ => (s.awaited (vaultAddr v 0)).isSome
  | .base .. => false

/-- R237, R244, R252, R255: item `it` of the command starts on its unit (DESIGN CHOICE, log entry 26). -/
def State.startItem (s : State) (v : Nat) (c : TblCmd) (it : Nat) : State :=
  match c.items[it]? with
  | none => s
  | some i =>
    let slot := cmdSlot c
    let row := (i.poss.head?.map (·.row)).getD 0
    let x := s.vault v
    let upd := decide (i.kind = .update)
    let inTill := if upd then (x.residentWay slot row).isSome else decide (i.kind = .gatherT)
    match if inTill then .ok (s.tillUnit v slot row) else s.homeUnit v slot row with
    | .ok u =>
      if s.unitStopped u || i.started || (s.unit u).item.isSome || (upd && (x.moving c.table row || !x.rowFree c it row)) then s
      else
        let prog := some (c.prog.toNat, if c.prog = 0x10 then (s.card c.card).rowImage else [])
        (s.modVault v fun x => x.putCmd (c.setItem it { i with started := true, unit := u })).setUnit u
          (unitStart prog (descD (x.desc slot)) i.poss.length (v, c.order, it))
    | y => if i.started then s else s.cmdStop v c y.unit

/-- R237: a unit starts an item; bags are looked up until the item exists. -/
def execRowItemStart (v n it : Nat) (s : State) : Host.Outcome State Fault Refusal :=
  .next (match (s.vault v).cmds[n]? with
    | none => s
    | some c =>
      if !c.started then s
      else
        let (s, c) := s.lookToItem v c it c.bags.length
        s.startItem v c it)

/-! ### Combination, bag slots, completion (R252 to R254, R256) -/

/-- The output of a bag with no item: +0 in every element, or EMPTY. -/
def blankOut (d : Nat) (tri : Bool) : List Word × Bool :=
  (if tri then flatTriples (List.replicate d Triple.empty) else List.replicate d 0, tri)

/-- R252: the output of a bag from its finished items (DEDUCED, log entry 25). -/
def bagOut (c : TblCmd) (d : Nat) (g : Bag) (items : List Item) : List Word × Bool :=
  let blank := blankOut d (decide (c.mode = .stats))
  match items.filterMap (·.out) with
  | [] => blank
  | a :: t =>
    if c.prog = 0x10 then a
    else
      let o := t.foldl (fun p b => combine c.mode p b.1) a.1
      match c.src, c.mode with
      | .transfer _ _ _, .mean => (meanOf o (g.mem.map (·.wt)), a.2)
      | _, _ => (o, a.2)

/-- R252: bag `b` has all its partials. -/
def execPoolCombine (v n b : Nat) (s : State) : Host.Outcome State Fault Refusal :=
  .next (match (s.vault v).cmds[n]? with
    | none => s
    | some c =>
      if !c.started || decide (c.kind ≠ 0) then s
      else
        let (s, c) := s.lookToBag v c b c.bags.length
        match c.bags[b]? with
        | none => s
        | some g =>
          let items := c.items.filter fun i => decide (i.bag = b)
          if !g.looked || g.out.isSome || !(items.all (·.done)) then s
          else
            let d := descD ((s.vault v).desc (cmdSlot c))
            let o := bagOut c d g items
            if s.slotShort c d o.2 then s.endCmd v c
            else
              let g := { g with out := some o, nanIn := g.nanIn || items.any (·.nanIn) }
              s.modVault v fun x => x.putCmd (c.setBag b g))

/-- R253: the status word of a bag slot. -/
def bagStatus (nmem : Nat) (nan split empty poison : Bool) : Nat :=
  min nmem 65535 * 65536 + (if nan then 16 else 0) + (if split then 8 else 0) + (if empty then 4 else 0) + if poison then 1 else 0
/-- R253: NAN. -/
def outNan (o : List Word × Bool) : Bool :=
  if o.2 then (wordTriples o.1).any fun t => decide (qclass t = .invalid) else o.1.any notFinite
def Bag.status (g : Bag) : Nat :=
  bagStatus g.nmem ((g.out.map outNan).getD false || g.nanIn) g.split g.empty g.poison.isSome
/-- R253, R254: the first 32 bytes of a bag's slot. -/
def Bag.head (g : Bag) (b : Nat) (id : Dword) : List Dword :=
  slotHead g.status b id ((g.poison.map Prod.fst).getD 0) ((g.poison.map Prod.snd).getD 0)

/-- R253: the bytes of a bag's slot. -/
def Bag.bytes (g : Bag) (b : Nat) (id : Dword) : List Byte :=
  (g.head b id).flatMap (fun w => leBytes 8 w.toNat) ++ List.replicate 32 0 ++
    ((g.out.map Prod.fst).getD []).flatMap fun w => leBytes 4 w.toNat

/-- How the next output of a gather fares on its ring: advanced, waiting for a free slot, or refused (R28). -/
inductive PutRes where
  | done (s : State)
  | full
  | bad

/-- R253, R28: writes a slot, or the end-of-stream token, in the Vault role; `spoilt` says whether the command was queued when
the ring's descriptor was rewritten (R220). -/
def State.putSlot (s : State) (ring : Nat × Nat) (spoilt : Ring → Bool) (data : Option (List Byte)) : PutRes :=
  let h := BitVec.ofNat 4 ring.2
  let r := (s.core ring.1).ring h
  if r.badP (decide (r.prod = .vault)) then .bad
  else if r.count ≤ r.fill.toNat then .full
  else
    let s' := if spoilt r then s.fresh else s
    .done (s'.modCore ring.1 fun q =>
      match data with
      | some l =>
        (if spoilt r then q.spoil s.freeCtr h r.tail.toNat else q.writeBuf r.buf (r.slotAddr r.tail.toNat) l).setRing h (r.advP 1)
      | none => q.setRing h r.advEos)

/-- R220: transfer `id` of a channel was issued before the ring's descriptor was last written. -/
def State.queuedBefore (s : State) (k ch : Nat) (id : Dword) (r : Ring) : Bool :=
  match (s.core k).findTransfer ch id with
  | some t => decide (t.order < r.stampT)
  | none => false

/-- R220: likewise of a Vault's command. -/
def State.cmdSpoilt (s : State) (c : TblCmd) (r : Ring) : Bool :=
  match c.src with
  | .transfer k ch id => s.queuedBefore k ch id r
  | _ => false

/-- R253, R254: the next bag of a command is written; a poisoned one sends its record. -/
def State.writeBag (s : State) (v n : Nat) : State :=
  match (s.vault v).cmds[n]? with
  | none => s
  | some c =>
    match c.ring with
    | none => s
    | some ring =>
      let protocol : State := s.finishCmd v c (some (.ringProtocol, [BitVec.ofNat 64 ring.2]))
      match c.bags[c.written]? with
      | some g =>
        if g.out.isNone then s
        else
          let s0 := if g.poison.isSome then s.rangeRecord c (g.head c.written c.id) else s
          (match s0.putSlot ring (s.cmdSpoilt c) (some (g.bytes c.written c.id)) with
            | .bad => protocol
            | .full => s
            | .done s' =>
              s'.modVault v fun x => x.putCmd { c with written := c.written + 1 })
      | none =>
        if c.started && c.eos && decide (c.written = c.nbags) then
          (match s.putSlot ring (s.cmdSpoilt c) none with
            | .bad => protocol
            | .full => s
            | .done s' => s'.modVault v fun x => x.putCmd { c with written := c.written + 1 })
        else s

/-- R253, R256, R266: everything that the command must do has been done. -/
def TblCmd.complete (c : TblCmd) : Bool :=
  c.started &&
    (match c.kind with
      | 0 => (match c.src with
        | .transfer _ _ _ => decide (c.written = c.nbags + if c.eos then 1 else 0)
        | _ => c.bags.all fun b => b.out.isSome)
      | 1 => c.items.all (·.done)
      | _ => true)

/-- R283: what the notification of a command waits for, and the core of its issuer. -/
def State.cmdNoteWait (s : State) (c : TblCmd) : Option (Nat × Await) :=
  match c.src with
  | .transfer k ch id => (((s.core k).findTransfer ch id).bind (s.noteWait k)).map fun w => (k, w)
  | _ => none

/-- R253, R256: a table command completes, once every sector that it has written has performed: while there is one, one
performs. With no command there, a sector of a command that has ended performs. -/
def execTableCommandComplete (v n : Nat) (s : State) : Host.Outcome State Fault Refusal :=
  .next (match (s.vault v).cmds[n]? with
    | none => (s.performRow v fun w => ((s.vault v).cmd w.order).isNone).getD s
    | some c =>
      match s.performRow v fun w => decide (w.order = c.order) with
      | some s => s
      | none =>
        if !c.complete then s
        else
          match s.cmdNoteWait c with
          | some (k, w) => s.awaitDomain (dieOf k) (some w)
          | none => s.finishCmd v c none)

end Sys2Proof.Machine
end

