-- ==== Sys2Proof/Machine/Rows.lean ====
section
/-! DEFINITION. Row units (R237 to R246): the micro-words, each executed by the unit in focus on the item it runs, the sector
reads that loads wait for (R325), and the word limit (R244). -/

namespace Sys2Proof.Machine

/-! ### The item a unit runs -/

/-- What a unit's micro-word sees of its command. -/
structure RowEnv where
  u : UnitId
  v : Nat
  cmd : TblCmd
  it : Nat
  item : Item
  slot : Nat
  desc : BitVec 256
  deriving DecidableEq, Repr

def RowEnv.d (e : RowEnv) : Nat := descD e.desc
/-- The item belongs to an update. -/
def RowEnv.upd (e : RowEnv) : Bool := decide (e.item.kind = .update)

/-- A unit runs an item of a shipped program. -/
def RowUnit.shipped (r : RowUnit) : Bool :=
  match r.prog with
  | some (n, _) => decide (n ≠ 16)
  | none => false

def State.rowEnv (s : State) (u : UnitId) : Option RowEnv :=
  match (s.unit u).item with
  | none => none
  | some (v, o, it) =>
    match (s.vault v).cmd o with
    | none => none
    | some cmd =>
      (cmd.items[it]?).map fun item =>
        { u, v, cmd, it, item, slot := cmdSlot cmd, desc := (s.vault v).desc (cmdSlot cmd) }

/-! ### Registers (R237) -/

def RowUnit.readG (r : RowUnit) (d : Nat) (n : RowReg) : List Word := Tab.get (List.replicate d 0) r.g n.toNat
def RowUnit.writeG (r : RowUnit) (n : RowReg) (l : List Word) : RowUnit := { r with g := Tab.put r.g n.toNat l }
def RowUnit.readT (r : RowUnit) (d : Nat) (n : Bool) : List Triple := Tab.get (List.replicate d Triple.empty) r.t (if n then 1 else 0)
def RowUnit.writeT (r : RowUnit) (n : Bool) (l : List Triple) : RowUnit := { r with t := Tab.put r.t (if n then 1 else 0) l }
/-- R237: `s0` reads +0. -/
def RowUnit.readS (r : RowUnit) (n : BitVec 4) : Word := if n = 0 then 0 else Tab.get 0 r.s n.toNat
/-- R237: a write of `s0` is discarded. -/
def RowUnit.writeS (r : RowUnit) (n : BitVec 4) (w : Word) : RowUnit := if n = 0 then r else { r with s := Tab.put r.s n.toNat w }

/-- The current row; none before the first `next` (R244). -/
def RowEnv.row (e : RowEnv) (r : RowUnit) : Option Nat :=
  match r.pos with
  | none => none
  | some p => (e.item.poss[p]?).map (·.row)

/-! ### Executing a micro-word -/

/-- How a micro-word ends: the unit's new state, a stall, or the state in which its item or command has ended. -/
inductive RowRes where
  | go (r : RowUnit)
  | stall (s : State)
  | stop (s : State)
  deriving DecidableEq, Repr

/-- R242: the next micro-word of the unit in focus, the micro-PC wrapping from word 1,023 to word 0 (R244). -/
def State.unitDo (s : State) (f : State → RowEnv → RowUnit → RowRes) : State :=
  match s.focus with
  | .unit u =>
    (match s.rowEnv u with
      | none => s
      | some e =>
        let r := s.unit u
        if s.unitStopped u || r.shipped || decide (Config.itemWords ≤ r.words) then s
        else
          match f s e { r with pc := r.pc + 1, words := r.words + 1, suspended := false } with
          | .go r => s.setUnit u r
          | .stall s => s
          | .stop s => s)
  | _ => s

/-- An element operation into a row register. -/
def rowLanes (gd : RowReg) (f : RowEnv → RowUnit → Nat → Word) (s : State) : Host.Outcome State Fault Refusal :=
  .next (s.unitDo fun _ e r => .go (r.writeG gd ((List.range e.d).map (f e r))))

/-- A scalar operation. -/
def rowScalar (sd : BitVec 4) (f : RowEnv → RowUnit → Word) (s : State) : Host.Outcome State Fault Refusal :=
  .next (s.unitDo fun _ e r => .go (r.writeS sd (f e r)))

/-- A triple operation. -/
def rowTriples (t : Bool) (f : RowEnv → RowUnit → Nat → Triple) (s : State) : Host.Outcome State Fault Refusal :=
  .next (s.unitDo fun _ e r => .go (r.writeT t ((List.range e.d).map (f e r))))

/-- Lane `i` of a row register. -/
def RowUnit.lane (r : RowUnit) (e : RowEnv) (n : RowReg) (i : Nat) : Word := (r.readG e.d n).getD i 0
def RowUnit.triple (r : RowUnit) (e : RowEnv) (n : Bool) (i : Nat) : Triple := (r.readT e.d n).getD i Triple.empty

/-! ### Arithmetic (R242, R243) -/

/-- R240: `nop`. -/
def execRowNop (s : State) : Host.Outcome State Fault Refusal := .next (s.unitDo fun _ _ r => .go r)
/-- R242. -/
def execRowAdd (gd ga gb : RowReg) (s : State) : Host.Outcome State Fault Refusal :=
  rowLanes gd (fun e r i => plus (r.lane e ga i) (r.lane e gb i)) s
/-- R242. -/
def execRowSub (gd ga gb : RowReg) (s : State) : Host.Outcome State Fault Refusal :=
  rowLanes gd (fun e r i => minus (r.lane e ga i) (r.lane e gb i)) s
/-- R242. -/
def execRowMul (gd ga gb : RowReg) (s : State) : Host.Outcome State Fault Refusal :=
  rowLanes gd (fun e r i => times (r.lane e ga i) (r.lane e gb i)) s
/-- R242: one rounding. -/
def execRowMac (gd ga gb : RowReg) (s : State) : Host.Outcome State Fault Refusal :=
  rowLanes gd (fun e r i => (fma32 (r.lane e ga i) (r.lane e gb i) (r.lane e gd i)).1) s
/-- R242. -/
def execRowSmul (gd ga : RowReg) (sb : BitVec 4) (s : State) : Host.Outcome State Fault Refusal :=
  rowLanes gd (fun e r i => times (r.lane e ga i) (r.readS sb)) s
/-- R242: one rounding. -/
def execRowSmac (gd ga : RowReg) (sb : BitVec 4) (s : State) : Host.Outcome State Fault Refusal :=
  rowLanes gd (fun e r i => (fma32 (r.lane e ga i) (r.readS sb) (r.lane e gd i)).1) s
/-- R242. -/
def execRowSq (gd ga : RowReg) (s : State) : Host.Outcome State Fault Refusal :=
  rowLanes gd (fun e r i => times (r.lane e ga i) (r.lane e ga i)) s
/-- R242. -/
def execRowMax (gd ga gb : RowReg) (s : State) : Host.Outcome State Fault Refusal :=
  rowLanes gd (fun e r i => max32 (r.lane e ga i) (r.lane e gb i)) s
/-- R242. -/
def execRowHsum (sd : BitVec 4) (ga : RowReg) (s : State) : Host.Outcome State Fault Refusal :=
  rowScalar sd (fun e r => hsum (r.readG e.d ga)) s
/-- R242. -/
def execRowRsq (gd ga : RowReg) (sb : BitVec 4) (s : State) : Host.Outcome State Fault Refusal :=
  rowLanes gd (fun e r i => rsqe (r.lane e ga i) (r.readS sb)) s
/-- R243. -/
def execRowSopAdd (sd sa sb : BitVec 4) (s : State) : Host.Outcome State Fault Refusal :=
  rowScalar sd (fun _ r => plus (r.readS sa) (r.readS sb)) s
/-- R243. -/
def execRowSopSub (sd sa sb : BitVec 4) (s : State) : Host.Outcome State Fault Refusal :=
  rowScalar sd (fun _ r => minus (r.readS sa) (r.readS sb)) s
/-- R243. -/
def execRowSopMul (sd sa sb : BitVec 4) (s : State) : Host.Outcome State Fault Refusal :=
  rowScalar sd (fun _ r => times (r.readS sa) (r.readS sb)) s
/-- R243. -/
def execRowSopDiv (sd sa sb : BitVec 4) (s : State) : Host.Outcome State Fault Refusal :=
  rowScalar sd (fun _ r => overW (r.readS sa) (r.readS sb)) s
/-- R243: one rounding. -/
def execRowSopMac (sd sa sb : BitVec 4) (s : State) : Host.Outcome State Fault Refusal :=
  rowScalar sd (fun _ r => (fma32 (r.readS sa) (r.readS sb) (r.readS sd)).1) s
/-- R243. -/
def execRowSopRsqe (sd sa sb : BitVec 4) (s : State) : Host.Outcome State Fault Refusal :=
  rowScalar sd (fun _ r => rsqe (r.readS sa) (r.readS sb)) s
/-- R243. -/
def execRowSopMax (sd sa sb : BitVec 4) (s : State) : Host.Outcome State Fault Refusal :=
  rowScalar sd (fun _ r => max32 (r.readS sa) (r.readS sb)) s
/-- R243: raw bits. -/
def execRowSopMov (sd sa : BitVec 4) (s : State) : Host.Outcome State Fault Refusal := rowScalar sd (fun _ r => r.readS sa) s
/-- R242: raw bits. -/
def execRowMovi (sd : BitVec 4) (imm : Word) (s : State) : Host.Outcome State Fault Refusal := rowScalar sd (fun _ _ => imm) s
/-- R242: a constant of the command. -/
def execRowLdc (sd : BitVec 4) (c : BitVec 3) (s : State) : Host.Outcome State Fault Refusal :=
  rowScalar sd (fun e _ => e.cmd.consts.getD c.toNat 0) s
/-- R242, R76. -/
def execRowQacc (t : Bool) (ga : RowReg) (sb : BitVec 4) (s : State) : Host.Outcome State Fault Refusal :=
  rowTriples t (fun e r i => (qupdate (r.triple e t i) (r.lane e ga i) (r.readS sb)).1) s
/-- R242, R77: A is `t`. -/
def execRowQmix (t u : Bool) (s : State) : Host.Outcome State Fault Refusal :=
  rowTriples t (fun e r i => (qmerge (r.triple e t i) (r.triple e u i)).1) s
/-- R242. -/
def execRowQnew (t : Bool) (s : State) : Host.Outcome State Fault Refusal := rowTriples t (fun _ _ _ => Triple.empty) s

/-! ### Control (R244) -/

/-- R323, R325: the unit requests a row and its state record and holds their channels; none while a turn is pending in one of
them, or another unit's read has it. -/
def State.rowRequest (s : State) (e : RowEnv) (r : RowUnit) (p row : Nat) : Option State :=
  let ch := s.rowChans e.v e.slot row
  if ch.any fun c => s.turnPending c || s.readBusy e.u c then none
  else
    let t := s.readDue e.v e.slot row false
    let ts := if descSsz e.desc = 0 then none else some (s.readDue e.v e.slot row true)
    let s := ch.foldl (fun s c => s.setChan c { s.chan c with reader := some (e.u, max t (ts.getD t)) }) (s.rowFill e.v e.slot row)
    some (s.setUnit e.u { r with pos := some p, holds := ch, rowDue := some t, stateDue := ts, suspended := false })

/-- R323: the unit is suspended at a row boundary; it holds no channel. -/
def State.suspend (s : State) (u : UnitId) (r : RowUnit) : State := s.setUnit u { r with holds := [], suspended := true }

/-- R244, R323, R325: `next`. -/
def execRowNext (lbl : BitVec 10) (s : State) : Host.Outcome State Fault Refusal :=
  .next (s.unitDo fun s e r =>
    let p := match r.pos with | none => 0 | some i => i + 1
    match e.item.poss[p]? with
    | none => .go { r with pc := lbl, holds := [], rowDue := none, stateDue := none }
    | some m =>
      match s.rowRequest e (r.writeS 12 m.wt) p m.row with
      | some s => .stop s
      | none => .stall (s.suspend e.u (s.unit e.u)))

/-- R244. -/
def execRowBr (lbl : BitVec 10) (s : State) : Host.Outcome State Fault Refusal := .next (s.unitDo fun _ _ r => .go { r with pc := lbl })

/-- R244. -/
def execRowLoop (sa : BitVec 4) (lbl : BitVec 10) (s : State) : Host.Outcome State Fault Refusal :=
  .next (s.unitDo fun _ _ r =>
    let n := r.readS sa - 1
    let r' := r.writeS sa n
    .go (if n ≠ 0 then { r' with pc := lbl } else r'))

/-- R244, R256, R334: the item ends, and what it has handed to the channels may perform, unless it read poison. -/
def State.endItem (s : State) (e : RowEnv) (r : RowUnit) : State :=
  let i : Item :=
    { e.item with done := true, out := if e.upd then none else some (r.out.getD (blankOut e.d false)), nanIn := r.poison.isSome }
  ((s.setUnit e.u r.free).modVault e.v fun x =>
    (x.dropPoisoned e.cmd.order e.it r.poison).putCmd (e.cmd.setItem e.it i)).itemPoison e.cmd r.poison

/-- R244: `halt`. -/
def execRowHalt (s : State) : Host.Outcome State Fault Refusal := .next (s.unitDo fun s e r => .stop (s.endItem e r))

/-- R244, R250: an item that has executed 65,536 micro-words without `halt` ends, and its command with it. -/
def execItemWordLimit (u : UnitId) (s : State) : Host.Outcome State Fault Refusal :=
  .next (match s.rowEnv u with
    | none => s
    | some e => if Config.itemWords ≤ (s.unit u).words then s.endCmd e.v e.cmd else s)

/-! ### Loads and stores (R244, R245) -/

/-- What items have handed over and an item's load sees: an update item, all that precedes it on its row (R246, R255). -/
def State.handedTo (s : State) (e : RowEnv) : List RowWrite := if e.upd then (s.vault e.v).writes else []

/-- R246: a load that waits for its sectors, then what it reads; `zero` where there is no current row. -/
def rowLoad (due : RowEnv → RowUnit → Option Nat) (f : State → RowEnv → RowUnit → Nat → Acc RowUnit)
    (zero : RowEnv → RowUnit → RowUnit) (s : State) :
    Host.Outcome State Fault Refusal :=
  .next (s.unitDo fun s e r =>
    match e.row r with
    | none => .go (zero e r)
    | some row =>
      if (due e r).isSome then .stall s
      else
        match f s e r row with
        | .ok r => .go r
        | x => .stop (s.cmdStop e.v e.cmd x.unit))

/-- R244: the dequantised current row. -/
def execRowLdt (gd : RowReg) (s : State) : Host.Outcome State Fault Refusal :=
  rowLoad (fun _ r => r.rowDue) (fun s e r row =>
      (s.readLanes e.v e.slot row (s.handedTo e)).bind fun x => .ok { r.writeG gd x.1 with poison := r.poison.or x.2 })
    (fun e r => r.writeG gd (List.replicate e.d 0)) s

/-- R244: the item's gradient row; +0 in a gather item. -/
def execRowLdg (gd : RowReg) (s : State) : Host.Outcome State Fault Refusal :=
  .next (s.unitDo fun _ e r => .go (r.writeG gd (if e.upd then e.item.grad else List.replicate e.d 0)))

/-- The words of the current state record from byte `o`, with the address of a poisoned one. -/
def State.stateWords (s : State) (e : RowEnv) (row o n : Nat) : Acc (List Word × Option Dword) :=
  (s.rowAddrs e.v e.slot row true .read).bind fun l =>
    let w := s.handedTo e
    let l := (l.drop o).take (4 * n)
    .ok ((pieces 4 n l).map (fun a => if a.any (s.rowPoisoned w) then nan32 else leWord (s.rowBytes w a)),
      (s.poisonedOff w l).map fun i => BitVec.ofNat 64 (descState e.desc + row * descSsz e.desc + o + i))

/-- R244: a state row. -/
def execRowLds (gd : RowReg) (p : Bool) (s : State) : Host.Outcome State Fault Refusal :=
  let n : Nat := if p then 1 else 0
  rowLoad (fun e r => if descNsr e.desc ≤ n then none else r.stateDue) (fun s e r row =>
      if descNsr e.desc ≤ n then .ok (r.writeG gd (List.replicate e.d 0))
      else (s.stateWords e row (4 * e.d * n) e.d).bind fun x => .ok { r.writeG gd x.1 with poison := r.poison.or x.2 })
    (fun e r => r.writeG gd (List.replicate e.d 0)) s

/-- R244: a state scalar. -/
def execRowLdss (sd : BitVec 4) (q : BitVec 2) (s : State) : Host.Outcome State Fault Refusal :=
  rowLoad (fun e r => if descNss e.desc ≤ q.toNat then none else r.stateDue) (fun s e r row =>
      if descNss e.desc ≤ q.toNat then .ok (r.writeS sd 0)
      else
        (s.stateWords e row (4 * e.d * descNsr e.desc + 4 * q.toNat) 1).bind fun x =>
          .ok { r.writeS sd (x.1.getD 0 0) with poison := r.poison.or x.2 })
    (fun _ r => r.writeS sd 0) s

/-- R244, R246: a store of an update item's current row goes to the channel; no effect elsewhere (DESIGN CHOICE, log entry
26). -/
def rowStore (f : State → RowEnv → RowUnit → Nat → Acc (List (Nat × Byte))) (s : State) : Host.Outcome State Fault Refusal :=
  .next (s.unitDo fun s e r =>
    match e.row r with
    | none => .go r
    | some row =>
      if !e.upd then .go r
      else
        match f s e r row with
        | .ok l => .stop ((s.modVault e.v fun x => x.hand e.cmd e.u e.it row l).setUnit e.u r)
        | x => .stop (s.cmdStop e.v e.cmd x.unit))

/-- R245: the row quantised. -/
def stqBytes (rq : Bool) (ga : RowReg) (s : State) (e : RowEnv) (r : RowUnit) (row : Nat) : Acc (List (Nat × Byte)) :=
  (s.rowAddrs e.v e.slot row false .write).bind fun l =>
    .ok (l.zip (quantise e.desc rq (s.rowBytes (s.handedTo e) l) (r.readG e.d ga)))

/-- R245: `stq` keeps the scale and bias. -/
def execRowStq (ga : RowReg) (s : State) : Host.Outcome State Fault Refusal := rowStore (stqBytes false ga) s
/-- R245: `stq.rq` recomputes them. -/
def execRowStqRq (ga : RowReg) (s : State) : Host.Outcome State Fault Refusal := rowStore (stqBytes true ga) s

/-- R244, R235: words into the state record at byte `o`, and zero into its padding. -/
def stateStore (e : RowEnv) (s : State) (row o : Nat) (w : List Word) : Acc (List (Nat × Byte)) :=
  (s.rowAddrs e.v e.slot row true .write).bind fun l =>
    .ok ((l.drop o).zip (w.flatMap fun x => leBytes 4 x.toNat) ++ statePadding e.desc l)

/-- R244: a state row; none beyond NSR. -/
def execRowSts (ga : RowReg) (p : Bool) (s : State) : Host.Outcome State Fault Refusal :=
  let n : Nat := if p then 1 else 0
  rowStore (fun s e r row =>
    if descNsr e.desc ≤ n then .ok [] else stateStore e s row (4 * e.d * n) (r.readG e.d ga)) s

/-- R244: a state scalar; none beyond NSS. -/
def execRowStss (sa : BitVec 4) (q : BitVec 2) (s : State) : Host.Outcome State Fault Refusal :=
  rowStore (fun s e r row =>
    if descNss e.desc ≤ q.toNat then .ok []
    else stateStore e s row (4 * e.d * descNsr e.desc + 4 * q.toNat) [r.readS sa]) s

/-- R244: the item's output row; no effect in an update item. -/
def execRowEmit (ga : RowReg) (s : State) : Host.Outcome State Fault Refusal :=
  .next (s.unitDo fun _ e r => .go (if e.upd then r else { r with out := some (r.readG e.d ga, false) }))

/-- R244: the item's output triples. -/
def execRowEmitq (t : Bool) (s : State) : Host.Outcome State Fault Refusal :=
  .next (s.unitDo fun _ e r => .go (if e.upd then r else { r with out := some (flatTriples (r.readT e.d t), true) }))

/-! ### Shipped programs, and the sectors that a unit awaits (R252, R258, R325) -/

/-- The cycles in which what the unit awaits is complete are over. -/
def RowUnit.present (r : RowUnit) (now : Nat) : Bool := (r.rowDue.all fun t => decide (t ≤ now)) && r.stateDue.all fun t => decide (t ≤ now)

/-- R252: the mode of an item's partial: a part of a mean, as another rank asks for it, is a sum. -/
def TblCmd.itemMode (c : TblCmd) : PoolMode :=
  match c.src, c.mode with
  | .part _, .mean => .sum
  | _, m => m

/-- The item of a shipped program goes on at position `p`: it requests the row, it is suspended, or it ends. -/
def State.shippedNext (s : State) (e : RowEnv) (r : RowUnit) (p : Nat) : State :=
  match e.item.poss[p]? with
  | none => s.endItem e r
  | some m => (s.rowRequest e r p m.row).getD (s.suspend e.u r)

/-- R252, R258: a shipped program, which the spec gives by what it computes, does its work on the row that it has requested,
and goes on to the next (DESIGN CHOICE, log entry 26). -/
def State.shippedStep (s : State) (e : RowEnv) : State :=
  let r := s.unit e.u
  match r.pos with
  | none => s.shippedNext e r 0
  | some p =>
    match e.item.poss[p]?, r.rowDue with
    | some m, some _ =>
      if s.unitStopped e.u || !r.present s.now then s
      else
        let r := { r with rowDue := none, stateDue := none }
        if e.upd then
          match s.updateWrites e.v e.cmd e.item with
          | .ok (w, pz) => (s.modVault e.v fun x => x.hand e.cmd e.u e.it m.row w).endItem e { r with poison := pz }
          | y => s.cmdStop e.v e.cmd y.unit
        else
          match s.readLanes e.v e.slot m.row [] with
          | .ok x =>
            let o := poolStep e.cmd.itemMode e.d (r.out.map Prod.fst) x.1 m.wt
            s.shippedNext e { r with out := some (o, decide (e.cmd.mode = .stats)), poison := r.poison.or x.2 } (p + 1)
          | y => s.cmdStop e.v e.cmd y.unit
    | _, _ => s.shippedNext e r (p + 1)

/-- R325: the sectors that a unit has requested are present. A shipped program then does its work on them. -/
def execRowSectorReadDone (u : UnitId) (s : State) : Host.Outcome State Fault Refusal :=
  .next (
    let r := s.unit u
    if r.shipped then
      (match s.rowEnv u with
        | none => s
        | some e => s.shippedStep e)
    else
      s.setUnit u
        { r with
          rowDue := r.rowDue.filter fun t => decide (s.now < t)
          stateDue := r.stateDue.filter fun t => decide (s.now < t) })

/-- The micro-word at a unit's micro-PC; words past the image read as `nop`. -/
def RowUnit.word (r : RowUnit) : BitVec 64 :=
  match r.prog with
  | none => 0
  | some (_, l) => l.getD r.pc.toNat 0

end Sys2Proof.Machine
end

