-- ==== Sys2Proof/Machine/Till.lean ====
section
/-! DEFINITION. The Till and its moves (R328 to R332), row service and ordinary service of the channels (R323 to R325), the
patrol scrubber (R334, R335). -/

namespace Sys2Proof.Machine

/-! ### Moves of rows (R331) -/

/-- The home bytes of a row or of its state record, whichever copy is authoritative. -/
def State.homeAddrs (s : State) (v slot row : Nat) (rec_ : Bool) (acc : Access) : Acc (List Nat) :=
  (s.modVault v fun x => { x with moves := [], ways := [] }).rowAddrs v slot row rec_ acc

/-- R330: the bytes of way `w` of a row's set: the row, then its state record. -/
def State.tillAddrs (s : State) (v slot row w : Nat) : List Nat :=
  let x := s.vault v
  let e := x.desc slot
  let a := s.wayAddr x slot (tillSet (x.tillEntry slot) row) w
  (List.range (descRsz e + descSsz e)).map (a + ·)

/-- The home bytes of a row and its state record. -/
def State.homeAll (s : State) (v slot row : Nat) (acc : Access) : Acc (List Nat) :=
  (s.homeAddrs v slot row false acc).bind fun a =>
    (if descSsz ((s.vault v).desc slot) = 0 then .ok [] else s.homeAddrs v slot row true acc).bind fun b => .ok (a ++ b)

/-- R331: an item that runs on a row, or a committed store that has still to reach it. -/
def State.rowBusy (s : State) (v : Nat) (tid : BitVec 16) (row : Nat) (l : List Nat) : Bool :=
  ((s.vault v).cmds.any fun c =>
    decide (c.table = tid) && c.items.any fun i => i.started && !i.done && i.poss.any fun q => decide (q.row = row)) ||
    ((s.vault v).writes.any fun w => decide (w.table = tid) && decide (w.row = row)) ||
    s.cores.any fun x => x.2.stores.any fun p => p.bytes.any fun b => l.contains b.1

/-- R331: a way of the row's set that neither holds a row nor is in a move. -/
def Vault.freeWay (x : Vault) (slot row : Nat) : Option Nat :=
  let set := tillSet (x.tillEntry slot) row
  (List.range 8).find? fun w =>
    (x.way slot set w).isNone &&
      !(x.moves.any fun m => decide (m.table.toNat % 8192 = slot) && decide (tillSet (x.tillEntry slot) m.row = set) && decide (m.way = w))

/-- R331: the victim: the lowest estimate, the lowest way on a tie. -/
def Vault.victim (x : Vault) (slot row : Nat) : Option (Nat × Nat) :=
  let set := tillSet (x.tillEntry slot) row
  let held := (List.range 8).filterMap fun w => (x.way slot set w).map fun r => (w, r)
  held.foldl (fun acc y =>
    match acc with
    | none => some y
    | some z => if x.estimate slot y.2 < x.estimate slot z.2 then some y else acc) none

/-- Begins a move, unless the row is busy or already moves (DEDUCED, log entry 27). -/
def State.beginMove (s : State) (v : Nat) (m : TillMove) : Option State :=
  let slot := m.table.toNat % 8192
  match s.homeAll v slot m.row .read with
  | .ok l =>
    if s.rowBusy v m.table m.row (l ++ s.tillAddrs v slot m.row m.way) || (s.vault v).moving m.table m.row then none
    else some (s.modVault v fun x => { x with moves := x.moves ++ [m] })
  | _ => none

/-- R332: the flush of a table goes on: the eviction of every resident row that may move begins, and the flush is over when
none is resident (DEDUCED, log entry 27). -/
def State.flushOn (s : State) (tid : BitVec 16) : State :=
  let v := tableVault tid
  let slot := tid.toNat % 8192
  let mine (y : Nat × Option Nat) : Bool := decide (y.1 / 2 ^ 27 = slot) && y.2.isSome
  if !(s.vault v).ways.any mine then s.modVault v fun x => { x with flushes := x.flushes.filter fun t => decide (t ≠ tid) }
  else
    (s.vault v).ways.foldl (fun s y =>
      match y.2 with
      | some row =>
        if mine y then (s.beginMove v { table := tid, row, way := y.1 % 8, promote := false }).getD s else s
      | none => s) s

/-- R331: the Vault carries out a queued promotion; a full set first evicts its victim, and the row stays queued. A flush that
has still to evict rows goes first, and no row of its table is promoted meanwhile. -/
def execTillPromotion (v n : Nat) (s : State) : Host.Outcome State Fault Refusal :=
  .next (let s := (s.vault v).flushes.foldl State.flushOn s
    match (s.vault v).promo[n]? with
    | none => s
    | some (tid, row) =>
      let slot := tid.toNat % 8192
      let x := s.vault v
      if !tillEn (x.tillEntry slot) || decide (tillSets (x.tillEntry slot) = 0) || (x.residentWay slot row).isSome then
        s.modVault v fun x => { x with promo := x.promo.eraseIdx n }
      else if x.flushes.contains tid then s
      else
        match x.freeWay slot row with
        | some way =>
          (match s.beginMove v { table := tid, row, way, promote := true } with
            | none => s
            | some s => s.modVault v fun x => { x with promo := x.promo.eraseIdx n })
        | none =>
          match x.victim slot row with
          | none => s
          | some (way, old) => (s.beginMove v { table := tid, row := old, way, promote := false }).getD s)

/-- R329, R331: the residency bit of a row in the bitmap. -/
def State.setResident (s : State) (v slot row : Nat) (on : Bool) : Acc State :=
  let va := BitVec.ofNat 64 (tillRbmap ((s.vault v).tillEntry slot) + row / 8)
  (s.rowSpan (vaultDie v) .write va 1).acc.bind fun l =>
    let b := (l.map s.mem.read).head?.getD 0
    let bit : Byte := BitVec.ofNat 8 (2 ^ (row % 8))
    .ok (s.writeModule (l.map fun a => (a, if on then b ||| bit else b &&& ~~~bit)))

/-- R331: copies bytes, the poison of their sectors with them. -/
def State.copyBytes (s : State) (src dst : List Nat) : State :=
  let bad := (src.zip dst).filterMap fun x => if s.poison.contains (x.1 / 64) then some (x.2 / 64) else none
  let s := s.writeModule (dst.zip (src.map s.mem.read))
  { s with poison := (s.poison ++ bad).eraseDups }

/-- R331: a move's copy has performed, and the residency bit changes (DEDUCED, log entry 27). -/
def execTillMoveDone (v n : Nat) (s : State) : Host.Outcome State Fault Refusal :=
  .next (match (s.vault v).moves[n]? with
    | none => s
    | some m =>
      let slot := m.table.toNat % 8192
      let x := s.vault v
      let set := tillSet (x.tillEntry slot) m.row
      let way := s.tillAddrs v slot m.row m.way
      match s.homeAll v slot m.row .write with
      | .ok home =>
        let s1 := if m.promote then s.copyBytes home way else s.copyBytes way home
        (match s1.setResident v slot m.row m.promote with
          | .ok s2 =>
            let s3 := s2.modVault v fun x =>
              { x with
                moves := x.moves.eraseIdx n
                ways := Tab.put x.ways (wayKey slot set m.way) (if m.promote then some m.row else none) }
            if x.flushes.contains m.table then s3.flushOn m.table else s3
          | _ => s)
      | _ => s)

/-- R332: the driver's flush of a table: it begins, and is pending while a row of the table is resident. -/
def execTillFlush (tid : BitVec 16) (s : State) : Host.Outcome State Fault Refusal :=
  .next ((s.modVault (tableVault tid) fun x =>
    { x with flushes := if x.flushes.contains tid then x.flushes else x.flushes ++ [tid] }).flushOn tid)

/-! ### Row service and ordinary service (R323, R324); a unit cycle is two core cycles (R5) -/

/-- R323: an ordinary request reaches a channel; one that comes during a turn joins it. -/
def execOrdinaryRequestArrival (c : ChanId) (s : State) : Host.Outcome State Fault Refusal :=
  .next (s.setChan c { s.chan c with pending := (s.chan c).pending ++ [s.now] })

/-- R323: a turn begins: it is called for, and no unit holds the channel. -/
def execOrdinaryTurnStart (c : ChanId) (s : State) : Host.Outcome State Fault Refusal :=
  .next (let x := s.chan c
    if x.svc = .row ∧ !s.chanHeld c ∧ s.turnDue c then s.setChan c { x with svc := .switching, since := s.now }
    else s)

/-- R324: the unit cycles of the switch. -/
def State.switchTime (s : State) (c : ChanId) : Nat :=
  let x := s.chan c
  match x.lastWrite with
  | some t => if x.since - t ≤ 60 then 64 else 40
  | none => 40

/-- R324: the pipelines of the units have emptied: no sector of an ended item has still to perform in the channel. -/
def State.emptied (s : State) (c : ChanId) : Bool :=
  s.vaults.all fun (_, x) => x.writes.all fun w =>
    !x.readyWrite w || decide (physChan (64 * w.sector) (tillSet (x.tillEntry (w.table.toNat % 8192)) w.row) ≠ some c)

/-- R324: the channel has switched. -/
def execServiceSwitchDone (c : ChanId) (s : State) : Host.Outcome State Fault Refusal :=
  .next (let x := s.chan c
    if x.svc = .switching ∧ s.switchTime c ≤ s.chanSince c ∧ s.emptied c then
      s.setChan c { x with svc := .ordinary, since := s.now, served := 0, lastStart := none, lastDone := s.now }
    else s)

/-- R324: when the oldest request of a turn starts: not before it has come, nor within 2 unit cycles of the one before. -/
def ChanSvc.nextStart (x : ChanSvc) (arrived : Nat) : Nat := max (max x.since arrived) ((x.lastStart.map (· + 4)).getD 0)

/-- R324: the oldest request completes, 38 unit cycles after its start. -/
def execOrdinaryRequestDone (c : ChanId) (s : State) : Host.Outcome State Fault Refusal :=
  .next (let x := s.chan c
    match x.pending with
    | [] => s
    | a :: t =>
      let b := x.nextStart a
      if x.svc = .ordinary ∧ x.served < 256 ∧ b + 76 ≤ s.now then
        s.setChan c { x with pending := t, served := x.served + 1, lastStart := some b, lastDone := b + 76 }
      else s)

/-- R324: back to row service, 16 unit cycles after nothing is pending or 256 requests have been served; suspended units resume
(DEDUCED, log entry 27). -/
def execRowServiceReturn (c : ChanId) (s : State) : Host.Outcome State Fault Refusal :=
  .next (let x := s.chan c
    if x.svc = .ordinary ∧ (x.pending = [] ∨ 256 ≤ x.served) ∧ x.lastDone + 32 ≤ s.now then
      let s := s.setChan c { x with svc := .row, since := s.now, served := 0, lastStart := none }
      { s with units := s.units.map fun (k, u) => (k, { u with suspended := false }) }
    else s)

/-! ### Errors and the scrubber (R333 to R335) -/

/-- R335: the period of a memory domain's scrub in which the present cycle lies, counted from 1. -/
def State.scrubPeriod (s : State) (i : Nat) : Nat :=
  s.now / (8640000000000 * (Tab.get 24 s.scrub (i - 24)).toNat) + 1

/-- R333: a correctable error is counted in the domain's error counter. -/
def State.countError (s : State) (i : Nat) : State := s.setDomain i { s.domain i with errors := (s.domain i).errors + 1 }

/-- R334: an uncorrectable error poisons a sector of memory. -/
def State.poisonSector (s : State) (key : Nat) : State :=
  { s with poison := if s.poison.contains key then s.poison else s.poison ++ [key] }

/-- R333 to R335: what is found at a sector of domain `i`; the scrubber reports an uncorrectable error to the event queue. -/
def State.sectorError (s : State) (i key : Nat) (scrub : Bool) (res : ScrubResult) : State :=
  match res with
  | .clean => s
  | .corrected => s.countError i
  | .uncorrectable =>
    let s := s.poisonSector key
    if scrub then s.event (domainDie i) 5 (some (physSource (64 * key))) none none else s

/-- R333 to R335: an error, or a read of the scrubber. It reads each sector once in a period, in an ordinary turn of a channel
that row units use: outside a turn the step falls due there (DEDUCED, log entry 27). -/
def execScrubStep (key : ErrSite) (res : ScrubResult) (s : State) : Host.Outcome State Fault Refusal :=
  .next (match key with
    | .scrub u =>
      (match physDomain (64 * u) with
        | none => s
        | some i =>
          if Tab.get 0 s.scrubbed u = s.scrubPeriod i then s
          else
            let did : State := { s with scrubbed := Tab.put s.scrubbed u (s.scrubPeriod i) }
            match s.channelOf (64 * u) with
            | none => did.sectorError i u true res
            | some c =>
              let x := s.chan c
              if x.svc = .ordinary then (did.setChan c { x with due := false }).sectorError i u true res
              else s.setChan c { x with due := true })
    | .sector u =>
      (match physDomain (64 * u) with
        | none => s
        | some i => s.sectorError i u false res)
    | .unit k b u =>
      (match res with
        | .clean => s
        | .corrected => s.countError (k / 4)
        | .uncorrectable => s.modCore k fun q => { q with poison := if q.poison.contains (b, u) then q.poison else q.poison ++ [(b, u)] })
    | .line d y u =>
      (match res with
        | .clean => s
        | .corrected => s.countError y
        | .uncorrectable => s.modDie d fun x => { x with l2poison := if x.l2poison.contains u then x.l2poison else x.l2poison ++ [u] })
    | .other i =>
      match res with
      | .clean => s
      | .corrected => s.countError i
      | .uncorrectable => s.event (domainDie i) 5 none none none)

end Sys2Proof.Machine
end

