-- ==== Sys2Proof/Machine/Exchange.lean ====
section
/-! DEFINITION. The Exchange (R259 to R266) and the counters and posts of the Clearing engine that its stages change (R267,
R268). A stage event names a die and the place of the stage among those the die's Exchange holds. -/

namespace Sys2Proof.Machine

/-! ### Groups and shards (R259, R260, R377) -/

/-- R260, for a non-negative global row: its owner and its row there. -/
def shardOwner (b d r : Nat) : Nat := r / b % d
def shardLocal (b d r : Nat) : Nat := r / (b * d) * b + r % b

/-- R377, R378: rank `r` of a group can be reached: it is this module, or its peer entry is enabled with a powered
port (DESIGN CHOICE, log entry 42). -/
def State.peerReach (s : State) (g r : Nat) : Bool :=
  let p := Tab.get 0 s.peers (4096 * g + r)
  let up (i : Nat) : Bool :=
    match (s.domain (40 + i)).power with
    | .active | .gated => true
    | _ => false
  decide (r = groupRank (s.group g)) || (p.getLsbD 80 && (List.range 16).any fun i => p.getLsbD (64 + i) && up i)

/-- Answers a message: inside the module when it was in flight here, else to rank `r`. -/
def State.answer (s : State) (src : MsgSrc) (g r : Nat) (m : Msg) : State :=
  match src with
  | .inFlight _ => { s with inbox := s.inbox ++ [m] }
  | .fromPeer _ => { s with outbox := s.outbox ++ [(g, r, m)] }

/-! ### Stages -/

def State.putStage (s : State) (d : Nat) (st : Stage) : State :=
  s.modDie d fun x => { x with stages := x.stages.map fun y => if y.uid = st.uid then st else y }
def State.dropStage (s : State) (d : Nat) (st : Stage) : State :=
  s.modDie d fun x => { x with stages := x.stages.filter fun y => !decide (y.uid = st.uid) }
/-- The stage that a message names. -/
def State.findStage (s : State) (d uid code : Nat) : Option Stage :=
  (s.die d).stages.find? fun y => decide (y.uid = uid) && decide (y.code = code)

/-- Changes the work entry that a stage runs for. -/
def State.modEntry (s : State) (d qp eseq : Nat) (f : Entry → Entry) : State :=
  { s with entries := s.entries.map fun e => if e.d = d ∧ e.qp = qp ∧ e.eseq = eseq then f e else e }

/-- R274: the cause with which a work entry's status reports a failed stage or access. -/
def failCause (c : Cause) : Cause :=
  match c with
  | .translationFault | .pagePermission | .memoryError => c
  | _ => .remoteError

/-- R250, R262, R265, R270: a stage ends without its effect (DEDUCED, log entry 28). -/
def State.endStage (s : State) (d : Nat) (st : Stage) (cause : Cause) (pay : List Dword) : State :=
  let s := s.dropStage d st
  match st.by_ with
  | .entry d' qp eseq => s.modEntry d' qp eseq fun e => { e with fail := some (failCause cause) }
  | _ =>
    match (s.core st.k).findTransfer st.ch st.id with
    | none => s
    | some t => s.endTransfer st.k t cause pay

/-- R266: a stage completes. -/
def State.finishStage (s : State) (d : Nat) (st : Stage) : State :=
  let s := s.dropStage d st
  match st.by_ with
  | .entry d' qp eseq => s.modEntry d' qp eseq fun e => { e with acted := true }
  | _ =>
    match (s.core st.k).findTransfer st.ch st.id with
    | none => s
    | some t => s.finishTransfer st.k t true

/-- The transfer of a stage that a context or a hand issued. -/
def State.stageTransfer (s : State) (st : Stage) : Option Transfer :=
  match st.by_ with
  | .entry .. => none
  | _ => (s.core st.k).findTransfer st.ch st.id

/-- R283: goes on once the stores that are ordered before a stage can perform for its notification. -/
def State.stageNoted (s : State) (st : Stage) (go : State) : State :=
  match (s.stageTransfer st).bind (s.noteWait st.k) with
  | some w => s.awaitDomain (dieOf st.k) (some w)
  | none => go

/-- R254, R265: a record of a stage for its issuing context; a work entry's stage has none (R270). -/
def State.stageRecord (s : State) (st : Stage) (pay : List Dword) : State :=
  s.sendTo st.by_ st.card
    { cause := .indexRange, trap := st.trap, src := 3, ch := BitVec.ofNat 4 st.ch, id := st.id, baddr := st.baddr, pay }

/-- R218, R348: what a stopped access of a stage asks for. -/
def State.stageStop (s : State) (d : Nat) (st : Stage) (x : Acc Unit) : State :=
  match x with
  | .ok _ => s
  | .fault c va => s.endStage d st c [va]
  | .page w va =>
    (match st.by_ with
      | .entry d' qp eseq => s.askPage st.asid va w (.entry d' qp eseq)
      | _ => s.askPage st.asid va w (.transfer st.k st.ch st.id))
  | .wait i => s.awaitDomain d i

/-- R287: a stage reads as a transfer of its issuer does. -/
def Stage.view (st : Stage) (d : Nat) : View :=
  match st.by_ with
  | .entry .. => .die d
  | _ => .core st.k

/-- A list that a stage reads. -/
def State.stageRead (s : State) (d : Nat) (st : Stage) (w : Dword) (n : Nat) : Acc (List Byte) :=
  s.readPlace (st.view d) d st.asid (wordPlace st.k w) n

/-- R343: what reading that list leaves in the translation caches. -/
def State.stageFill (s : State) (d : Nat) (st : Stage) (w : Dword) (n : Nat) : State :=
  s.placeFill (st.view d) d st.asid (wordPlace st.k w) n

/-- The `n`-th stage of a die's Exchange, when it has the code and has not started. -/
def State.stageAt (s : State) (d n code : Nat) : Option Stage :=
  match (s.die d).stages[n]? with
  | some st => if st.code = code && !st.started then some st else none
  | none => none

/-- R262: a GROUP in use. -/
def State.groupOk (s : State) (g : Nat) : Bool := groupValid (s.group g)

/-! ### BUCKET (R263) -/

/-- R263: the output area for these indices; a negative index has no local row, and none is stated for its place. -/
def bucketBytes (b d occ : Nat) (l : List Int) : List Byte :=
  let own (i : Int) : Nat := if i < 0 then d else shardOwner b d i.toNat
  let order : List (Nat × Int) :=
    (List.range (d + 1)).flatMap fun o => ((List.range l.length).map fun p => (p, l.getD p 0)).filter fun x => decide (own x.2 = o)
  let counts := (List.range (d + 1)).flatMap fun o => leBytes 4 (l.filter fun i => decide (own i = o)).length
  let loc (x : Nat × Int) : Nat :=
    if x.2 < 0 then (Config.freeDword (occ * 2 ^ 64 + x.1)).toNat else shardLocal b d x.2.toNat
  let place (p : Nat) : Nat := (List.range order.length).find? (fun q => decide ((order.getD q (0, 0)).1 = p)) |>.getD 0
  counts ++ List.replicate (bucketCounts d - counts.length) 0 ++ order.flatMap (fun x => leBytes 8 (loc x)) ++
    (List.range l.length).flatMap fun p => leBytes 4 (place p)

/-- R263: groups indices by owner (DEDUCED, log entry 28). -/
def execExchangeBucket (d n : Nat) (s : State) : Host.Outcome State Fault Refusal :=
  .next (match s.stageAt d n 1 with
    | none => s
    | some st =>
      if !s.groupOk st.group then s.endStage d st .remoteError []
      else
        let len := 8 * (st.param.extractLsb' 0 32).toNat
        match (s.stageRead d st st.addrA len).bind fun l =>
            let out := bucketBytes st.blk (groupD (s.group st.group)) s.freeCtr (listInts 8 l)
            (s.writePlace (st.view d) d st.asid (wordPlace st.k st.addrB) out).bind fun s' => .ok (s', out.length) with
        | .ok (s', m) =>
          s.stageNoted st ((((s'.stageFill d st st.addrA len).stageFill d st st.addrB m).fresh).finishStage d st)
        | x => s.stageStop d st x.unit)

/-! ### GATHER (R264) -/

/-- R264: bag `b` over global rows: poisoned so far by a bad offset or a negative index; the other members stand in `mem`. -/
def exBag (nidx : Nat) (offs idxs : List Int) (wts : List Word) (b : Nat) : Bag :=
  let g := mkBag (2 ^ 63) nidx offs idxs wts b
  match g.poison with
  | none => g
  | some _ =>
    let lo := (offs.getD b 0).toNat
    let ps := (List.range g.nmem).map fun i => lo + i
    { g with
      mem := (ps.filter fun p => decide (0 ≤ idxs.getD p 0)).map fun p =>
        { pos := p, row := (idxs.getD p 0).toNat, wt := wts.getD p one32 } }

/-- R264 items 1, 2: the part of each bag that rank `o` owns. -/
def bagParts (b d o : Nat) (bags : List Bag) : List BagPart :=
  (List.range bags.length).filterMap fun i =>
    let mem := ((bags[i]?.map (·.mem)).getD []).filter fun m => decide (shardOwner b d m.row = o)
    if mem.isEmpty then none
    else some { bag := i, mem := mem.map fun m => { pos := m.pos, idx := BitVec.ofNat 64 (shardLocal b d m.row), wt := m.wt } }

/-- The descriptor of a stage's table on this module (R260). -/
def State.shardDesc (s : State) (st : Stage) : BitVec 256 :=
  (s.vault (tableVault (tcTable st.tcr))).desc ((tcTable st.tcr).toNat % 8192)

/-- R250: an output slot of GATHER that is too small. -/
def State.stageShort (s : State) (st : Stage) (e : BitVec 256) : Bool :=
  decide (((s.core st.k).ring (BitVec.ofNat 4 st.ring)).slotBytes < 64 + descD e * if st.mode = .stats then 12 else 4)

/-- R264 item 4: a bag from its owners' partials. -/
def exCombine (mode : PoolMode) (d : Nat) (g : Bag) (parts : List PartialBag) : Bag :=
  let idxAt (p : Nat) : Dword :=
    match g.mem.find? fun m => decide (m.pos = p) with
    | some m => BitVec.ofNat 64 m.row
    | none => (g.poison.map Prod.snd).getD 0
  let bad := (g.poison.map Prod.fst).toList ++ parts.filterMap (·.poison)
  match bad with
  | p :: t =>
    let low := t.foldl min p
    { g with poison := some (low, idxAt low), split := false, out := some (blankOut d (decide (mode = .stats))), looked := true }
  | [] =>
    let out : List Word × Bool :=
      match parts with
      | [] => blankOut d (decide (mode = .stats))
      | q :: t =>
        let o := t.foldl (fun a b => combine mode a b.out) q.out
        (if mode = .mean then meanOf o (g.mem.map (·.wt)) else o, decide (mode = .stats))
    { g with split := decide (1 < parts.length) || parts.any (·.split), out := some out, looked := true }

/-- The partials of one bag in ascending rank. -/
def Stage.partsOf (st : Stage) (d b : Nat) : List PartialBag :=
  (List.range d).flatMap fun o => (st.partials.filter fun x => decide (x.1 = o) && decide (x.2.bag = b)).map Prod.snd

/-- R264: once every part has come, the bags. -/
def State.gatherDone (s : State) (d : Nat) (st : Stage) : State :=
  if st.awaits.isEmpty then
    let e := s.shardDesc st
    let bags := (List.range st.bags.length).filterMap fun b =>
      (st.bags[b]?).map fun g => exCombine st.mode (descD e) g (st.partsOf (groupD (s.group st.group)) b)
    s.putStage d { st with bags }
  else s.putStage d st

/-- R264 items 1, 2: splits the bags and sends the parts. -/
def execExchangeGather (d n : Nat) (s : State) : Host.Outcome State Fault Refusal :=
  .next (match s.stageAt d n 2 with
    | none => s
    | some st =>
      let e := s.shardDesc st
      if !s.groupOk st.group || descBad e || s.stageShort st e then s.endStage d st .remoteError []
      else
        let r := st.tcr
        let lists := (s.stageRead d st (dw r 2) (8 * tcNidx r)).bind fun ix =>
          (s.stageRead d st (dw r 3) (4 * (tcNbags r + 1))).bind fun of_ =>
            (if tcWen r then s.stageRead d st (dw r 4) (4 * tcNidx r) else .ok []).bind fun wt =>
              .ok ((List.range (tcNbags r)).map (exBag (tcNidx r) (listInts 4 of_) (listInts 8 ix) (listWords wt)))
        match lists with
        | .ok bags =>
          let g := s.group st.group
          let parts := ((List.range (groupD g)).map fun o => (o, bagParts st.blk (groupD g) o bags)).filter fun x => !x.2.isEmpty
          if parts.any fun x => !s.peerReach st.group x.1 then s.endStage d st .remoteError []
          else
            let s := ((s.stageFill d st (dw r 2) (8 * tcNidx r)).stageFill d st (dw r 3) (4 * (tcNbags r + 1))).stageFill d st
              (dw r 4) (if tcWen r then 4 * tcNidx r else 0)
            let s := parts.foldl (fun s x =>
              s.send st.group x.1
                (.bagPart
                  { group := st.group, srcRank := groupRank g, dm1 := groupD g - 1, b := st.blk, die := d, stage := st.uid
                    table := tcTable r, mode := st.mode, fence := tcFence r, parts := x.2 })) s
            s.gatherDone d { st with started := true, bags, awaits := parts.map Prod.fst }
        | x => s.stageStop d st x.unit)

def Msg.isBagPart : Msg → Bool
  | .bagPart _ => true
  | _ => false

/-- R262, R264: an owner receives a part; a group that does not agree refuses it. -/
def execGatherPartArrival (m : MsgSrc) (s : State) : Host.Outcome State Fault Refusal :=
  .next (match s.takeMsg m Msg.isBagPart with
    | some (s, .bagPart q) =>
      let g := s.group q.group
      if !groupValid g || decide (groupD g ≠ q.dm1 + 1) then
        s.answer m q.group q.srcRank
          (.bagDone { vault := tableVault q.table, die := q.die, stage := q.stage, rank := groupRank g, ok := false, parts := [] })
      else
        s.arrive (tableVault q.table) fun order =>
          { src := .part q, kind := 0, table := q.table, prog := 0, mode := q.mode, seqm := false, wen := false, eos := false
            fence := q.fence, nidx := 0, nbags := q.parts.length, consts := [], trap := false, by_ := .entry q.die 0 0, baddr := 0
            card := 0, ch := 0, id := 0, ring := none, idxs := [], wts := [], offs := [], grads := [], order }
    | _ => s)

def Msg.isBagDone : Msg → Bool
  | .bagDone _ => true
  | _ => false

/-- R262, R264: an owner's partials return, or its refusal ends the stage. -/
def execGatherPartialReturn (m : MsgSrc) (s : State) : Host.Outcome State Fault Refusal :=
  .next (match s.takeMsg m Msg.isBagDone with
    | some (s, .bagDone q) =>
      (match s.findStage q.die q.stage 2 with
        | none => s
        | some st =>
          if !q.ok then s.endStage q.die st .remoteError []
          else if !st.awaits.contains q.rank then s
          else
            s.gatherDone q.die
              { st with awaits := st.awaits.erase q.rank, partials := st.partials ++ q.parts.map fun p => (q.rank, p) })
    | _ => s)

/-- R253: the identifier in a slot; a work entry's stage has none (DEDUCED, log entry 28). -/
def Stage.slotId (st : Stage) (occ : Nat) : Dword :=
  match st.by_ with
  | .entry _ _ _ => Config.freeDword (occ * 2 ^ 64)
  | _ => st.id

/-- R220: the stage was queued when the ring's descriptor was rewritten. -/
def State.stageSpoilt (s : State) (st : Stage) (r : Ring) : Bool :=
  decide (st.uid < r.stampS) || s.queuedBefore st.k st.ch st.id r

/-- R264, R253, R254, R266: the Exchange writes the next slot of a GATHER, or its token, and completes it with the last. -/
def State.writeStageBag (s : State) (d n : Nat) : State :=
  match (s.die d).stages[n]? with
  | none => s
  | some st =>
    if st.code ≠ 2 || !st.started || !st.awaits.isEmpty then s
    else
      let ring := (st.k, st.ring)
      let total := st.nbags + if st.eos then 1 else 0
      let after (s : State) : State :=
        let st := { st with written := st.written + 1 }
        if st.written = total then s.finishStage d st else s.putStage d st
      let last (go : State) : State := if st.written + 1 = total then s.stageNoted st go else go
      let protocol : State := s.endStage d st .ringProtocol [BitVec.ofNat 64 st.ring]
      match st.bags[st.written]? with
      | some g =>
        let id := st.slotId s.freeCtr
        (match s.putSlot ring (s.stageSpoilt st) (some (g.bytes st.written id)) with
          | .bad => protocol
          | .full => s
          | .done s' =>
            let s' := { s' with freeCtr := s'.freeCtr + 1 }
            last (after (if g.poison.isSome then s'.stageRecord st (g.head st.written id) else s')))
      | none =>
        match s.putSlot ring (s.stageSpoilt st) none with
        | .bad => protocol
        | .full => s
        | .done s' => last (after s')

/-- R253, R264: the next bag slot of the n-th command of a Vault, or of the n-th stage of a die's Exchange. -/
def execBagSlotWrite (src : BagSrc) (n : Nat) (s : State) : Host.Outcome State Fault Refusal :=
  .next (match src with
    | .vault v => s.writeBag v n
    | .exchange d => s.writeStageBag d n)

/-! ### UPDATE (R265) -/

/-- R250: the gradient list of an UPDATE lies where the issuer may not read. -/
def State.gradsOut (s : State) (st : Stage) (n : Nat) : Bool :=
  let p := wordPlace st.k (dw st.tcr 3)
  let pt := s.partyOf st.by_ st.card st.baddr
  match st.by_ with
  | .entry _ _ _ => false
  | _ => s.placeDenied pt p || (s.placeOut pt p n).isSome

/-- R265 item 1: sends every owner its count and pairs; a negative index drops its pair with a record. -/
def execExchangeUpdate (d n : Nat) (s : State) : Host.Outcome State Fault Refusal :=
  .next (match s.stageAt d n 3 with
    | none => s
    | some st =>
      let e := s.shardDesc st
      let r := st.tcr
      let gb := 4 * descD e * tcNidx r
      if !s.groupOk st.group || descBad e || s.gradsOut st gb ||
          (List.range (groupD (s.group st.group))).any (fun o => !s.peerReach st.group o) then
        s.endStage d st .remoteError []
      else
        match (s.stageRead d st (dw r 2) (8 * tcNidx r)).bind fun ix =>
            (s.stageRead d st (dw r 3) gb).bind fun gr => .ok (listInts 8 ix, (pieces (4 * descD e) (tcNidx r) gr).map listWords) with
        | .ok (ix, gr) =>
          let s := (s.stageFill d st (dw r 2) (8 * tcNidx r)).stageFill d st (dw r 3) gb
          let g := s.group st.group
          let ps := List.range ix.length
          let pairs (o : Nat) : List UpdPair :=
            (ps.filter fun p => decide (0 ≤ ix.getD p 0) && decide (shardOwner st.blk (groupD g) (ix.getD p 0).toNat = o)).map fun p =>
              { pos := p, idx := (shardLocal st.blk (groupD g) (ix.getD p 0).toNat : Int), glob := BitVec.ofInt 64 (ix.getD p 0)
                grad := gr.getD p [] }
          let s := (List.range (groupD g)).foldl (fun s o =>
            s.send st.group o
              (.count
                { group := st.group, rank := groupRank g, dm1 := groupD g - 1, b := st.blk, tag := st.param.extractLsb' 0 32
                  table := tcTable r, prog := tcProg r, seq := tcSeq r, fence := tcFence r, consts := tcConsts r, die := d
                  stage := st.uid, pairs := pairs o })) s
          let s := (ps.filter fun p => decide (ix.getD p 0 < 0)).foldl (fun s p =>
            s.stageRecord st (slotHead 1 0 st.id p (BitVec.ofInt 64 (ix.getD p 0)))) s
          s.putStage d { st with started := true, awaits := List.range (groupD g) }
        | x => s.stageStop d st x.unit)

def Msg.isCount : Msg → Bool
  | .count _ => true
  | _ => false

/-- R265: what a rank's submission must share with rank 0's. -/
def countAgrees (a b : CountMsg) : Bool :=
  decide (a.table = b.table) && decide (a.b = b.b) && decide (a.prog = b.prog) && decide (a.seq = b.seq) &&
    decide (a.consts = b.consts)

/-- R265: an owner's answer that ends a rank's stage. -/
def refusal (me : Nat) (m : CountMsg) : Msg :=
  .ack { vault := tableVault m.table, die := m.die, stage := m.stage, owner := me, ok := false, dropped := [] }

/-- R265 items 2 to 4: with every count there, the list of the ranks that agree with rank 0 runs as one update, behind a table fence
where any of them asks for one (DESIGN CHOICE, log entry 48). -/
def State.runCollect (s : State) (c : Collect) : State :=
  let me := groupRank (s.group c.group)
  let ranked := sortBy (fun (m : CountMsg) => (m.rank : Int)) c.counts
  match ranked with
  | [] => s
  | first :: _ =>
    let good := ranked.filter fun m => countAgrees m first
    let bad := ranked.filter fun m => !countAgrees m first
    let s := bad.foldl (fun s m => s.send c.group m.rank (refusal me m)) s
    let s := { s with
      collects := s.collects.map fun (y : Collect) => if y.group = c.group ∧ y.tag = c.tag then { c with counts := good, running := true } else y }
    let pairs : List UpdPair := good.flatMap (·.pairs)
    s.arrive (tableVault first.table) fun order =>
      { src := .upd c.group c.tag, kind := 1, table := first.table, prog := first.prog, mode := .sum, seqm := first.seq
        wen := false, eos := false, fence := good.any (·.fence), nidx := pairs.length, nbags := 0, consts := first.consts
        trap := false, by_ := .entry (vaultDie (tableVault first.table)) 0 0, baddr := 0, card := 0, ch := 0, id := 0, ring := none
        idxs := pairs.map (fun (p : UpdPair) => p.idx), wts := [], offs := [], grads := pairs.map (fun (p : UpdPair) => p.grad), order }

/-- R390: what tells a count from every other one: the group, the rank and the stage that sends it. -/
def countKey (m : CountMsg) : Nat × Nat × Nat × Nat := (m.group, m.rank, m.die, m.stage)

/-- R262, R265: an owner receives a rank's count and pairs; a copy of a count that has come before is dropped (R390)
(DEDUCED, log entry 28). -/
def execUpdateCountArrival (src : MsgSrc) (s : State) : Host.Outcome State Fault Refusal :=
  .next (match s.takeMsg src Msg.isCount with
    | some (s, .count m) =>
      let g := s.group m.group
      let refuse (s : State) : State := s.answer src m.group m.rank (refusal (groupRank g) m)
      if s.countsSeen.contains (countKey m) then s
      else if !groupValid g || decide (groupD g ≠ m.dm1 + 1) then refuse { s with countsSeen := s.countsSeen ++ [countKey m] }
      else
        let s := { s with countsSeen := s.countsSeen ++ [countKey m] }
        let same (c : Collect) : Bool := decide (c.group = m.group) && decide (c.tag = m.tag)
        (match s.collects.find? same with
          | none =>
            let c : Collect := { group := m.group, tag := m.tag, first := s.timebase.toNat, counts := [m] }
            let s := { s with collects := s.collects ++ [c] }
            if groupD g = 1 then s.runCollect c else s
          | some c =>
            if c.running || c.counts.any (fun x => decide (x.rank = m.rank)) then refuse s
            else
              let c := { c with counts := c.counts ++ [m] }
              let all := decide (c.counts.length = groupD g)
              if c.expired then
                refuse { s with
                  collects := if all then s.collects.filter (fun y => !same y) else s.collects.map fun y => if same y then c else y }
              else if all then s.runCollect c
              else { s with collects := s.collects.map fun y => if same y then c else y })
    | _ => s)

/-- R265: the owner's Exchange on die `d` has waited XTMO for the counts of the n-th collective it collects. -/
def execXtmoExpiry (d n : Nat) (s : State) : Host.Outcome State Fault Refusal :=
  .next (match s.collects[n]? with
    | none => s
    | some c =>
      let g := s.group c.group
      let onDie := match c.counts with
        | m :: _ => decide (vaultDie (tableVault m.table) = d)
        | [] => false
      match groupXtmo g with
      | none => s
      | some t =>
        if c.running || c.expired || !onDie || decide (s.timebase.toNat < c.first + t) then s
        else
          let s := c.counts.foldl (fun s m => s.send c.group m.rank (refusal (groupRank g) m)) s
          { s with collects := setAt s.collects n { c with expired := true } })

def Msg.isAck : Msg → Bool
  | .ack _ => true
  | _ => false

/-- R265, R266: an owner has applied its list, or ends the stage; the pairs that it dropped have their records. -/
def execUpdateAck (src : MsgSrc) (s0 : State) : Host.Outcome State Fault Refusal :=
  .next (match s0.takeMsg src Msg.isAck with
    | some (s, .ack m) =>
      (match s.findStage m.die m.stage 3 with
        | none => s
        | some st =>
          if !m.ok then s.endStage m.die st .remoteError []
          else if !st.awaits.contains m.owner then s
          else
            let s := m.dropped.foldl (fun s x => s.stageRecord st (slotHead 1 0 st.id x.1 x.2)) s
            let st := { st with awaits := st.awaits.erase m.owner }
            if st.awaits.isEmpty then s0.stageNoted st (s.finishStage m.die st) else s.putStage m.die st)
    | _ => s0)

/-! ### CPOST and CADD (R267, R268) -/

/-- R267: an add, which stays at 2^32 − 1. -/
def ctrAdd (a n : Word) : Word := BitVec.ofNat 32 (min (2 ^ 32 - 1) (a.toNat + n.toNat))

/-- R267, R274: adds to a counter of a die; an amount of 0 makes no add. -/
def State.counterAdd (s : State) (d c : Nat) (amt : Word) : State :=
  s.modDie d fun x => { x with counters := Tab.put x.counters c (ctrAdd (Tab.get 0 x.counters c) amt) }
def State.counterSet (s : State) (d c : Nat) (amt : Word) : State :=
  s.modDie d fun x => { x with counters := Tab.put x.counters c amt }

/-- R267: CADD in its two modes. -/
def State.cadd (s : State) (d c : Nat) (set : Bool) (amt : Word) : State :=
  if set then s.counterSet d c amt else s.counterAdd d c amt

/-- R268: posts entries. -/
def execCpostStage (d n : Nat) (s : State) : Host.Outcome State Fault Refusal :=
  .next (match s.stageAt d n 14 with
    | none => s
    | some st =>
      let i := (st.param.extractLsb' 0 8).toNat
      let cnt := (st.param.extractLsb' 16 12).toNat + 1
      let q := Tab.get {} (s.die d).qps i
      if !q.valid || decide (2 ^ q.qlog.toNat < (q.pi - q.ci).toNat + cnt) then s.endStage d st .remoteError []
      else
        s.stageNoted st
          ((s.modDie d fun x => { x with qps := Tab.put x.qps i { q with pi := q.pi + BitVec.ofNat 64 cnt } }).finishStage d st))

/-- R283: a counter add of a stage releases, at module scope, the stores that are ordered before it. -/
def State.caddRelease (s : State) (st : Stage) (go : State → State) : State :=
  match s.stageTransfer st with
  | none => go s
  | some t =>
    match s.releaseWait st.k t 3 with
    | some w => s.awaitDomain (dieOf st.k) (some w)
    | none => go (s.releaseAt st.k t 3)

/-- R267: a counter of this die. -/
def execCaddStage (d n : Nat) (s : State) : Host.Outcome State Fault Refusal :=
  .next (match s.stageAt d n 15 with
    | none => s
    | some st =>
      s.caddRelease st fun s =>
        (s.cadd d (st.param.extractLsb' 0 10).toNat (st.param.getLsbD 12) (st.param.extractLsb' 32 32)).finishStage d st)

end Sys2Proof.Machine
end

