-- ==== Sys2Proof/Machine/Clearing.lean ====
section
/-! DEFINITION. The Clearing engine (R267 to R276): arming, the work entries, the arithmetic at source and target, chunks
applied exactly once, completion. An entry event names a die and the place of the entry among the started ones. -/

namespace Sys2Proof

/-- R270: bytes of a destination element; of `bxexp`, an element is a block of 32. -/
def EntryOp.dstSize : EntryOp → Nat
  | .narrow => 2
  | .triple => 12
  | .bxsum => 16
  | _ => 4

/-- R270: the application reads its destination. -/
def EntryOp.reads : EntryOp → Bool
  | .copy | .narrow | .bxfin => false
  | _ => true

/-- Values of one element on the wire. -/
def EntryOp.wire : EntryOp → Nat
  | .triple => 3
  | _ => 1

/-- Where a chunk goes, and how many bytes it covers. -/
def Chunk.size (m : Chunk) : Nat := m.data.length / m.op.wire * m.op.dstSize
def Chunk.at_ (m : Chunk) : Nat := m.dst.toNat + m.c * (if m.op = .bxexp then 32 else 1024) * m.op.dstSize
/-- Bytes of a parked chunk (R272: 72 bits for an integer). -/
def Chunk.parkBytes (m : Chunk) : Nat := m.data.length * if m.op = .bxsum then 9 else 4

end Sys2Proof

namespace Sys2Proof.Machine

/-! ### Fields of a work entry (R269) -/

def Entry.dword (e : Entry) (i : Nat) : Dword := e.dw.getD i 0
def Entry.kind (e : Entry) : Nat := ((e.dword 0).extractLsb' 60 4).toNat
def Entry.rop (e : Entry) : Nat := ((e.dword 0).extractLsb' 56 4).toNat
def Entry.fm (e : Entry) : Nat := ((e.dword 0).extractLsb' 54 2).toNat
def Entry.group (e : Entry) : Nat := ((e.dword 0).extractLsb' 44 8).toNat
def Entry.drank (e : Entry) : Nat := ((e.dword 0).extractLsb' 32 12).toNat
def Entry.ddie (e : Entry) : Nat := ((e.dword 0).extractLsb' 31 1).toNat
def Entry.len (e : Entry) : Nat := ((e.dword 0).extractLsb' 0 24).toNat + 1
def Entry.ramt (e : Entry) : Word := ((e.dword 5).extractLsb' 48 16).setWidth 32
def Entry.rctr (e : Entry) : Nat := ((e.dword 5).extractLsb' 32 10).toNat
def Entry.lamt (e : Entry) : Word := ((e.dword 5).extractLsb' 16 16).setWidth 32
def Entry.lctr (e : Entry) : Nat := ((e.dword 5).extractLsb' 0 10).toNat
/-- R269: CADD's MODE and AMT. -/
def Entry.cset (e : Entry) : Bool := (e.dword 3).getLsbD 12
def Entry.amt (e : Entry) : Word := (e.dword 3).extractLsb' 32 32

/-- R270: what a data entry applies; none for the other kinds. -/
def Entry.op? (e : Entry) : Option EntryOp :=
  match e.kind, e.rop with
  | 1, _ => some (if e.fm = 0 then .copy else .narrow)
  | 2, 0 => some .sum
  | 2, 1 => some .max
  | 2, 2 => some .min
  | 2, 3 => some .triple
  | 2, 4 => some .bxexp
  | 2, 5 => some .bxsum
  | 2, 6 => some .bxfin
  | _, _ => none

/-- R270: bytes of a source element. -/
def Entry.srcSize (e : Entry) : Nat :=
  match e.op? with
  | some .triple => 12
  | some .bxsum => if e.fm = 1 then 16 else 4
  | some .bxfin => 16
  | _ => 4
/-- R275: chunks of 1,024 elements. -/
def Entry.chunks (e : Entry) : Nat := (e.len + 1023) / 1024

/-- R269, R270: the exponent array is used. -/
def Entry.usesExp (e : Entry) : Bool := decide (e.kind = 2) && ((decide (e.rop = 5) && decide (e.fm = 0)) || decide (e.rop = 6))

/-- R269, R271: a reserved value, or a non-zero reserved or unused field. -/
def Entry.reserved (e : Entry) : Bool :=
  let k := e.kind
  let c := e.dword 0
  let data := decide (k = 1) || decide (k = 2)
  let high (w : Dword) : Bool := decide (w.extractLsb' 52 12 ≠ 0)
  decide (4 < k) || decide (c.extractLsb' 52 2 ≠ 0) || decide (c.extractLsb' 24 7 ≠ 0) ||
    decide (e.rop > if k = 2 then 6 else 0) ||
    decide (e.fm > if k = 1 ∨ (k = 2 ∧ e.rop = 5) then 1 else 0) ||
    (if data then high (e.dword 1) || high (e.dword 2) else decide (e.dword 1 ≠ 0) || decide (e.dword 2 ≠ 0)) ||
    (if k = 3 then decide (e.dword 3 &&& 0x00000000FFFFEFFF ≠ 0)
      else if e.usesExp || decide (k = 4) then high (e.dword 3)
      else decide (e.dword 3 ≠ 0)) ||
    (!data && decide (e.len ≠ 1)) || ((decide (k = 0) || decide (k = 4)) && decide (c.extractLsb' 31 21 ≠ 0)) ||
    (decide (k = 2) && decide (e.rop = 4) && decide (e.len % 32 ≠ 0)) ||
    decide ((e.dword 4).extractLsb' 10 22 ≠ 0) || decide ((e.dword 5).extractLsb' 42 6 ≠ 0) ||
    decide ((e.dword 5).extractLsb' 10 6 ≠ 0) || noteBad (e.dword 6)

/-- R271: why an entry fails at its start. -/
def State.entryCheck (s : State) (e : Entry) : Option Cause :=
  let g := s.group e.group
  if e.reserved then some .reservedField
  else if e.kind = 2 ∧ 4 ≤ e.rop ∧ !s.accepted 8 then some .featureNotAccepted
  else if e.kind = 0 ∨ e.kind = 4 then none
  else if !groupValid g || decide (groupD g ≤ e.drank) || !s.peerReach e.group e.drank then some .remoteError
  else none

/-! ### Arming (R268, R271) -/

/-- R268: where an entry lies. -/
def Qp.entryVa (q : Qp) (n : Nat) : Dword := (q.qbase.setWidth 64 <<< 12) + BitVec.ofNat 64 (64 * (n % 2 ^ q.qlog.toNat))

/-- R271: the next entry of a queue pair arms once its counter reaches THRESH, and starts. -/
def execEntryArm (d qp : Nat) (s : State) : Host.Outcome State Fault Refusal :=
  .next (let q := Tab.get {} (s.die d).qps qp
    if !q.valid || decide (q.pi = q.ci) then s
    else
      let va := q.entryVa q.ci.toNat
      match s.devRead d 0 va 56 with
      | .wait i => s.awaitDomain d i
      | .page w a => s.askPage 0 a w .device
      | r =>
        let (l, bad) := match r with
          | .ok b => (bytesDwords b, none)
          | .fault c _ => ([], some (failCause c))
          | _ => ([], none)
        let e : Entry := { d, qp, eseq := q.ci.toNat, dw := l, va, asid := q.asid }
        let ctr := ((e.dword 4).extractLsb' 0 10).toNat
        let th : Word := (e.dword 4).extractLsb' 32 32
        let have_ : Word := Tab.get 0 (s.die d).counters ctr
        if have_ < th then s
        else
          let s := (s.devFill d va 56).modDie d fun x =>
            { x with
              counters := if th = 0 then x.counters else Tab.put x.counters ctr (have_ - th)
              qps := Tab.put x.qps qp { q with ci := q.ci + 1 } }
          { s with entries := s.entries ++ [{ e with fail := bad.or (s.entryCheck e) }] })

/-! ### Block exponents (R272, R273) -/

def expZero : Int := -32768
def expBad : Int := 0x7FFFFFFF

/-- R272: a block's own exponent. -/
def blockExp (l : List Word) : Int :=
  if l.any notFinite then expBad
  else
    l.foldl (fun a w =>
      match f32 w with
      | .num _ m e _ => let t := topExp m e; if a = expZero ∨ a < t then t else a
      | _ => a) expZero

/-- R272: the integer of a contribution on the grid of exponent `E`. -/
def gridInt (E : Int) (w : Word) : Int × Flags :=
  if E = expBad ∨ E = expZero then (0, 0)
  else
    match f32 w with
    | .nan _ | .inf _ => (0, fIV)
    | .zero _ => (0, 0)
    | .num neg m e st =>
      let top : Int := 2 ^ 62 - 1
      let t := topExp m e + 61 - E
      if t < -1 then (0, fIX)
      else if 62 ≤ t then (if neg then -top else top, fOF ||| fIX)
      else
        let (v, fl) := roundToInt (-2 ^ 63) (2 ^ 63) .rne (.num neg m (e + 61 - E) st)
        if 2 ^ 62 ≤ v.natAbs then (if neg then -top else top, fOF ||| fIX) else (v, fl)

/-- R272: an accumulator on the wire (DEDUCED, log entry 14). -/
def wireInt (v : Int) : Int × Flags :=
  let top : Int := 2 ^ 71 - 1
  if v < -top - 1 then (-top, fOF ||| fIX) else if top < v then (top, fOF ||| fIX) else (v, 0)

/-- R273: the FP32 word of an accumulator. -/
def gridFloat (E v : Int) : Word × Flags :=
  if E = expBad then (nan32, fIV)
  else if E = expZero then (0, 0)
  else
    let clamp := if E < -1000 then -1000 else if 1000 < E then 1000 else E
    rneOp ((Ex.ofInt v).scale2 (clamp - 61), 0)

def sumFlags (l : List (Int × Flags)) : Flags := l.foldl (fun f x => f ||| x.2) 0

/-! ### Sending chunks (R270, R275) -/

/-- A list at a virtual address of the issuing module. -/
def State.entryRead (s : State) (e : Entry) (w : Dword) (off n : Nat) : Acc (List Byte) :=
  s.readPlace (.die e.d) e.d e.asid (.gv ((w.extractLsb' 0 52).toNat + off)) n

/-- R343: what reading the source of chunk `c` leaves in the translation caches. -/
def State.chunkFill (s : State) (e : Entry) (c : Nat) : State :=
  let cnt := min 1024 (e.len - 1024 * c)
  let at_ (w : Dword) (off n : Nat) (s : State) : State :=
    s.placeFill (.die e.d) e.d e.asid (.gv ((w.extractLsb' 0 52).toNat + off)) n
  let s := at_ (e.dword 1) (e.srcSize * 1024 * c) (e.srcSize * cnt) s
  if e.usesExp then at_ (e.dword 3) (4 * (1024 * c / 32)) (4 * ((cnt + 31) / 32)) s else s

/-- R270, R272, R273: the values of chunk `c`, and the events of making them. -/
def State.chunkData (s : State) (e : Entry) (op : EntryOp) (c : Nat) : Acc (List (Int × Flags)) :=
  let first := 1024 * c
  let cnt := min 1024 (e.len - first)
  let sz := e.srcSize
  (s.entryRead e (e.dword 1) (sz * first) (sz * cnt)).bind fun src =>
    (if e.usesExp then s.entryRead e (e.dword 3) (4 * (first / 32)) (4 * ((cnt + 31) / 32)) else .ok []).bind fun ex =>
      let exps := listInts 4 ex
      let words := listWords src
      let accs := listInts 16 src
      .ok (match op with
        | .bxexp => (pieces 32 cnt words).map fun b => (blockExp b, 0)
        | .bxsum =>
          if e.fm = 1 then accs.map wireInt
          else (List.range cnt).map fun i => gridInt (exps.getD (i / 32) 0) (words.getD i 0)
        | .bxfin =>
          (List.range cnt).map fun i =>
            let r := gridFloat (exps.getD (i / 32) 0) (accs.getD i 0)
            ((r.1.toNat : Int), r.2)
        | _ => words.map fun w => ((w.toNat : Int), 0))

/-- The started entry of a die at a place, when a test picks it and it has not failed. -/
def State.entryOn (s : State) (d n : Nat) (pick : Entry → Bool) : Option Entry :=
  match s.entries[n]? with
  | some e => if e.d = d && e.fail.isNone && pick e then some e else none
  | none => none

def State.setEntry (s : State) (n : Nat) (e : Entry) : State := { s with entries := setAt s.entries n e }

/-- R276: what a stopped read on the source side asks for; the entry goes on at the faulting chunk. -/
def State.entryStop (s : State) (n : Nat) (e : Entry) (x : Acc Unit) : State :=
  match x with
  | .ok _ => s
  | .fault c _ => s.setEntry n { e with fail := some (failCause c) }
  | .page w va => s.askPage e.asid va w (.entry e.d e.qp e.eseq)
  | .wait i => s.awaitDomain e.d i

/-- R275: the identity of an entry. -/
def State.entryId (s : State) (e : Entry) : EntryId :=
  { group := e.group, srcRank := groupRank (s.group e.group), die := e.d, qp := e.qp, eseq := e.eseq }

/-- R275: sends chunk `c` of the n-th entry (DEDUCED, log entry 29). -/
def State.sendChunk (s : State) (n : Nat) (e : Entry) (op : EntryOp) (c : Nat) : State :=
  match s.chunkData e op c with
  | .ok l =>
    let s := (s.chunkFill e c).setEntry n { e with nchunks := max e.nchunks (c + 1), flags := e.flags ||| sumFlags l }
    s.send e.group e.drank
      (.chunk
        { id := s.entryId e, c, last := decide (c + 1 = e.chunks), op, ddie := e.ddie
          dst := (e.dword 2).extractLsb' 0 52 |>.setWidth 64, data := l.map Prod.fst })
  | x => s.entryStop n e x.unit

/-- R270: a data entry sends its next chunk. -/
def State.entryGo (s : State) (d n : Nat) (op : EntryOp) (pick : Entry → Bool) : State :=
  match s.entryOn d n fun (e : Entry) => decide (e.op? = some op) && pick e && decide (e.nchunks < e.chunks) with
  | none => s
  | some e => s.sendChunk n e op e.nchunks

/-- R270: a copy of words. -/
def execEntryWriteCopy (d n : Nat) (s : State) : Host.Outcome State Fault Refusal := .next (s.entryGo d n .copy fun _ => true)
/-- R270: FP32 narrowed to BF16. -/
def execEntryWriteNarrow (d n : Nat) (s : State) : Host.Outcome State Fault Refusal := .next (s.entryGo d n .narrow fun _ => true)
/-- R270. -/
def execEntryReduceSum (d n : Nat) (s : State) : Host.Outcome State Fault Refusal := .next (s.entryGo d n .sum fun _ => true)
/-- R270. -/
def execEntryReduceMax (d n : Nat) (s : State) : Host.Outcome State Fault Refusal := .next (s.entryGo d n .max fun _ => true)
/-- R270. -/
def execEntryReduceMin (d n : Nat) (s : State) : Host.Outcome State Fault Refusal := .next (s.entryGo d n .min fun _ => true)
/-- R270. -/
def execEntryTripleMerge (d n : Nat) (s : State) : Host.Outcome State Fault Refusal := .next (s.entryGo d n .triple fun _ => true)
/-- R272. -/
def execEntryBxexp (d n : Nat) (s : State) : Host.Outcome State Fault Refusal := .next (s.entryGo d n .bxexp fun _ => true)
/-- R272: FP32 contributions. -/
def execEntryBxsum (d n : Nat) (s : State) : Host.Outcome State Fault Refusal := .next (s.entryGo d n .bxsum fun e => decide (e.fm = 0))
/-- R272: accumulators. -/
def execEntryBxsumAcc (d n : Nat) (s : State) : Host.Outcome State Fault Refusal := .next (s.entryGo d n .bxsum fun e => decide (e.fm = 1))
/-- R273. -/
def execEntryBxfin (d n : Nat) (s : State) : Host.Outcome State Fault Refusal := .next (s.entryGo d n .bxfin fun _ => true)

/-- R275: the sender sends a chunk again that has not been acknowledged. -/
def execChunkResend (d n c : Nat) (s : State) : Host.Outcome State Fault Refusal :=
  .next (match s.entryOn d n fun (e : Entry) => decide (c < e.nchunks) && !e.acked.contains c with
    | none => s
    | some e =>
      match e.op? with
      | none => s
      | some op => s.sendChunk n e op c)

/-! ### Counters and stages (R269, R270) -/

/-- R269: adds to, or sets, a counter of the target. -/
def execEntryCadd (d n : Nat) (s : State) : Host.Outcome State Fault Refusal :=
  .next (match s.entryOn d n fun (e : Entry) => decide (e.kind = 3) && !e.sent with
    | none => s
    | some e =>
      (s.setEntry n { e with sent := true }).send e.group e.drank
        (.counter e.group e.drank e.ddie e.rctr e.cset e.amt (some (s.entryId e)) e.d))

/-- R270: the checks of a stage that a work entry runs, as an `xsub` from core 48·d; every address word lies in global
memory (R262), but a zero word passes as unused (DESIGN CHOICE, log entry 48). -/
def State.entryStage (s : State) (e : Entry) (l : List Dword) : Acc (List Dword) :=
  let k := 48 * e.d
  let gv (w : Dword) : Bool := decide (w = 0) || decide (wordSp w = .gv)
  let bad : Acc (List Dword) := .fault .remoteError 0
  let st := sdStage l
  if sdBad l then bad
  else if st = 1 then (if decide (wordSp (dw l 1) = .gv) && decide (wordSp (dw l 2) = .gv) then .ok l else bad)
  else if st = 2 ∨ st = 3 then
    if wordSp (dw l 1) ≠ .gv then bad
    else
      (s.entryRead e (dw l 1) 0 64).bind fun b =>
        let r := bytesDwords b
        let ring := (s.core k).ring (sdRing l)
        if tcBad r (st - 2) (if st = 2 then [0] else [1, 2, 3, 4]) false ||
            (decide (st = 2) && decide (tcMode r = .stats) && !s.accepted 2) ||
            !(gv (dw r 2) && gv (dw r 3) && gv (dw r 4)) ||
            (decide (tcNidx r ≠ 0) && decide (wordSp (dw r 2) ≠ .gv)) ||
            (decide (st = 2) && (decide (wordSp (dw r 3) ≠ .gv) || decide (ring.buf = .cb) || ring.badP (decide (ring.prod = .vault)))) then bad
        else .ok (l ++ r)
  else .ok l

/-- R270: hands the stage descriptor at AUX to the Exchange of the issuing die. -/
def execEntryXstage (d n : Nat) (s : State) : Host.Outcome State Fault Refusal :=
  .next (match s.entryOn d n fun (e : Entry) => decide (e.kind = 4) && !e.sent with
    | none => s
    | some e =>
      match (s.entryRead e (e.dword 3) 0 64).bind fun b => s.entryStage e (bytesDwords b) with
      | .ok l =>
        let r := l.drop 8
        let st : Stage :=
          { code := sdStage l, group := sdGroup l, ring := (sdRing l).toNat, blk := sdBlk l, trap := false, addrA := dw l 1
            addrB := dw l 2, param := dw l 3, by_ := .entry e.d e.qp e.eseq, k := 48 * d, ch := 0, id := 0, card := 0
            asid := e.asid, baddr := 0, tcr := r, nbags := tcNbags r, mode := tcMode r, eos := tcEos r, uid := s.stageCtr }
        { (s.setEntry n { e with sent := true }).modDie d (fun x => { x with stages := x.stages ++ [st] }) with
          stageCtr := s.stageCtr + 1 }
      | x => s.entryStop n e x.unit)

/-! ### The target (R270, R275, R276) -/

/-- The number that bytes hold in two's complement. -/
def leInt (l : List Byte) : Int := (BitVec.ofNat (8 * l.length) (leNat l)).toInt

/-- R270: one destination element after its application; a triple's incoming value is three words. -/
def applyElem (op : EntryOp) (old : List Byte) (x : List Int) : List Byte × Flags :=
  let w : Word := BitVec.ofInt 32 (x.getD 0 0)
  let d : Word := leWord old
  let put (r : Word × Flags) : List Byte × Flags := (leBytes 4 r.1.toNat, r.2)
  match op with
  | .copy | .bxfin => put (w, 0)
  | .narrow => let r := rnebf16 (f32 w); (leBytes 2 r.1, r.2)
  | .sum => put (add32 d w)
  | .max => put (rneOp (Ex.maxMin true (f32 d) (f32 w)))
  | .min => put (rneOp (Ex.maxMin false (f32 d) (f32 w)))
  | .triple =>
    let a := (wordTriples (listWords old)).getD 0 Triple.empty
    let b : Triple := ⟨w, BitVec.ofInt 32 (x.getD 1 0), BitVec.ofInt 32 (x.getD 2 0)⟩
    let r := qmerge a b
    ((flatTriples [r.1]).flatMap fun v => leBytes 4 v.toNat, r.2)
  | .bxexp => put (BitVec.ofInt 32 (max (leInt old) (x.getD 0 0)), 0)
  | .bxsum => (leBytes 16 (BitVec.ofInt 128 (leInt old + x.getD 0 0)).toNat, 0)

/-- The space bound to the group entry of a chunk's entry (R336). -/
def State.chunkAsid (s : State) (m : Chunk) : BitVec 16 := Tab.get 0 s.groupAsid m.id.group

/-- R276: two chunks that share a page of one space. -/
def State.samePage (s : State) (a b : Chunk) : Bool :=
  let lo (m : Chunk) : Nat := m.at_ / 65536
  let hi (m : Chunk) : Nat := (m.at_ + m.size - 1) / 65536
  decide (s.chunkAsid a = s.chunkAsid b) && decide (lo a ≤ hi b) && decide (lo b ≤ hi a)

/-- R270: applies a chunk, in the space bound to its group entry (R336). -/
def State.applyChunk (s : State) (m : Chunk) : Acc (State × Flags) :=
  let asid := s.chunkAsid m
  if 2 ^ 52 < m.at_ + m.size then .fault .translationFault (BitVec.ofNat 64 m.at_)
  else
    (s.engSpan (.die m.ddie) m.ddie asid (if m.op.reads then .atomic else .write) (BitVec.ofNat 64 m.at_) m.size).acc.bind fun l =>
      if m.op.reads && s.poisonedAny (.die m.ddie) l then .fault .memoryError (BitVec.ofNat 64 m.at_)
      else
        let old := pieces m.op.dstSize l.length (s.viewBytes (.die m.ddie) l)
        let xs := pieces m.op.wire m.data.length m.data
        let r := (List.range xs.length).map fun i => applyElem m.op (old.getD i []) (xs.getD i [])
        .ok ((s.writeModule (l.zip (r.flatMap Prod.fst)) (some m.ddie)).engFill (.die m.ddie) m.ddie asid (BitVec.ofNat 64 m.at_)
          m.size, r.foldl (fun f x => f ||| x.2) 0)

/-- R275: what the target remembers of an entry. -/
def State.appliedOf (s : State) (id : EntryId) : Applied :=
  (s.applied.find? fun a => decide (a.id = id)).getD { id, chunks := [], closed := false }
def State.putApplied (s : State) (a : Applied) : State :=
  { s with applied := (s.applied.filter fun y => !decide (y.id = a.id)) ++ [a] }

/-- R275: a chunk that the target has applied, or whose entry it has closed. -/
def State.chunkSeen (s : State) (m : Chunk) : Bool :=
  let a := s.appliedOf m.id
  a.closed || a.chunks.any fun x => decide (x.1 = m.c)

/-- R274: the flags that an applied chunk set, which every acknowledgement of it brings. -/
def State.chunkFlags (s : State) (m : Chunk) : Flags :=
  (((s.appliedOf m.id).chunks.find? fun x => decide (x.1 = m.c)).map Prod.snd).getD 0

/-- R275: sets the chunk's bit; an entry with every bit set is closed. -/
def State.markChunk (s : State) (m : Chunk) (fl : Flags) : State :=
  let a := s.appliedOf m.id
  let chunks := a.chunks ++ [(m.c, fl)]
  let total := if m.last then some (m.c + 1) else a.total
  s.putApplied { a with chunks, total, closed := decide (total = some chunks.length) }

def State.ackChunk (s : State) (m : Chunk) (fl : Flags) (fail : Option Cause) : State :=
  s.send m.id.group m.id.srcRank (.chunkAck m.id m.c fl fail m.ddie)

/-- R275, R276: an arrived or parked chunk; `park` says what becomes of one whose page is absent. -/
def State.takeChunk (s : State) (m : Chunk) (park : State → State) (hold : Option Await → State) : State :=
  if s.chunkSeen m then s.ackChunk m (s.chunkFlags m) none
  else
    match s.applyChunk m with
    | .ok (s, fl) => (s.markChunk m fl).ackChunk m fl none
    | .fault c _ => s.ackChunk m 0 (some c)
    | .page w va => (park s).askPage (s.chunkAsid m) va w (.chunk m.id m.c)
    | .wait i => hold i

/-- R276: parks a chunk where there is room; otherwise refuses it. -/
def State.parkChunk (s : State) (m : Chunk) : State :=
  if (s.parkedChunks.foldl (fun n x => n + x.parkBytes) 0) + m.parkBytes ≤ Config.parkBytes then
    { s with parkedChunks := s.parkedChunks ++ [m] }
  else s

/-- R274, R275: the sender hears of its chunk. -/
def State.chunkHeard (s : State) (id : EntryId) (c : Nat) (fl : Flags) (fail : Option Cause) : State :=
  s.modEntry id.die id.qp id.eseq fun e =>
    match fail with
    | some x => { e with fail := some (failCause x) }
    | none => { e with acked := if e.acked.contains c then e.acked else e.acked ++ [c], flags := e.flags ||| fl }

def Msg.isClearing : Msg → Bool
  | .chunk _ | .chunkAck .. | .counter .. | .counterAck .. => true
  | _ => false

/-- R275: a chunk arrives and is applied once; likewise a counter action of another module, and the acknowledgements of the
two. -/
def execChunkArrival (src : MsgSrc) (s : State) : Host.Outcome State Fault Refusal :=
  .next (match s.takeMsg src Msg.isClearing with
    | some (s', .chunk m) => s'.takeChunk m (fun x => x.parkChunk m) (fun i => s.awaitDomain m.ddie i)
    | some (s', .chunkAck id c fl fail _) => s'.chunkHeard id c fl fail
    | some (s', .counter g _ die ctr set amt reply _) =>
      let s' := if set then s'.counterSet die ctr amt else if amt = 0 then s' else s'.counterAdd die ctr amt
      (match reply with
        | some id => s'.send g id.srcRank (.counterAck id die)
        | none => s')
    | some (s', .counterAck id _) => s'.modEntry id.die id.qp id.eseq fun e => { e with acted := true }
    | _ => s)

/-- R276: the n-th parked chunk applies, after those parked before it for the same page. -/
def execParkedChunkApply (n : Nat) (s : State) : Host.Outcome State Fault Refusal :=
  .next (match s.parkedChunks[n]? with
    | none => s
    | some m =>
      if (s.parkedChunks.take n).any (s.samePage m) then s
      else
        let s' := { s with parkedChunks := s.parkedChunks.eraseIdx n }
        s'.takeChunk m (fun _ => s) (fun i => s.awaitDomain m.ddie i))

/-! ### Completion (R274) -/

/-- R274: the flags that a status reports. -/
def entryFlags (f : Flags) : Flags := f &&& (fIX ||| fOF ||| fIV)

/-- R274: the entry ends: `go` carries out its effects and gives the status dword, which is written, and the entry leaves
the engine; where the status must wait (R379), the whole end waits. -/
def State.entryEnds (s : State) (n : Nat) (e : Entry) (go : State → State × Nat) : State :=
  match s.devSpan e.d 0 .write (e.va + 56) 8 with
  | .wait i => s.awaitDomain e.d i
  | _ =>
    let (s, w) := go s
    let s := match s.devWrite e.d 0 (e.va + 56) (leBytes 8 w) with
      | .ok s => s.devFill e.d (e.va + 56) 8
      | _ => s
    { s with entries := s.entries.eraseIdx n }

/-- R274: RAMT's add: on the target die, or on the issuing die of a NOP or an XSTAGE. -/
def State.remoteAdd (s : State) (e : Entry) : State :=
  if e.ramt = 0 then s
  else if e.kind = 0 ∨ e.kind = 4 then s.counterAdd e.d e.rctr e.ramt
  else if e.drank = groupRank (s.group e.group) then s.counterAdd e.ddie e.rctr e.ramt
  else s.send e.group e.drank (.counter e.group e.drank e.ddie e.rctr false e.ramt none e.d)

/-- R274, R217: the notification; whether it was refused. -/
def State.entryNotify (s : State) (e : Entry) : State × Bool :=
  let w := e.dword 6
  if !noteEn w then (s, false)
  else
    let k := if noteRemote w then noteCore w else 48 * e.d
    if s.noteMay k (noteFlag w) e.asid then (s.postFlag k (noteFlag w) (noteAmt w), false) else (s, true)

/-- R274: an entry completes (DEDUCED, log entry 29). -/
def State.completeEntry (s : State) (n : Nat) (e : Entry) : State :=
  s.entryEnds n e fun s =>
    let s := s.remoteAdd e
    let s := if e.lamt = 0 then s else s.counterAdd e.d e.lctr e.lamt
    let (s, nref) := s.entryNotify e
    (s, 2 ^ 63 + (if nref then 2 ^ 61 else 0) + (entryFlags e.flags).toNat)

/-- R274: an entry fails (DEDUCED, log entry 29). -/
def State.failEntry (s : State) (n : Nat) (e : Entry) (c : Cause) : State :=
  s.entryEnds n e fun s => (s.event e.d 2 (some e.qp) none none, 2 ^ 62 + c.code * 2 ^ 48)

/-- R270: a NOP entry makes only its completion adds and notification. -/
def execEntryNop (d n : Nat) (s : State) : Host.Outcome State Fault Refusal :=
  .next (match s.entryOn d n fun (e : Entry) => decide (e.kind = 0) with
    | none => s
    | some e => s.completeEntry n e)

/-- R274: every element has been applied, the counter has changed, or the stage has completed. -/
def Entry.complete (e : Entry) : Bool :=
  match e.op? with
  | some _ => decide (e.acked.length = e.chunks)
  | none => e.acted

/-- R274: a started entry completes, or its failure is reported. -/
def execEntryComplete (d n : Nat) (s : State) : Host.Outcome State Fault Refusal :=
  .next (match s.entries[n]? with
    | none => s
    | some e =>
      if e.d ≠ d then s
      else
        match e.fail with
        | some c => s.failEntry n e c
        | none => if e.complete then s.completeEntry n e else s)

end Sys2Proof.Machine
end

