-- ==== Sys2Proof/Machine/Scalar.lean ====
section
/-! DEFINITION. The scalar slot (Scalar, control and system instructions, R112 to R142). For each instruction, `slot…` says
what its slot does in a bundle, and `exec…` what a bundle does whose only slot that is not all zero it is. -/

namespace Sys2Proof.Machine

/-! ### Shared forms -/

/-- R112: a result into a scalar register, `lat` bundles on. -/
def toX (g : Guard) (rd : Reg) (lat : Nat) (v : Bx → Dword) : SlotFn := fun b =>
  b.guarded g (.done (b.land lat (.x rd) (.dword (v b))))

/-- R118, R119: a result into a predicate. -/
def toP (g : Guard) (pd : PReg) (v : Bx → Bool) : SlotFn := fun b => b.guarded g (.done (b.land 1 (.p pd) (.bit (v b))))

/-- R113: a register operation. -/
def aluRR (g : Guard) (rd ra rb : Reg) (f : Dword → Dword → Dword) : SlotFn := toX g rd 1 fun b => f (b.x ra) (b.x rb)
/-- R114: an immediate operation. -/
def aluRI (g : Guard) (rd ra : Reg) (imm : BitVec 28) (f : Dword → Dword → Dword) : SlotFn :=
  toX g rd 1 fun b => f (b.x ra) (sextD imm)
/-- R116. -/
def mulRR (g : Guard) (rd ra rb : Reg) (lat : Nat) (f : Dword → Dword → Dword) : SlotFn :=
  toX g rd lat fun b => f (b.x ra) (b.x rb)
/-- R117. -/
def bitR (g : Guard) (rd ra : Reg) (f : Dword → Dword) : SlotFn := toX g rd 1 fun b => f (b.x ra)
/-- R118. -/
def cmpRR (g : Guard) (pd : PReg) (ra rb : Reg) (f : Dword → Dword → Bool) : SlotFn := toP g pd fun b => f (b.x ra) (b.x rb)
def cmpRI (g : Guard) (pd : PReg) (ra : Reg) (imm : BitVec 25) (f : Dword → Dword → Bool) : SlotFn :=
  toP g pd fun b => f (b.x ra) (sextD imm)

/-- R113: shift amounts use the low 6 bits. -/
def shAmt (v : Dword) : Nat := (v.extractLsb' 0 6).toNat

/-- R113 to R116: signed and unsigned minima and maxima. -/
def minS (a b : Dword) : Dword := if b.slt a then b else a
def maxS (a b : Dword) : Dword := if a.slt b then b else a
def minU (a b : Dword) : Dword := if b < a then b else a
def maxU (a b : Dword) : Dword := if a < b then b else a
/-- R116. -/
def mulHigh (a b : Dword) : Dword := BitVec.ofInt 64 (a.toInt * b.toInt / 2 ^ 64)
def mulHighU (a b : Dword) : Dword := BitVec.ofNat 64 (a.toNat * b.toNat / 2 ^ 64)
/-- R116: the signed quotient towards zero; −1 for a zero divisor. -/
def divS (a b : Dword) : Dword := if b = 0 then -1 else BitVec.ofInt 64 (a.toInt.tdiv b.toInt)
def divU (a b : Dword) : Dword := if b = 0 then -1 else BitVec.ofNat 64 (a.toNat / b.toNat)
/-- R116: the sign of the remainder follows a. -/
def remS (a b : Dword) : Dword := if b = 0 then a else BitVec.ofInt 64 (a.toInt.tmod b.toInt)
def remU (a b : Dword) : Dword := if b = 0 then a else BitVec.ofNat 64 (a.toNat % b.toNat)

/-- R117: leading zeros among `n` bits. -/
def countLead (v : Nat) : Nat → Nat
  | 0 => 0
  | n + 1 => if v.testBit n then 0 else 1 + countLead v n
/-- R117: trailing zeros, at most `n`. -/
def countTrail (v : Nat) : Nat → Nat
  | 0 => 0
  | n + 1 => if v % 2 = 1 then 0 else 1 + countTrail (v / 2) n
/-- R117: one bits among `n`. -/
def countOnes (v : Nat) : Nat → Nat
  | 0 => 0
  | n + 1 => v % 2 + countOnes (v / 2) n

/-- R115: `lih`. -/
def lihValue (imm : BitVec 33) (rd : Dword) : Dword :=
  let hi : BitVec 33 := imm + (rd.extractLsb' 30 1).setWidth 33
  hi ++ (rd.extractLsb' 0 31 : BitVec 31)

/-- R120: the effective address. -/
def effAddr (b : Bx) (ra : Reg) (imm : BitVec 23) : Dword := b.x ra + sextD imm

/-- R120: a loaded value, zero-extended or sign-extended from its bytes. -/
def extend (l : List Byte) (signed : Bool) : Dword :=
  let v := leNat l
  let n := 8 * l.length
  if signed && v.testBit (n - 1) then BitVec.ofInt 64 ((v : Int) - 2 ^ n) else BitVec.ofNat 64 v

/-- R120 to R123: a load of `n` bytes. -/
def loadSlot (n : Nat) (signed : Bool) (g : Guard) (rd ra : Reg) (sp : Space) (imm : BitVec 23) : SlotFn := fun b =>
  let ea := effAddr b ra imm
  b.guarded g <|
    match sp with
    | .buf bf =>
      (match b.bufFault bf ea.toNat n true with
        | some (c, t) => .fault c t
        | none => .done (b.land 5 (.x rd) (.dword (extend (b.bufLoad bf ea.toNat n) signed))))
    | .gv =>
      b.global .read ea n fun b l _ =>
        .done (b.land 1 (.x rd) (.dword (extend (b.s.viewBytes (.core b.k) l) signed)))

/-- R120 to R123: a store of `n` bytes. -/
def storeSlot (n : Nat) (g : Guard) (rs ra : Reg) (sp : Space) (imm : BitVec 23) : SlotFn := fun b =>
  let ea := effAddr b ra imm
  let v := leBytes n (b.x rs).toNat
  b.guarded g <|
    match sp with
    | .buf bf =>
      (match b.bufFault bf ea.toNat n false with
        | some (c, t) => .fault c t
        | none => .done (b.bufStore bf ea.toNat v))
    | .gv => b.global .write ea n fun b l direct => .done (b.globalStore ea (l.zip v) direct)

/-- R124: an atomic of `n` bytes; `f` gives the new value from the old one and the source. One that acts in memory waits for its
channel (R323) where the L2 holds its bytes too. -/
def amoSlot (n : Nat) (g : Guard) (rd ra : Reg) (sc : Scope) (f : Bx → Nat → Nat) : SlotFn := fun b =>
  let va := b.x ra &&& ~~~(BitVec.ofNat 64 (n - 1))
  b.guarded g <|
    b.global .atomic va n fun b l direct =>
      match if direct || decide (3 ≤ sc.rank) then b.s.rowHeld l else none with
      | some c => .stall .global 0 (some (.channel c))
      | none =>
        let (b', old) := b.atomicStep sc va l direct (f b)
        .done (b'.land 1 (.x rd) (.dword (extend (leBytes n old) true)))

/-- The signed value of `n` bytes. -/
def signedN (n v : Nat) : Int := (BitVec.ofNat (8 * n) v).toInt
/-- R124: the low bytes of a register. -/
def lowN (n : Nat) (v : Dword) : Nat := v.toNat % 2 ^ (8 * n)
/-- R124: signed minimum and maximum on `n` bytes. -/
def minN (n a b : Nat) : Nat := if signedN n b < signedN n a then b else a
def maxN (n a b : Nat) : Nat := if signedN n a < signedN n b then b else a

/-- R86, R125, R126: a transfer of control to `t`; `rd` takes the link. -/
def jumpTo (b : Bx) (t : Dword) (rd : Reg) : SlotRes :=
  match b.s.badTarget b.k b.c t with
  | some e => .fault e t
  | none =>
    let b := if rd = 0 then b else b.land 1 (.x rd) (.dword (b.pc + 32))
    .done { b with next := some t }

/-- R125: the target of a branch. -/
def branchTarget (b : Bx) (off : BitVec 33) : Dword := b.pc + (sextD off <<< 5)

/-- R83 order 4, R133: the level check of a CSR. -/
def csrLevel (b : Bx) (r : Csr) (num : BitVec 12) (k : SlotRes) : SlotRes :=
  if csrSup r && !b.ctx.inHandler then .fault .privilege (num.setWidth 64) else k

/-- R133: the writing forms. -/
def csrSlot (o : CsrOp) (g : Guard) (rd ra : Reg) (r : Csr) : SlotFn := fun b =>
  csrLevel b r r.code <|
    let a := b.x ra
    if decide (r = .cstat) && !b.ctx.inHandler && cstatBarred o a then .fault .privilege (r.code.setWidth 64)
    else
      b.guarded g <|
        let old := csrRead b.s b.k b.c r
        let writes := o = .write ∨ ra ≠ 0
        let b := b.land 1 (.x rd) (.dword old)
        .done (if writes then { b with s := csrWrite b.s b.k b.c r o a } else b)

/-- R138: the context's committed stores that a fence names must perform at least at `sc`. -/
def fenceMark (c : Nat) (sc : Scope) (l : List PStore) : List PStore :=
  l.map fun p =>
    if p.c ≠ c then p
    else
      match p.need with
      | none => { p with need := some sc }
      | some o => { p with need := some (if o.rank < sc.rank then sc else o) }

/-! ### The instructions -/

/-! ### Integer arithmetic -/

/-- R81: a bundle of 256 zero bits is a NOP bundle: it issues and commits, and no slot does anything. -/
def execNop (s : State) : Host.Outcome State Fault Refusal := .next (s.issueOne 7 fun b => .done b)

/-- R113: Writes a + b modulo 2^64 to rd. -/
def slotAdd (g : Guard) (rd ra rb : Reg) : SlotFn := aluRR g rd ra rb fun a b => a + b
def execAdd (g : Guard) (rd ra rb : Reg) (s : State) : Host.Outcome State Fault Refusal :=
  .next (s.issueOne 0 (slotAdd g rd ra rb))

/-- R113: Writes a − b modulo 2^64 to rd. -/
def slotSub (g : Guard) (rd ra rb : Reg) : SlotFn := aluRR g rd ra rb fun a b => a - b
def execSub (g : Guard) (rd ra rb : Reg) (s : State) : Host.Outcome State Fault Refusal :=
  .next (s.issueOne 0 (slotSub g rd ra rb))

/-- R113: Writes the bitwise and of a and b. -/
def slotAndR (g : Guard) (rd ra rb : Reg) : SlotFn := aluRR g rd ra rb fun a b => a &&& b
def execAndR (g : Guard) (rd ra rb : Reg) (s : State) : Host.Outcome State Fault Refusal :=
  .next (s.issueOne 0 (slotAndR g rd ra rb))

/-- R113: Writes the bitwise or of a and b. -/
def slotOrR (g : Guard) (rd ra rb : Reg) : SlotFn := aluRR g rd ra rb fun a b => a ||| b
def execOrR (g : Guard) (rd ra rb : Reg) (s : State) : Host.Outcome State Fault Refusal :=
  .next (s.issueOne 0 (slotOrR g rd ra rb))

/-- R113: Writes the bitwise xor of a and b. -/
def slotXor (g : Guard) (rd ra rb : Reg) : SlotFn := aluRR g rd ra rb fun a b => a ^^^ b
def execXor (g : Guard) (rd ra rb : Reg) (s : State) : Host.Outcome State Fault Refusal :=
  .next (s.issueOne 0 (slotXor g rd ra rb))

/-- R113: Shifts a left by b[5:0] bits. -/
def slotSll (g : Guard) (rd ra rb : Reg) : SlotFn := aluRR g rd ra rb fun a b => a <<< shAmt b
def execSll (g : Guard) (rd ra rb : Reg) (s : State) : Host.Outcome State Fault Refusal :=
  .next (s.issueOne 0 (slotSll g rd ra rb))

/-- R113: Shifts a right logically by b[5:0] bits. -/
def slotSrl (g : Guard) (rd ra rb : Reg) : SlotFn := aluRR g rd ra rb fun a b => a >>> shAmt b
def execSrl (g : Guard) (rd ra rb : Reg) (s : State) : Host.Outcome State Fault Refusal :=
  .next (s.issueOne 0 (slotSrl g rd ra rb))

/-- R113: Shifts a right arithmetically by b[5:0] bits. -/
def slotSra (g : Guard) (rd ra rb : Reg) : SlotFn := aluRR g rd ra rb fun a b => a.sshiftRight (shAmt b)
def execSra (g : Guard) (rd ra rb : Reg) (s : State) : Host.Outcome State Fault Refusal :=
  .next (s.issueOne 0 (slotSra g rd ra rb))

/-- R113: Writes 1 if a is less than b as signed values, else 0. -/
def slotSlt (g : Guard) (rd ra rb : Reg) : SlotFn := aluRR g rd ra rb fun a b => if a.slt b then 1 else 0
def execSlt (g : Guard) (rd ra rb : Reg) (s : State) : Host.Outcome State Fault Refusal :=
  .next (s.issueOne 0 (slotSlt g rd ra rb))

/-- R113: Writes 1 if a is less than b as unsigned values, else 0. -/
def slotSltu (g : Guard) (rd ra rb : Reg) : SlotFn := aluRR g rd ra rb fun a b => if a < b then 1 else 0
def execSltu (g : Guard) (rd ra rb : Reg) (s : State) : Host.Outcome State Fault Refusal :=
  .next (s.issueOne 0 (slotSltu g rd ra rb))

/-- R113: Writes the signed minimum of a and b. -/
def slotMin (g : Guard) (rd ra rb : Reg) : SlotFn := aluRR g rd ra rb minS
def execMin (g : Guard) (rd ra rb : Reg) (s : State) : Host.Outcome State Fault Refusal :=
  .next (s.issueOne 0 (slotMin g rd ra rb))

/-- R113: Writes the signed maximum of a and b. -/
def slotMax (g : Guard) (rd ra rb : Reg) : SlotFn := aluRR g rd ra rb maxS
def execMax (g : Guard) (rd ra rb : Reg) (s : State) : Host.Outcome State Fault Refusal :=
  .next (s.issueOne 0 (slotMax g rd ra rb))

/-- R113: Writes the unsigned minimum of a and b. -/
def slotMinu (g : Guard) (rd ra rb : Reg) : SlotFn := aluRR g rd ra rb minU
def execMinu (g : Guard) (rd ra rb : Reg) (s : State) : Host.Outcome State Fault Refusal :=
  .next (s.issueOne 0 (slotMinu g rd ra rb))

/-- R113: Writes the unsigned maximum of a and b. -/
def slotMaxu (g : Guard) (rd ra rb : Reg) : SlotFn := aluRR g rd ra rb maxU
def execMaxu (g : Guard) (rd ra rb : Reg) (s : State) : Host.Outcome State Fault Refusal :=
  .next (s.issueOne 0 (slotMaxu g rd ra rb))

/-- R114: Adds a sign-extended 28-bit immediate to a. -/
def slotAddi (g : Guard) (rd ra : Reg) (imm : BitVec 28) : SlotFn := aluRI g rd ra imm fun a b => a + b
def execAddi (g : Guard) (rd ra : Reg) (imm : BitVec 28) (s : State) : Host.Outcome State Fault Refusal :=
  .next (s.issueOne 0 (slotAddi g rd ra imm))

/-- R114: Ands a with a sign-extended 28-bit immediate. -/
def slotAndi (g : Guard) (rd ra : Reg) (imm : BitVec 28) : SlotFn := aluRI g rd ra imm fun a b => a &&& b
def execAndi (g : Guard) (rd ra : Reg) (imm : BitVec 28) (s : State) : Host.Outcome State Fault Refusal :=
  .next (s.issueOne 0 (slotAndi g rd ra imm))

/-- R114: Ors a with a sign-extended 28-bit immediate. -/
def slotOri (g : Guard) (rd ra : Reg) (imm : BitVec 28) : SlotFn := aluRI g rd ra imm fun a b => a ||| b
def execOri (g : Guard) (rd ra : Reg) (imm : BitVec 28) (s : State) : Host.Outcome State Fault Refusal :=
  .next (s.issueOne 0 (slotOri g rd ra imm))

/-- R114: Xors a with a sign-extended 28-bit immediate. -/
def slotXori (g : Guard) (rd ra : Reg) (imm : BitVec 28) : SlotFn := aluRI g rd ra imm fun a b => a ^^^ b
def execXori (g : Guard) (rd ra : Reg) (imm : BitVec 28) (s : State) : Host.Outcome State Fault Refusal :=
  .next (s.issueOne 0 (slotXori g rd ra imm))

/-- R114: Shifts a left by an immediate amount. -/
def slotSlli (g : Guard) (rd ra : Reg) (sh : BitVec 6) : SlotFn := toX g rd 1 fun b => b.x ra <<< sh.toNat
def execSlli (g : Guard) (rd ra : Reg) (sh : BitVec 6) (s : State) : Host.Outcome State Fault Refusal :=
  .next (s.issueOne 0 (slotSlli g rd ra sh))

/-- R114: Shifts a right logically by an immediate amount. -/
def slotSrli (g : Guard) (rd ra : Reg) (sh : BitVec 6) : SlotFn := toX g rd 1 fun b => b.x ra >>> sh.toNat
def execSrli (g : Guard) (rd ra : Reg) (sh : BitVec 6) (s : State) : Host.Outcome State Fault Refusal :=
  .next (s.issueOne 0 (slotSrli g rd ra sh))

/-- R114: Shifts a right arithmetically by an immediate amount. -/
def slotSrai (g : Guard) (rd ra : Reg) (sh : BitVec 6) : SlotFn := toX g rd 1 fun b => (b.x ra).sshiftRight sh.toNat
def execSrai (g : Guard) (rd ra : Reg) (sh : BitVec 6) (s : State) : Host.Outcome State Fault Refusal :=
  .next (s.issueOne 0 (slotSrai g rd ra sh))

/-- R115: Writes the sign-extended 33-bit immediate to rd. -/
def slotLi (g : Guard) (rd : Reg) (imm : BitVec 33) : SlotFn := toX g rd 1 fun _ => sextD imm
def execLi (g : Guard) (rd : Reg) (imm : BitVec 33) (s : State) : Host.Outcome State Fault Refusal :=
  .next (s.issueOne 0 (slotLi g rd imm))

/-- R115: Replaces rd[63:31] with the immediate adjusted by rd[30], keeping rd[30:0]. -/
def slotLih (g : Guard) (rd : Reg) (imm : BitVec 33) : SlotFn := toX g rd 1 fun b => lihValue imm (b.x rd)
def execLih (g : Guard) (rd : Reg) (imm : BitVec 33) (s : State) : Host.Outcome State Fault Refusal :=
  .next (s.issueOne 0 (slotLih g rd imm))

/-- R116: Writes the low 64 bits of a × b. -/
def slotMul (g : Guard) (rd ra rb : Reg) : SlotFn := mulRR g rd ra rb 3 (fun a b => a * b)
def execMul (g : Guard) (rd ra rb : Reg) (s : State) : Host.Outcome State Fault Refusal :=
  .next (s.issueOne 0 (slotMul g rd ra rb))

/-- R116: Writes the high 64 bits of the signed product a × b. -/
def slotMulh (g : Guard) (rd ra rb : Reg) : SlotFn := mulRR g rd ra rb 3 mulHigh
def execMulh (g : Guard) (rd ra rb : Reg) (s : State) : Host.Outcome State Fault Refusal :=
  .next (s.issueOne 0 (slotMulh g rd ra rb))

/-- R116: Writes the high 64 bits of the unsigned product a × b. -/
def slotMulhu (g : Guard) (rd ra rb : Reg) : SlotFn := mulRR g rd ra rb 3 mulHighU
def execMulhu (g : Guard) (rd ra rb : Reg) (s : State) : Host.Outcome State Fault Refusal :=
  .next (s.issueOne 0 (slotMulhu g rd ra rb))

/-- R116: Writes the signed quotient rounded towards zero, with fixed results for division by zero and overflow. -/
def slotDiv (g : Guard) (rd ra rb : Reg) : SlotFn := mulRR g rd ra rb 20 divS
def execDiv (g : Guard) (rd ra rb : Reg) (s : State) : Host.Outcome State Fault Refusal :=
  .next (s.issueOne 0 (slotDiv g rd ra rb))

/-- R116: Writes the unsigned quotient. -/
def slotDivu (g : Guard) (rd ra rb : Reg) : SlotFn := mulRR g rd ra rb 20 divU
def execDivu (g : Guard) (rd ra rb : Reg) (s : State) : Host.Outcome State Fault Refusal :=
  .next (s.issueOne 0 (slotDivu g rd ra rb))

/-- R116: Writes the signed remainder, whose sign follows a. -/
def slotRem (g : Guard) (rd ra rb : Reg) : SlotFn := mulRR g rd ra rb 20 remS
def execRem (g : Guard) (rd ra rb : Reg) (s : State) : Host.Outcome State Fault Refusal :=
  .next (s.issueOne 0 (slotRem g rd ra rb))

/-- R116: Writes the unsigned remainder. -/
def slotRemu (g : Guard) (rd ra rb : Reg) : SlotFn := mulRR g rd ra rb 20 remU
def execRemu (g : Guard) (rd ra rb : Reg) (s : State) : Host.Outcome State Fault Refusal :=
  .next (s.issueOne 0 (slotRemu g rd ra rb))

/-- R117: Counts the leading zero bits of a. -/
def slotClz (g : Guard) (rd ra : Reg) : SlotFn := bitR g rd ra fun a => BitVec.ofNat 64 (countLead a.toNat 64)
def execClz (g : Guard) (rd ra : Reg) (s : State) : Host.Outcome State Fault Refusal :=
  .next (s.issueOne 0 (slotClz g rd ra))

/-- R117: Counts the trailing zero bits of a. -/
def slotCtz (g : Guard) (rd ra : Reg) : SlotFn :=
  bitR g rd ra fun a => BitVec.ofNat 64 (countTrail a.toNat 64)
def execCtz (g : Guard) (rd ra : Reg) (s : State) : Host.Outcome State Fault Refusal :=
  .next (s.issueOne 0 (slotCtz g rd ra))

/-- R117: Counts the one bits of a. -/
def slotPopc (g : Guard) (rd ra : Reg) : SlotFn := bitR g rd ra fun a => BitVec.ofNat 64 (countOnes a.toNat 64)
def execPopc (g : Guard) (rd ra : Reg) (s : State) : Host.Outcome State Fault Refusal :=
  .next (s.issueOne 0 (slotPopc g rd ra))

/-- R117: Sign-extends the low byte of a. -/
def slotSextB (g : Guard) (rd ra : Reg) : SlotFn := bitR g rd ra fun a => sextD (a.setWidth 8)
def execSextB (g : Guard) (rd ra : Reg) (s : State) : Host.Outcome State Fault Refusal :=
  .next (s.issueOne 0 (slotSextB g rd ra))

/-- R117: Sign-extends the low half of a. -/
def slotSextH (g : Guard) (rd ra : Reg) : SlotFn := bitR g rd ra fun a => sextD (a.setWidth 16)
def execSextH (g : Guard) (rd ra : Reg) (s : State) : Host.Outcome State Fault Refusal :=
  .next (s.issueOne 0 (slotSextH g rd ra))

/-- R117: Sign-extends the low word of a. -/
def slotSextW (g : Guard) (rd ra : Reg) : SlotFn := bitR g rd ra fun a => sextD (a.setWidth 32)
def execSextW (g : Guard) (rd ra : Reg) (s : State) : Host.Outcome State Fault Refusal :=
  .next (s.issueOne 0 (slotSextW g rd ra))

/-- R117: Zero-extends the low byte of a. -/
def slotZextB (g : Guard) (rd ra : Reg) : SlotFn := bitR g rd ra fun a => (a.setWidth 8).setWidth 64
def execZextB (g : Guard) (rd ra : Reg) (s : State) : Host.Outcome State Fault Refusal :=
  .next (s.issueOne 0 (slotZextB g rd ra))

/-- R117: Zero-extends the low half of a. -/
def slotZextH (g : Guard) (rd ra : Reg) : SlotFn := bitR g rd ra fun a => (a.setWidth 16).setWidth 64
def execZextH (g : Guard) (rd ra : Reg) (s : State) : Host.Outcome State Fault Refusal :=
  .next (s.issueOne 0 (slotZextH g rd ra))

/-- R117: Zero-extends the low word of a. -/
def slotZextW (g : Guard) (rd ra : Reg) : SlotFn := bitR g rd ra fun a => (a.setWidth 32).setWidth 64
def execZextW (g : Guard) (rd ra : Reg) (s : State) : Host.Outcome State Fault Refusal :=
  .next (s.issueOne 0 (slotZextW g rd ra))

/-! ### Compares and predicate logic -/

/-- R118: Sets predicate pd if a = b. -/
def slotCmpEq (g : Guard) (pd : PReg) (ra rb : Reg) : SlotFn := cmpRR g pd ra rb fun a b => decide (a = b)
def execCmpEq (g : Guard) (pd : PReg) (ra rb : Reg) (s : State) : Host.Outcome State Fault Refusal :=
  .next (s.issueOne 0 (slotCmpEq g pd ra rb))

/-- R118: Sets predicate pd if a ≠ b. -/
def slotCmpNe (g : Guard) (pd : PReg) (ra rb : Reg) : SlotFn := cmpRR g pd ra rb fun a b => decide (a ≠ b)
def execCmpNe (g : Guard) (pd : PReg) (ra rb : Reg) (s : State) : Host.Outcome State Fault Refusal :=
  .next (s.issueOne 0 (slotCmpNe g pd ra rb))

/-- R118: Sets predicate pd if a < b as signed values. -/
def slotCmpLt (g : Guard) (pd : PReg) (ra rb : Reg) : SlotFn := cmpRR g pd ra rb fun a b => a.slt b
def execCmpLt (g : Guard) (pd : PReg) (ra rb : Reg) (s : State) : Host.Outcome State Fault Refusal :=
  .next (s.issueOne 0 (slotCmpLt g pd ra rb))

/-- R118: Sets predicate pd if a < b as unsigned values. -/
def slotCmpLtu (g : Guard) (pd : PReg) (ra rb : Reg) : SlotFn := cmpRR g pd ra rb fun a b => decide (a < b)
def execCmpLtu (g : Guard) (pd : PReg) (ra rb : Reg) (s : State) : Host.Outcome State Fault Refusal :=
  .next (s.issueOne 0 (slotCmpLtu g pd ra rb))

/-- R118: Sets predicate pd if a ≥ b as signed values. -/
def slotCmpGe (g : Guard) (pd : PReg) (ra rb : Reg) : SlotFn := cmpRR g pd ra rb fun a b => !a.slt b
def execCmpGe (g : Guard) (pd : PReg) (ra rb : Reg) (s : State) : Host.Outcome State Fault Refusal :=
  .next (s.issueOne 0 (slotCmpGe g pd ra rb))

/-- R118: Sets predicate pd if a ≥ b as unsigned values. -/
def slotCmpGeu (g : Guard) (pd : PReg) (ra rb : Reg) : SlotFn := cmpRR g pd ra rb fun a b => decide (b ≤ a)
def execCmpGeu (g : Guard) (pd : PReg) (ra rb : Reg) (s : State) : Host.Outcome State Fault Refusal :=
  .next (s.issueOne 0 (slotCmpGeu g pd ra rb))

/-- R118: Sets predicate pd if a equals the 25-bit immediate. -/
def slotCmpiEq (g : Guard) (pd : PReg) (ra : Reg) (imm : BitVec 25) : SlotFn := cmpRI g pd ra imm fun a b => decide (a = b)
def execCmpiEq (g : Guard) (pd : PReg) (ra : Reg) (imm : BitVec 25) (s : State) : Host.Outcome State Fault Refusal :=
  .next (s.issueOne 0 (slotCmpiEq g pd ra imm))

/-- R118: Sets predicate pd if a differs from the immediate. -/
def slotCmpiNe (g : Guard) (pd : PReg) (ra : Reg) (imm : BitVec 25) : SlotFn := cmpRI g pd ra imm fun a b => decide (a ≠ b)
def execCmpiNe (g : Guard) (pd : PReg) (ra : Reg) (imm : BitVec 25) (s : State) : Host.Outcome State Fault Refusal :=
  .next (s.issueOne 0 (slotCmpiNe g pd ra imm))

/-- R118: Sets predicate pd if a < immediate as signed values. -/
def slotCmpiLt (g : Guard) (pd : PReg) (ra : Reg) (imm : BitVec 25) : SlotFn := cmpRI g pd ra imm fun a b => a.slt b
def execCmpiLt (g : Guard) (pd : PReg) (ra : Reg) (imm : BitVec 25) (s : State) : Host.Outcome State Fault Refusal :=
  .next (s.issueOne 0 (slotCmpiLt g pd ra imm))

/-- R118: Sets predicate pd if a < immediate as unsigned values. -/
def slotCmpiLtu (g : Guard) (pd : PReg) (ra : Reg) (imm : BitVec 25) : SlotFn := cmpRI g pd ra imm fun a b => decide (a < b)
def execCmpiLtu (g : Guard) (pd : PReg) (ra : Reg) (imm : BitVec 25) (s : State) : Host.Outcome State Fault Refusal :=
  .next (s.issueOne 0 (slotCmpiLtu g pd ra imm))

/-- R118: Sets predicate pd if a ≥ immediate as signed values. -/
def slotCmpiGe (g : Guard) (pd : PReg) (ra : Reg) (imm : BitVec 25) : SlotFn := cmpRI g pd ra imm fun a b => !a.slt b
def execCmpiGe (g : Guard) (pd : PReg) (ra : Reg) (imm : BitVec 25) (s : State) : Host.Outcome State Fault Refusal :=
  .next (s.issueOne 0 (slotCmpiGe g pd ra imm))

/-- R118: Sets predicate pd if a ≥ immediate as unsigned values. -/
def slotCmpiGeu (g : Guard) (pd : PReg) (ra : Reg) (imm : BitVec 25) : SlotFn := cmpRI g pd ra imm fun a b => decide (b ≤ a)
def execCmpiGeu (g : Guard) (pd : PReg) (ra : Reg) (imm : BitVec 25) (s : State) : Host.Outcome State Fault Refusal :=
  .next (s.issueOne 0 (slotCmpiGeu g pd ra imm))

/-- R119: Writes pa and pb to pd. -/
def slotPand (g : Guard) (pd pa pb : PReg) : SlotFn := toP g pd fun b => b.p pa && b.p pb
def execPand (g : Guard) (pd pa pb : PReg) (s : State) : Host.Outcome State Fault Refusal :=
  .next (s.issueOne 0 (slotPand g pd pa pb))

/-- R119: Writes pa or pb to pd. -/
def slotPor (g : Guard) (pd pa pb : PReg) : SlotFn := toP g pd fun b => b.p pa || b.p pb
def execPor (g : Guard) (pd pa pb : PReg) (s : State) : Host.Outcome State Fault Refusal :=
  .next (s.issueOne 0 (slotPor g pd pa pb))

/-- R119: Writes pa xor pb to pd. -/
def slotPxor (g : Guard) (pd pa pb : PReg) : SlotFn := toP g pd fun b => b.p pa != b.p pb
def execPxor (g : Guard) (pd pa pb : PReg) (s : State) : Host.Outcome State Fault Refusal :=
  .next (s.issueOne 0 (slotPxor g pd pa pb))

/-- R119: Writes not pa to pd. -/
def slotPnot (g : Guard) (pd pa : PReg) : SlotFn := toP g pd fun b => !b.p pa
def execPnot (g : Guard) (pd pa : PReg) (s : State) : Host.Outcome State Fault Refusal :=
  .next (s.issueOne 0 (slotPnot g pd pa))

/-! ### Loads and stores -/

/-- R120: Loads a zero-extended byte from a buffer or global address. -/
def slotLdB (g : Guard) (rd ra : Reg) (sp : Space) (imm : BitVec 23) : SlotFn := loadSlot 1 false g rd ra sp imm
def execLdB (g : Guard) (rd ra : Reg) (sp : Space) (imm : BitVec 23) (s : State) : Host.Outcome State Fault Refusal :=
  .next (s.issueOne 0 (slotLdB g rd ra sp imm))

/-- R120: Loads a zero-extended half. -/
def slotLdH (g : Guard) (rd ra : Reg) (sp : Space) (imm : BitVec 23) : SlotFn := loadSlot 2 false g rd ra sp imm
def execLdH (g : Guard) (rd ra : Reg) (sp : Space) (imm : BitVec 23) (s : State) : Host.Outcome State Fault Refusal :=
  .next (s.issueOne 0 (slotLdH g rd ra sp imm))

/-- R120: Loads a zero-extended word. -/
def slotLdW (g : Guard) (rd ra : Reg) (sp : Space) (imm : BitVec 23) : SlotFn := loadSlot 4 false g rd ra sp imm
def execLdW (g : Guard) (rd ra : Reg) (sp : Space) (imm : BitVec 23) (s : State) : Host.Outcome State Fault Refusal :=
  .next (s.issueOne 0 (slotLdW g rd ra sp imm))

/-- R120: Loads a dword. -/
def slotLdD (g : Guard) (rd ra : Reg) (sp : Space) (imm : BitVec 23) : SlotFn := loadSlot 8 false g rd ra sp imm
def execLdD (g : Guard) (rd ra : Reg) (sp : Space) (imm : BitVec 23) (s : State) : Host.Outcome State Fault Refusal :=
  .next (s.issueOne 0 (slotLdD g rd ra sp imm))

/-- R120: Loads a sign-extended byte. -/
def slotLdBs (g : Guard) (rd ra : Reg) (sp : Space) (imm : BitVec 23) : SlotFn := loadSlot 1 true g rd ra sp imm
def execLdBs (g : Guard) (rd ra : Reg) (sp : Space) (imm : BitVec 23) (s : State) : Host.Outcome State Fault Refusal :=
  .next (s.issueOne 0 (slotLdBs g rd ra sp imm))

/-- R120: Loads a sign-extended half. -/
def slotLdHs (g : Guard) (rd ra : Reg) (sp : Space) (imm : BitVec 23) : SlotFn := loadSlot 2 true g rd ra sp imm
def execLdHs (g : Guard) (rd ra : Reg) (sp : Space) (imm : BitVec 23) (s : State) : Host.Outcome State Fault Refusal :=
  .next (s.issueOne 0 (slotLdHs g rd ra sp imm))

/-- R120: Loads a sign-extended word. -/
def slotLdWs (g : Guard) (rd ra : Reg) (sp : Space) (imm : BitVec 23) : SlotFn := loadSlot 4 true g rd ra sp imm
def execLdWs (g : Guard) (rd ra : Reg) (sp : Space) (imm : BitVec 23) (s : State) : Host.Outcome State Fault Refusal :=
  .next (s.issueOne 0 (slotLdWs g rd ra sp imm))

/-- R120: Stores the low byte of rs. -/
def slotStB (g : Guard) (rs ra : Reg) (sp : Space) (imm : BitVec 23) : SlotFn := storeSlot 1 g rs ra sp imm
def execStB (g : Guard) (rs ra : Reg) (sp : Space) (imm : BitVec 23) (s : State) : Host.Outcome State Fault Refusal :=
  .next (s.issueOne 0 (slotStB g rs ra sp imm))

/-- R120: Stores the low half of rs. -/
def slotStH (g : Guard) (rs ra : Reg) (sp : Space) (imm : BitVec 23) : SlotFn := storeSlot 2 g rs ra sp imm
def execStH (g : Guard) (rs ra : Reg) (sp : Space) (imm : BitVec 23) (s : State) : Host.Outcome State Fault Refusal :=
  .next (s.issueOne 0 (slotStH g rs ra sp imm))

/-- R120: Stores the low word of rs. -/
def slotStW (g : Guard) (rs ra : Reg) (sp : Space) (imm : BitVec 23) : SlotFn := storeSlot 4 g rs ra sp imm
def execStW (g : Guard) (rs ra : Reg) (sp : Space) (imm : BitVec 23) (s : State) : Host.Outcome State Fault Refusal :=
  .next (s.issueOne 0 (slotStW g rs ra sp imm))

/-- R120: Stores rs as a dword. -/
def slotStD (g : Guard) (rs ra : Reg) (sp : Space) (imm : BitVec 23) : SlotFn := storeSlot 8 g rs ra sp imm
def execStD (g : Guard) (rs ra : Reg) (sp : Space) (imm : BitVec 23) (s : State) : Host.Outcome State Fault Refusal :=
  .next (s.issueOne 0 (slotStD g rs ra sp imm))

/-! ### Atomics -/

/-- R124: Atomically adds b to a global dword and returns the old value. -/
def slotAmoAdd (g : Guard) (rd ra rb : Reg) (sc : Scope) : SlotFn := amoSlot 8 g rd ra sc fun b m => m + lowN 8 (b.x rb)
def execAmoAdd (g : Guard) (rd ra rb : Reg) (sc : Scope) (s : State) : Host.Outcome State Fault Refusal :=
  .next (s.issueOne 0 (slotAmoAdd g rd ra rb sc))

/-- R124: Atomically ands b into a global dword. -/
def slotAmoAnd (g : Guard) (rd ra rb : Reg) (sc : Scope) : SlotFn := amoSlot 8 g rd ra sc fun b m => m &&& lowN 8 (b.x rb)
def execAmoAnd (g : Guard) (rd ra rb : Reg) (sc : Scope) (s : State) : Host.Outcome State Fault Refusal :=
  .next (s.issueOne 0 (slotAmoAnd g rd ra rb sc))

/-- R124: Atomically ors b into a global dword. -/
def slotAmoOr (g : Guard) (rd ra rb : Reg) (sc : Scope) : SlotFn := amoSlot 8 g rd ra sc fun b m => m ||| lowN 8 (b.x rb)
def execAmoOr (g : Guard) (rd ra rb : Reg) (sc : Scope) (s : State) : Host.Outcome State Fault Refusal :=
  .next (s.issueOne 0 (slotAmoOr g rd ra rb sc))

/-- R124: Atomically xors b into a global dword. -/
def slotAmoXor (g : Guard) (rd ra rb : Reg) (sc : Scope) : SlotFn := amoSlot 8 g rd ra sc fun b m => m ^^^ lowN 8 (b.x rb)
def execAmoXor (g : Guard) (rd ra rb : Reg) (sc : Scope) (s : State) : Host.Outcome State Fault Refusal :=
  .next (s.issueOne 0 (slotAmoXor g rd ra rb sc))

/-- R124: Atomically takes the signed minimum of a global dword and b. -/
def slotAmoMin (g : Guard) (rd ra rb : Reg) (sc : Scope) : SlotFn := amoSlot 8 g rd ra sc fun b m => minN 8 m (lowN 8 (b.x rb))
def execAmoMin (g : Guard) (rd ra rb : Reg) (sc : Scope) (s : State) : Host.Outcome State Fault Refusal :=
  .next (s.issueOne 0 (slotAmoMin g rd ra rb sc))

/-- R124: Atomically takes the signed maximum of a global dword and b. -/
def slotAmoMax (g : Guard) (rd ra rb : Reg) (sc : Scope) : SlotFn := amoSlot 8 g rd ra sc fun b m => maxN 8 m (lowN 8 (b.x rb))
def execAmoMax (g : Guard) (rd ra rb : Reg) (sc : Scope) (s : State) : Host.Outcome State Fault Refusal :=
  .next (s.issueOne 0 (slotAmoMax g rd ra rb sc))

/-- R124: Atomically swaps b into a global dword. -/
def slotAmoSwap (g : Guard) (rd ra rb : Reg) (sc : Scope) : SlotFn := amoSlot 8 g rd ra sc fun b _ => lowN 8 (b.x rb)
def execAmoSwap (g : Guard) (rd ra rb : Reg) (sc : Scope) (s : State) : Host.Outcome State Fault Refusal :=
  .next (s.issueOne 0 (slotAmoSwap g rd ra rb sc))

/-- R124: Atomically writes b to a global dword if it equals RC's value. -/
def slotAmoCas (g : Guard) (rd ra rb rc : Reg) (sc : Scope) : SlotFn :=
  amoSlot 8 g rd ra sc fun b m => if m = lowN 8 (b.x rc) then lowN 8 (b.x rb) else m
def execAmoCas (g : Guard) (rd ra rb rc : Reg) (sc : Scope) (s : State) : Host.Outcome State Fault Refusal :=
  .next (s.issueOne 0 (slotAmoCas g rd ra rb rc sc))

/-- R124: Word form of amo.add. -/
def slotAmoAddW (g : Guard) (rd ra rb : Reg) (sc : Scope) : SlotFn := amoSlot 4 g rd ra sc fun b m => m + lowN 4 (b.x rb)
def execAmoAddW (g : Guard) (rd ra rb : Reg) (sc : Scope) (s : State) : Host.Outcome State Fault Refusal :=
  .next (s.issueOne 0 (slotAmoAddW g rd ra rb sc))

/-- R124: Word form of amo.and. -/
def slotAmoAndW (g : Guard) (rd ra rb : Reg) (sc : Scope) : SlotFn := amoSlot 4 g rd ra sc fun b m => m &&& lowN 4 (b.x rb)
def execAmoAndW (g : Guard) (rd ra rb : Reg) (sc : Scope) (s : State) : Host.Outcome State Fault Refusal :=
  .next (s.issueOne 0 (slotAmoAndW g rd ra rb sc))

/-- R124: Word form of amo.or. -/
def slotAmoOrW (g : Guard) (rd ra rb : Reg) (sc : Scope) : SlotFn := amoSlot 4 g rd ra sc fun b m => m ||| lowN 4 (b.x rb)
def execAmoOrW (g : Guard) (rd ra rb : Reg) (sc : Scope) (s : State) : Host.Outcome State Fault Refusal :=
  .next (s.issueOne 0 (slotAmoOrW g rd ra rb sc))

/-- R124: Word form of amo.xor. -/
def slotAmoXorW (g : Guard) (rd ra rb : Reg) (sc : Scope) : SlotFn := amoSlot 4 g rd ra sc fun b m => m ^^^ lowN 4 (b.x rb)
def execAmoXorW (g : Guard) (rd ra rb : Reg) (sc : Scope) (s : State) : Host.Outcome State Fault Refusal :=
  .next (s.issueOne 0 (slotAmoXorW g rd ra rb sc))

/-- R124: Word form of amo.min. -/
def slotAmoMinW (g : Guard) (rd ra rb : Reg) (sc : Scope) : SlotFn := amoSlot 4 g rd ra sc fun b m => minN 4 m (lowN 4 (b.x rb))
def execAmoMinW (g : Guard) (rd ra rb : Reg) (sc : Scope) (s : State) : Host.Outcome State Fault Refusal :=
  .next (s.issueOne 0 (slotAmoMinW g rd ra rb sc))

/-- R124: Word form of amo.max. -/
def slotAmoMaxW (g : Guard) (rd ra rb : Reg) (sc : Scope) : SlotFn := amoSlot 4 g rd ra sc fun b m => maxN 4 m (lowN 4 (b.x rb))
def execAmoMaxW (g : Guard) (rd ra rb : Reg) (sc : Scope) (s : State) : Host.Outcome State Fault Refusal :=
  .next (s.issueOne 0 (slotAmoMaxW g rd ra rb sc))

/-- R124: Word form of amo.swap. -/
def slotAmoSwapW (g : Guard) (rd ra rb : Reg) (sc : Scope) : SlotFn := amoSlot 4 g rd ra sc fun b _ => lowN 4 (b.x rb)
def execAmoSwapW (g : Guard) (rd ra rb : Reg) (sc : Scope) (s : State) : Host.Outcome State Fault Refusal :=
  .next (s.issueOne 0 (slotAmoSwapW g rd ra rb sc))

/-- R124: Word form of amo.cas. -/
def slotAmoCasW (g : Guard) (rd ra rb rc : Reg) (sc : Scope) : SlotFn :=
  amoSlot 4 g rd ra sc fun b m => if m = lowN 4 (b.x rc) then lowN 4 (b.x rb) else m
def execAmoCasW (g : Guard) (rd ra rb rc : Reg) (sc : Scope) (s : State) : Host.Outcome State Fault Refusal :=
  .next (s.issueOne 0 (slotAmoCasW g rd ra rb rc sc))

/-! ### Branches, calls and jumps -/

/-- R125: Branches pc-relative when its guard holds. -/
def slotBr (g : Guard) (off : BitVec 33) : SlotFn := fun b => b.guarded g (jumpTo b (branchTarget b off) 0)
def execBr (g : Guard) (off : BitVec 33) (s : State) : Host.Outcome State Fault Refusal :=
  .next (s.issueOne 0 (slotBr g off))

/-- R125: Branches pc-relative and writes the link pc + 32. -/
def slotCall (g : Guard) (rd : Reg) (off : BitVec 33) : SlotFn := fun b => b.guarded g (jumpTo b (branchTarget b off) rd)
def execCall (g : Guard) (rd : Reg) (off : BitVec 33) (s : State) : Host.Outcome State Fault Refusal :=
  .next (s.issueOne 0 (slotCall g rd off))

/-- R126: Jumps to the address in ra. -/
def slotJr (g : Guard) (ra : Reg) : SlotFn := fun b => b.guarded g (jumpTo b (b.x ra) 0)
def execJr (g : Guard) (ra : Reg) (s : State) : Host.Outcome State Fault Refusal :=
  .next (s.issueOne 0 (slotJr g ra))

/-- R126: Jumps to the address in ra and writes the link pc + 32. -/
def slotJalr (g : Guard) (rd ra : Reg) : SlotFn := fun b => b.guarded g (jumpTo b (b.x ra) rd)
def execJalr (g : Guard) (rd ra : Reg) (s : State) : Host.Outcome State Fault Refusal :=
  .next (s.issueOne 0 (slotJalr g rd ra))

/-! ### The loop unit -/

/-- R128, R130, R86: starts level LV; a count of 0 makes the core skip the body. -/
def slotLoop (g : Guard) (lv : BitVec 3) (ra : Reg) (imm : BitVec 30) : SlotFn :=
  fun b =>
    b.guarded g <|
      match b.s.badTarget b.k b.c (b.pc + 32) with
      | some e => .fault e (b.pc + 32)
      | none =>
        let n : Word := if ra = 0 then imm.setWidth 32 else (b.x ra).setWidth 32
        let on := decide (n ≠ 0)
        let b := b.modCtx fun x =>
          x.setLoop lv { act := on, start := (b.pc + 32).extractLsb' 5 47, bound := n, count := 0 }
        .done { b with skip := if on then none else some lv }
def execLoop (g : Guard) (lv : BitVec 3) (ra : Reg) (imm : BitVec 30) (s : State) : Host.Outcome State Fault Refusal :=
  .next (s.issueOne 0 (slotLoop g lv ra imm))

/-- R131: Reads COUNT of a loop level. -/
def slotLctlRd (g : Guard) (rd : Reg) (lv : BitVec 3) : SlotFn := toX g rd 1 fun b => ((b.ctx.loop lv).count).setWidth 64
def execLctlRd (g : Guard) (rd : Reg) (lv : BitVec 3) (s : State) : Host.Outcome State Fault Refusal :=
  .next (s.issueOne 0 (slotLctlRd g rd lv))

/-- R131: Reads BOUND of a loop level. -/
def slotLctlBnd (g : Guard) (rd : Reg) (lv : BitVec 3) : SlotFn := toX g rd 1 fun b => ((b.ctx.loop lv).bound).setWidth 64
def execLctlBnd (g : Guard) (rd : Reg) (lv : BitVec 3) (s : State) : Host.Outcome State Fault Refusal :=
  .next (s.issueOne 0 (slotLctlBnd g rd lv))

/-- R131: Clears ACT of a loop level, so its next LEND bundle falls through. -/
def slotLctlBrk (g : Guard) (lv : BitVec 3) : SlotFn :=
  fun b => b.guarded g (.done (b.modCtx fun x => x.setLoop lv { x.loop lv with act := false }))
def execLctlBrk (g : Guard) (lv : BitVec 3) (s : State) : Host.Outcome State Fault Refusal :=
  .next (s.issueOne 0 (slotLctlBrk g lv))

/-! ### Control and status registers -/

/-- R133: Reads a CSR into rd. -/
def slotCsrr (g : Guard) (rd : Reg) (csr : Csr) : SlotFn :=
  fun b => csrLevel b csr csr.code (toX g rd 1 (fun b => csrRead b.s b.k b.c csr) b)
def execCsrr (g : Guard) (rd : Reg) (csr : Csr) (s : State) : Host.Outcome State Fault Refusal :=
  .next (s.issueOne 0 (slotCsrr g rd csr))

/-- R133: Writes a CSR field by field under its access codes and returns the old value. -/
def slotCsrw (g : Guard) (rd ra : Reg) (csr : Csr) : SlotFn := csrSlot .write g rd ra csr
def execCsrw (g : Guard) (rd ra : Reg) (csr : Csr) (s : State) : Host.Outcome State Fault Refusal :=
  .next (s.issueOne 0 (slotCsrw g rd ra csr))

/-- R133: Sets CSR bits and returns the old value. -/
def slotCsrs (g : Guard) (rd ra : Reg) (csr : Csr) : SlotFn := csrSlot .set g rd ra csr
def execCsrs (g : Guard) (rd ra : Reg) (csr : Csr) (s : State) : Host.Outcome State Fault Refusal :=
  .next (s.issueOne 0 (slotCsrs g rd ra csr))

/-- R133: Clears CSR bits and returns the old value. -/
def slotCsrc (g : Guard) (rd ra : Reg) (csr : Csr) : SlotFn := csrSlot .clear g rd ra csr
def execCsrc (g : Guard) (rd ra : Reg) (csr : Csr) (s : State) : Host.Outcome State Fault Refusal :=
  .next (s.issueOne 0 (slotCsrc g rd ra csr))

/-- R294: Any write to ERPOP removes the oldest engine record. -/
def slotErpop (g : Guard) (op : CsrOp) (rd ra : Reg) : SlotFn := csrSlot op g rd ra .erpop
def execErpop (g : Guard) (op : CsrOp) (rd ra : Reg) (s : State) : Host.Outcome State Fault Refusal :=
  .next (s.issueOne 0 (slotErpop g op rd ra))

/-! ### Fences, drain, traps, return and exit -/

/-- R138: Orders the context's earlier global accesses at a scope before its later global accesses and engine commands. -/
def slotFence (g : Guard) (sc : Scope) : SlotFn :=
  fun b => b.guarded g (.done (b.modCore fun q => { q with stores := fenceMark b.c sc q.stores }))
def execFence (g : Guard) (sc : Scope) (s : State) : Host.Outcome State Fault Refusal :=
  .next (s.issueOne 0 (slotFence g sc))

/-- R138: Holds issue until the context's earlier global stores and atomics have performed at a scope. -/
def slotDrain (g : Guard) (sc : Scope) : SlotFn :=
  fun b => b.guarded g (.done (b.modCtx fun x => { x with drain := some sc }))
def execDrain (g : Guard) (sc : Scope) (s : State) : Host.Outcome State Fault Refusal :=
  .next (s.issueOne 0 (slotDrain g sc))

/-- R139: Raises Software-Trap with its immediate as the trap value. -/
def slotTrap (g : Guard) (imm : BitVec 11) : SlotFn :=
  fun b => b.guarded g (.done { b with trap := some (.softwareTrap, imm.setWidth 64) })
def execTrap (g : Guard) (imm : BitVec 11) (s : State) : Host.Outcome State Fault Refusal :=
  .next (s.issueOne 0 (slotTrap g imm))

/-- R139: Raises Breakpoint when BRKEN is 1, and otherwise does nothing. -/
def slotBrk (g : Guard) (imm : BitVec 11) : SlotFn :=
  fun b => b.guarded g (.done (if b.card.brken then { b with trap := some (.breakpoint, imm.setWidth 64) } else b))
def execBrk (g : Guard) (imm : BitVec 11) (s : State) : Host.Outcome State Fault Refusal :=
  .next (s.issueOne 0 (slotBrk g imm))

/-- R140, R86: the return from the handler; every other slot must be all zero. -/
def slotEret (g : Guard) : SlotFn :=
  fun b =>
    if !b.alone then .fault .illegalEncoding 0
    else if !b.ctx.inHandler then .fault .privilege 0
    else
      b.guarded g <|
        let t := b.ctx.epcb
        let r := b.s.userRange b.k b.c
        if t.toNat % 32 ≠ 0 then .fault .bundleMisaligned t
        else if t.toNat < r.1 ∨ r.2 ≤ t.toNat then .fault .fetchOutsideCode t
        else .done { b with eret := true }
def execEret (g : Guard) (s : State) : Host.Outcome State Fault Refusal :=
  .next (s.issueOne 0 (slotEret g))

/-- R141: Ends the context after fill bundles land its results, recording the exit status. -/
def slotExit (g : Guard) (imm : BitVec 11) : SlotFn := fun b => b.guarded g (.done { b with exit := some imm })
def execExit (g : Guard) (imm : BitVec 11) (s : State) : Host.Outcome State Fault Refusal :=
  .next (s.issueOne 0 (slotExit g imm))

/-! ### Time and features -/

/-- R142: Reads TIMEBASE. -/
def slotRdtime (g : Guard) (rd : Reg) : SlotFn := toX g rd 1 fun b => b.s.timebase
def execRdtime (g : Guard) (rd : Reg) (s : State) : Host.Outcome State Fault Refusal :=
  .next (s.issueOne 0 (slotRdtime g rd))

/-- R142: Reads the accepted or the published FEAT word. -/
def slotRdfeat (g : Guard) (rd : Reg) (sel : Bool) : SlotFn := toX g rd 1 fun b => if sel then b.s.featPub else b.s.featAcc
def execRdfeat (g : Guard) (rd : Reg) (sel : Bool) (s : State) : Host.Outcome State Fault Refusal :=
  .next (s.issueOne 0 (slotRdfeat g rd sel))

end Sys2Proof.Machine
end

