-- ==== Sys2Proof/Machine/Sync.lean ====
section
/-! DEFINITION. The synchronisation slot (R26 to R33, R221, R222): waits and posts on flags, ring waits and advances, channel
waits. For each instruction, `slot…` says what its slot does in a bundle, and `exec…` what a bundle does whose only slot
that is not all zero it is. -/

namespace Sys2Proof.Machine

/-- R293: the trap value of a Sync-Timeout on a flag. -/
def flagTval (f : BitVec 5) : Dword := f.setWidth 64
/-- R293: on a channel. -/
def chanTval (ch : BitVec 4) : Dword := 0x40 ||| ch.setWidth 64

/-- A wait: it goes on when `ready`, else stalls; a timed-out parked wait counts as unsatisfied (R299). -/
def Bx.await (b : Bx) (ready : Bool) (h : Hold) (tval : Dword) (go : SlotRes) : SlotRes :=
  if ready && !b.late then go else .stall h tval none

/-- R30, R221: whether a flag wait for `n` is satisfied; above the flag's range it never is. -/
def flagSat (q : Core) (f : BitVec 5) (n : Nat) : Bool := q.flagReady f n

/-- R221: the context's global stores and atomics before this bundle have performed at the scope of a release. -/
def Bx.released (b : Bx) (sc : Scope) : Bool :=
  b.core.stores.all fun p => !(decide (p.c = b.c) && decide (p.ord < b.ord0) && !p.performedAt sc)

/-- The release of the own bundle's `s` slot, which performs together with the post (DEDUCED, log entry 19). -/
def Bx.releaseOwn (b : Bx) (sc : Scope) : Bx :=
  if sc = .core then b
  else { b with s := b.s.performWhere b.k (decide (3 ≤ sc.rank)) fun p => decide (p.c = b.c) && decide (b.ord0 ≤ p.ord) }

/-- The flag and count of the `fwait` on which the core's running context stalls. -/
def State.stalledFlag (s : State) (k : Nat) : Option (BitVec 5 × Nat) :=
  match (s.core k).hold, s.issuer k with
  | some .sync, some c =>
    (match s.fetch k c (s.ctx k c).pc with
      | .ok w =>
        (match slotWord w (s.ctx k c) 6 with
          | some (.ok (.fwait f (.imm n) _)) => some (f, n.toNat)
          | some (.ok (.fwait f (.reg r) _)) => some (f, ((s.ctx k c).readX r).toNat)
          | _ => none)
      | _ => none)
  | _, _ => none

/-- R32: a waiter of higher rank on flag `f` can be satisfied now. -/
def rankedFirst (q : Core) (f : BitVec 5) (l : List (Option (BitVec 5 × Nat))) : Bool :=
  l.any fun x => match x with | some (g, n) => decide (g = f) && flagSat q f n | none => false

/-- R30, R221: waits until the flag reaches the count and subtracts it; the count of a parked wait is already taken (R32). -/
def slotFwait (f : BitVec 5) (c : Cnt) (_sc : Scope) : SlotFn := fun b =>
  let n := b.count c
  if b.ctx.taken.isSome && !b.late then .done b
  else b.await (flagSat b.core f n) .sync (flagTval f) (.done { b with s := b.s.takeFlag b.k f n })
def execFwait (f : BitVec 5) (c : Cnt) (sc : Scope) (s : State) : Host.Outcome State Fault Refusal :=
  .next (s.issueOne 6 (slotFwait f c sc))

/-- What that release waits for (R323, R379). -/
def Bx.ownWait (b : Bx) (sc : Scope) : Option Await :=
  if sc = .core then none
  else b.s.storesWait b.k (decide (3 ≤ sc.rank)) fun p => decide (p.c = b.c) && decide (b.ord0 ≤ p.ord)

/-- R30, R31, R221, R283: posts the count, with release. -/
def slotFpost (f : BitVec 5) (c : Cnt) (sc : Scope) : SlotFn := fun b =>
  if !b.released sc then .stall .post 0 none
  else if (b.ownWait sc).isSome then .stall .post 0 (b.ownWait sc)
  else .done { b.releaseOwn sc with s := (b.releaseOwn sc).s.postFlag b.k f (b.count c) }
def execFpost (f : BitVec 5) (c : Cnt) (sc : Scope) (s : State) : Host.Outcome State Fault Refusal :=
  .next (s.issueOne 6 (slotFpost f c sc))

/-- R28: the issuing context is the core-context role that the descriptor names. -/
def Bx.isCons (b : Bx) (r : Ring) : Bool := decide (r.cons = .ctx) && decide (r.cctx.toNat = b.c)
def Bx.isProd (b : Bx) (r : Ring) : Bool := decide (r.prod = .ctx) && decide (r.pctx.toNat = b.c)

/-- R293: Ring-Protocol with its handle. -/
def ringFaultRes (h : BitVec 4) : SlotRes := .fault .ringProtocol (h.setWidth 64)

/-- R26: the report of a consumer wait. -/
def Ring.report (r : Ring) (n : Nat) : Dword := BitVec.ofNat 64 (r.avail n + if r.reached n then 2 ^ 32 else 0)

/-- R26, R221: consumer wait, whose report lands after 1 bundle. -/
def slotRwaitC (xd : Reg) (h : BitVec 4) (c : Cnt) : SlotFn := fun b =>
  let r := b.core.ring h
  let n := b.count c
  if r.badC (b.isCons r) || r.tooMany n then ringFaultRes h
  else b.await (r.consReady n) .sync (ringTval h) (.done (b.land 1 (.x xd) (.dword (r.report n))))
def execRwaitC (xd : Reg) (h : BitVec 4) (c : Cnt) (s : State) : Host.Outcome State Fault Refusal :=
  .next (s.issueOne 6 (slotRwaitC xd h c))

/-- R26: producer wait. -/
def slotRwaitP (h : BitVec 4) (c : Cnt) : SlotFn := fun b =>
  let r := b.core.ring h
  let n := b.count c
  if r.badP (b.isProd r) || r.tooMany n then ringFaultRes h
  else b.await (r.prodReady n) .sync (ringTval h) (.done b)
def execRwaitP (h : BitVec 4) (c : Cnt) (s : State) : Host.Outcome State Fault Refusal :=
  .next (s.issueOne 6 (slotRwaitP h c))

/-- R26: consumer advance. -/
def slotRadvC (h : BitVec 4) (c : Cnt) : SlotFn := fun b =>
  let r := b.core.ring h
  let n := b.count c
  if r.badC (b.isCons r) || r.badAdvC n then ringFaultRes h
  else .done (b.modCore fun q => q.setRing h (r.advC n))
def execRadvC (h : BitVec 4) (c : Cnt) (s : State) : Host.Outcome State Fault Refusal :=
  .next (s.issueOne 6 (slotRadvC h c))

/-- R26: producer advance; its release covers the bundle's typed-buffer stores, which perform at the same commit. -/
def slotRadvP (h : BitVec 4) (c : Cnt) : SlotFn := fun b =>
  let r := b.core.ring h
  let n := b.count c
  if r.badP (b.isProd r) || r.badAdvP n then ringFaultRes h
  else .done (b.modCore fun q => q.setRing h (r.advP n))
def execRadvP (h : BitVec 4) (c : Cnt) (s : State) : Host.Outcome State Fault Refusal :=
  .next (s.issueOne 6 (slotRadvP h c))

/-- R27: end-of-stream producer advance. -/
def slotRadvEos (h : BitVec 4) : SlotFn := fun b =>
  let r := b.core.ring h
  if r.badP (b.isProd r) || r.badAdvP 1 then ringFaultRes h
  else .done (b.modCore fun q => q.setRing h r.advEos)
def execRadvEos (h : BitVec 4) (s : State) : Host.Outcome State Fault Refusal :=
  .next (s.issueOne 6 (slotRadvEos h))

/-- R221: whether a channel wait completes: on the number in flight (XR = 0), or on LOW passing an identifier
(DEDUCED, log entry 23). -/
def Chan.waitReady (x : Chan) (c : Cnt) (n : Nat) : Bool :=
  match c with
  | .imm _ => decide ((x.next - x.low).toNat ≤ n)
  | .reg _ => decide (n < x.low.toNat)

/-- R221: waits on a channel, as it stood when the bundle issued. -/
def slotDwait (ch : BitVec 4) (c : Cnt) (_sc : Scope) : SlotFn := fun b =>
  b.await ((Tab.get {} b.chans ch.toNat).waitReady c (b.count c)) .chan (chanTval ch) (.done b)
def execDwait (ch : BitVec 4) (c : Cnt) (sc : Scope) (s : State) : Host.Outcome State Fault Refusal :=
  .next (s.issueOne 6 (slotDwait ch c sc))

end Sys2Proof.Machine
end

