-- ==== Sys2Proof/Machine/Hands.lean ====
section
/-! DEFINITION. The hands (R223 to R233): RV64IMC with Zicsr, Zba and Zbb, the Xjvhand instructions, and a hand's end by a
fault. An instruction executes on the hand in focus. -/

namespace Sys2Proof.Machine

/-! ### A hand of a core -/

def Core.hand (q : Core) (r : Role) : Hand := match r with | .load => q.loadHand | .store => q.storeHand
def Core.setHand (q : Core) (r : Role) (h : Hand) : Core :=
  match r with
  | .load => { q with loadHand := h }
  | .store => { q with storeHand := h }
def State.hand (s : State) (k : Nat) (r : Role) : Hand := (s.core k).hand r
def State.modHand (s : State) (k : Nat) (r : Role) (f : Hand → Hand) : State := s.modCore k fun q => q.setHand r (f (q.hand r))

/-- R225: ROLE. -/
def roleNum : Role → Nat
  | .load => 0 | .store => 1
def Hand.readX (h : Hand) (r : Reg) : Dword := if r = 0 then 0 else Tab.get 0 h.x r.toNat
def Hand.writeX (h : Hand) (r : Reg) (v : Dword) : Hand := if r = 0 then h else { h with x := Tab.put h.x r.toNat v }
def Hand.wrec (h : Hand) (w : BitVec 2) : WRec := Tab.get 0 h.w w.toNat

/-- R226: the hand's patron with the hand's windows. -/
def State.patron (s : State) (k : Nat) (r : Role) : Ctx :=
  let h := s.hand k r
  { s.ctx k h.patron with wwin := h.wwin, awin := h.awin, cwin := h.cwin }

/-- R226: the hand as the issuing party of a command; its records carry no bundle address. -/
def State.handParty (s : State) (k : Nat) (r : Role) : Party :=
  let h := s.hand k r
  { k, by_ := .hand k r h.patron, card := h.card.getD 0, baddr := 0, ctx := s.patron k r, role := some (roleRing r) }

/-! ### How an instruction ends -/

/-- An instruction of a hand completes with a result for `rd` and perhaps another next address, faults with the trap value
of R293, stalls the hand (`timed`: the watchdog watches the stall; `dom`: a domain in RETENTION that it awaits), or waits for
the page service. -/
inductive HandRes where
  | done (s : State) (rd : Reg) (v : Dword) (pc : Option Dword)
  | fault (c : Cause) (tval : Dword)
  | stall (timed : Bool) (dom : Option Await)
  | page (cow : Bool) (va : Dword)
  deriving DecidableEq, Repr

/-- R302: the payload that a cause puts into a hand's record. -/
def recPay (c : Cause) (v : Dword) : Dword :=
  match c with
  | .ringProtocol | .bufferBounds | .fetchOutsideCode | .translationFault | .pagePermission | .cowWrite | .pageAbsent
  | .memoryError => v
  | _ => 0

/-- R227: a fault stops the hand and sends its record to the patron (DEDUCED, log entry 32). -/
def State.handFault (s : State) (k : Nat) (r : Role) (c : Cause) (tval : Dword) : State :=
  let h := s.hand k r
  let rec_ : EngRec :=
    { cause := c, trap := true, src := BitVec.ofNat 3 (4 + roleNum r), ch := 0, id := h.pc, baddr := 0, pay := [recPay c tval]
      tv := tval }
  (s.modHand k r fun h => { h with running := false, faulted := true, waitAt := none }).sendRecord (h.card.getD 0) k h.patron rec_

/-- R223: what the hand in focus does with an instruction of `len` bytes. -/
def State.handDo (s : State) (len : Nat) (f : State → Nat → Role → Hand → HandRes) : State :=
  match s.focus with
  | .hand k r =>
    let h := s.hand k r
    if !h.running then s
    else
      (match f s k r h with
        | .done s' rd v pc =>
          s'.modHand k r fun h' =>
            { h'.writeX rd v with
              pc := pc.getD (h.pc + BitVec.ofNat 64 len), instret := h.instret + 1, waitAt := none }
        | .fault c v => s.handFault k r c v
        | .stall timed dom =>
          let s := s.awaitDomain (dieOf k) dom
          if timed && h.waitAt.isNone then s.modHand k r fun h => { h with waitAt := some s.timebase.toNat } else s
        | .page cow va => s.askPage (s.card (h.card.getD 0)).asid va cow (.hand k r))
  | _ => s

/-! ### RV64I, M, Zba, Zbb (R223) -/

def low32 (a : Dword) : Word := a.setWidth 32
def sext32 (a : Word) : Dword := a.signExtend 64
def zext32 (a : Dword) : Dword := (low32 a).setWidth 64
def shAmt5 (b : Dword) : Nat := (b.extractLsb' 0 5).toNat

/-- M on 32 bits: quotients and remainders with the results that RISC-V gives a zero divisor. -/
def divW (a b : Word) : Word := if b = 0 then -1 else BitVec.ofInt 32 (a.toInt.tdiv b.toInt)
def divuW (a b : Word) : Word := if b = 0 then -1 else BitVec.ofNat 32 (a.toNat / b.toNat)
def remW (a b : Word) : Word := if b = 0 then a else BitVec.ofInt 32 (a.toInt.tmod b.toInt)
def remuW (a b : Word) : Word := if b = 0 then a else BitVec.ofNat 32 (a.toNat % b.toNat)

/-- 1 or 0. -/
def truth (c : Bool) : Dword := if c then 1 else 0

def rvRR (o : RvRR) (a b : Dword) : Dword :=
  let w (f : Word → Word → Word) : Dword := sext32 (f (low32 a) (low32 b))
  match o with
  | .add => a + b | .sub => a - b | .sll => a <<< shAmt b | .slt => truth (a.slt b) | .sltu => truth (decide (a < b))
  | .xor => a ^^^ b | .srl => a >>> shAmt b | .sra => a.sshiftRight (shAmt b) | .orr => a ||| b | .andd => a &&& b
  | .addw => w (· + ·) | .subw => w (· - ·) | .sllw => w fun x _ => x <<< shAmt5 b | .srlw => w fun x _ => x >>> shAmt5 b
  | .sraw => w fun x _ => x.sshiftRight (shAmt5 b)
  | .mul => a * b | .mulh => mulHigh a b | .mulhsu => BitVec.ofInt 64 (a.toInt * (b.toNat : Int) / 2 ^ 64)
  | .mulhu => mulHighU a b | .div => divS a b | .divu => divU a b | .rem => remS a b | .remu => remU a b
  | .mulw => w (· * ·) | .divw => w divW | .divuw => w divuW | .remw => w remW | .remuw => w remuW
  | .sh1add => b + (a <<< 1) | .sh2add => b + (a <<< 2) | .sh3add => b + (a <<< 3) | .addUw => b + zext32 a
  | .sh1addUw => b + (zext32 a <<< 1) | .sh2addUw => b + (zext32 a <<< 2) | .sh3addUw => b + (zext32 a <<< 3)
  | .andn => a &&& ~~~b | .orn => a ||| ~~~b | .xnor => ~~~(a ^^^ b) | .max => maxS a b | .maxu => maxU a b
  | .min => minS a b | .minu => minU a b | .rol => a.rotateLeft (shAmt b) | .ror => a.rotateRight (shAmt b)
  | .rolw => w fun x _ => x.rotateLeft (shAmt5 b) | .rorw => w fun x _ => x.rotateRight (shAmt5 b)

def rvImm (o : RvImm) (a i : Dword) : Dword :=
  match o with
  | .addi => a + i | .slti => truth (a.slt i) | .sltiu => truth (decide (a < i)) | .xori => a ^^^ i | .ori => a ||| i
  | .andi => a &&& i | .addiw => sext32 (low32 a + low32 i)

def rvSh (o : RvSh) (a : Dword) (n : Nat) : Dword :=
  match o with
  | .slli => a <<< n | .srli => a >>> n | .srai => a.sshiftRight n | .rori => a.rotateRight n
  | .slliUw => zext32 a <<< n | .slliw => sext32 (low32 a <<< n) | .srliw => sext32 (low32 a >>> n)
  | .sraiw => sext32 ((low32 a).sshiftRight n) | .roriw => sext32 ((low32 a).rotateRight n)

/-- The bytes of a register, lowest first. -/
def dwordBytes (a : Dword) : List Byte := leBytes 8 a.toNat

def rvUn (o : RvUn) (a : Dword) : Dword :=
  match o with
  | .clz => BitVec.ofNat 64 (countLead a.toNat 64) | .ctz => BitVec.ofNat 64 (countTrail a.toNat 64)
  | .cpop => BitVec.ofNat 64 (countOnes a.toNat 64)
  | .sextB => (a.setWidth 8).signExtend 64 | .sextH => (a.setWidth 16).signExtend 64 | .zextH => (a.setWidth 16).setWidth 64
  | .orcB => leDword ((dwordBytes a).map fun b => if b = 0 then 0 else 0xFF)
  | .rev8 => leDword (dwordBytes a).reverse
  | .clzw => BitVec.ofNat 64 (countLead (low32 a).toNat 32) | .ctzw => BitVec.ofNat 64 (countTrail (low32 a).toNat 32)
  | .cpopw => BitVec.ofNat 64 (countOnes (low32 a).toNat 32)

def rvCond (c : RvCond) (a b : Dword) : Bool :=
  match c with
  | .eq => decide (a = b) | .ne => decide (a ≠ b) | .lt => a.slt b | .ge => !a.slt b | .ltu => decide (a < b)
  | .geu => !decide (a < b)

def loadSize : RvLoad → Nat
  | .lb | .lbu => 1 | .lh | .lhu => 2 | .lw | .lwu => 4 | .ld => 8
def loadSigned : RvLoad → Bool
  | .lb | .lh | .lw => true
  | _ => false
def storeSize : RvStore → Nat
  | .sb => 1 | .sh => 2 | .sw => 4 | .sd => 8

/-- R225. -/
def hcsrRead (c : HCsr) (s : State) (k : Nat) (r : Role) (h : Hand) : Dword :=
  match c with
  | .cycle | .time => s.timebase
  | .instret => h.instret
  | .hid => BitVec.ofNat 64 (256 * roleNum r + k)
  | .hfeat => s.featAcc

/-- R224: the bytes of a load that lies in one row of the map. -/
def Hand.load (h : Hand) (a : Dword) (n : Nat) : Option (List Byte) :=
  if a.toNat + n ≤ 0x10000 then some (h.imem.readList a.toNat n)
  else if 0x10000 ≤ a.toNat ∧ a.toNat + n ≤ 0x18000 then some (h.dmem.readList (a.toNat - 0x10000) n)
  else none

/-- R224: a store reaches the data scratch alone. -/
def Hand.store (h : Hand) (a : Dword) (l : List Byte) : Option Hand :=
  if 0x10000 ≤ a.toNat ∧ a.toNat + l.length ≤ 0x18000 then
    some { h with dmem := h.dmem.writeList (a.toNat - 0x10000) l }
  else none

/-- R223: one instruction of `len` bytes. -/
def rvRun (i : RvOp) (len : Nat) (s : State) (k : Nat) (r : Role) (h : Hand) : HandRes :=
  let x := h.readX
  let link := h.pc + BitVec.ofNat 64 len
  match i with
  | .lui rd imm => .done s rd (sext32 (imm ++ (0 : BitVec 12))) none
  | .auipc rd imm => .done s rd (h.pc + sext32 (imm ++ (0 : BitVec 12))) none
  | .jal rd off => .done s rd link (some (h.pc + (off.signExtend 64 <<< 1)))
  | .jalr rd rs1 imm => .done s rd link (some ((x rs1 + imm.signExtend 64) &&& ~~~1))
  | .branch c rs1 rs2 off =>
    .done s 0 0 (if rvCond c (x rs1) (x rs2) then some (h.pc + (off.signExtend 64 <<< 1)) else none)
  | .load o rd rs1 imm =>
    let a := x rs1 + imm.signExtend 64
    (match h.load a (loadSize o) with
      | some l => .done s rd (extend l (loadSigned o)) none
      | none => .fault .bufferBounds a)
  | .store o rs1 rs2 imm =>
    let a := x rs1 + imm.signExtend 64
    (match h.store a (leBytes (storeSize o) (x rs2).toNat) with
      | some h' => .done (s.modHand k r fun _ => h') 0 0 none
      | none => .fault .bufferBounds a)
  | .opImm o rd rs1 imm => .done s rd (rvImm o (x rs1) (imm.signExtend 64)) none
  | .shImm o rd rs1 sh => .done s rd (rvSh o (x rs1) sh.toNat) none
  | .op o rd rs1 rs2 => .done s rd (rvRR o (x rs1) (x rs2)) none
  | .unary o rd rs1 => .done s rd (rvUn o (x rs1)) none
  | .csr _ _ rd n => .done s rd (hcsrRead n s k r h) none

def formLen : RvForm → Nat
  | .full => 4 | .compressed _ => 2

/-- R223: a hand executes one RV64IMC, Zicsr, Zba or Zbb instruction. -/
def execHandRvInstruction (i : RvOp) (form : RvForm) (s : State) : Host.Outcome State Fault Refusal :=
  .next (s.handDo (formLen form) (rvRun i (formLen form)))

/-- R227: `ecall`. -/
def execHandEcall (s : State) : Host.Outcome State Fault Refusal := .next (s.handDo 4 fun _ _ _ _ => .fault .softwareTrap 0)

/-- R227: `ebreak`. -/
def execHandEbreak (form : RvForm) (s : State) : Host.Outcome State Fault Refusal :=
  .next (s.handDo (formLen form) fun s _ _ h =>
    if (s.card (h.card.getD 0)).brken then .fault .breakpoint 0 else .done s 0 0 none)

/-- R227: `mret`, `sret` and `wfi`. -/
def execHandPrivileged (_op : RvPriv) (s : State) : Host.Outcome State Fault Refusal :=
  .next (s.handDo 4 fun _ _ _ _ => .fault .privilege 0)

/-- R224: the RISC-V `fence`. -/
def execHandRvFence (_imm : BitVec 12) (_rs1 _rd : Reg) (s : State) : Host.Outcome State Fault Refusal :=
  .next (s.handDo 4 fun s _ _ _ => .done s 0 0 none)

/-! ### Commands (R229) -/

/-- R212, R213: what a copy-slot instruction issues, its guard, and the feature it needs. -/
def issueOf (i : Instr) (x : Reg → Dword) (w : BitVec 2 → WRec) : Option (Guard × Issue × Option Nat) :=
  match i with
  | .dcopyRd g _ ch r xa => some (g, { kind := .copy false, ch := ch.toNat, wrec := w r, xa := x xa }, none)
  | .dcopyWr g _ ch r xa => some (g, { kind := .copy true, ch := ch.toNat, wrec := w r, xa := x xa }, none)
  | .dtcopyRd g _ ch r xa xb => some (g, { kind := .tcopy false, ch := ch.toNat, wrec := w r, xa := x xa, xb := x xb }, some 4)
  | .dtcopyWr g _ ch r xa xb => some (g, { kind := .tcopy true, ch := ch.toNat, wrec := w r, xa := x xa, xb := x xb }, some 4)
  | .dpush g _ ch r h xa => some (g, { kind := .push, ch := ch.toNat, wrec := w r, xa := x xa, h }, none)
  | .dpushEos g _ ch h xb => some (g, { kind := .pushEos, ch := ch.toNat, xb := x xb, h }, none)
  | .dpop g _ ch r h xa => some (g, { kind := .pop, ch := ch.toNat, wrec := w r, xa := x xa, h }, none)
  | .dstashRd g _ ch r xa => some (g, { kind := .stash false, ch := ch.toNat, wrec := w r, xa := x xa }, none)
  | .dstashWr g _ ch r xa => some (g, { kind := .stash true, ch := ch.toNat, wrec := w r, xa := x xa }, none)
  | .dgather g _ ch r xa xb => some (g, { kind := .gather, ch := ch.toNat, wrec := w r, xa := x xa, xb := x xb }, none)
  | .dscatter g _ ch r xa xb => some (g, { kind := .scatter false, ch := ch.toNat, wrec := w r, xa := x xa, xb := x xb }, none)
  | .dscatterComb g _ ch r xa xb => some (g, { kind := .scatter true, ch := ch.toNat, wrec := w r, xa := x xa, xb := x xb }, none)
  | .tgather g _ ch h xa xb im => some (g, { kind := .tgather, ch := ch.toNat, xa := x xa, xb := x xb, h, im }, none)
  | .tupdate g _ ch xa xb im => some (g, { kind := .tupdate, ch := ch.toNat, xa := x xa, xb := x xb, im }, none)
  | .tprefetch g _ ch xa xb => some (g, { kind := .tprefetch, ch := ch.toNat, xa := x xa, xb := x xb }, some 5)
  | .xsub g _ ch xa xb => some (g, { kind := .stage, ch := ch.toNat, xa := x xa, xb := x xb }, none)
  | _ => none

/-- R229: the syllable in `v` is none that the command takes, or no command at all. -/
def syllableIllegal (lo hi : Nat) (v : Dword) : Bool :=
  let syl : BitVec 32 := v.setWidth 32
  let op := (syl.extractLsb' 26 6).toNat
  decide (op < lo) || decide (hi < op) || (match decodeC false syl with | .error .illegalEncoding => true | _ => false)

/-- R227: the fault of an instruction that does not decode. A command with a field that must be zero still raises
Illegal-Encoding, which comes first, where its syllable does. -/
def Hand.decodeFault (h : Hand) (w : BitVec 32) (c : Cause) : Cause :=
  let v := h.readX (fld w 15 5)
  if c = .reservedField ∧ fld w 0 7 = 0x0B ∧ fld w 12 3 = 0 ∧
      ((fld w 25 7 = 0 ∧ syllableIllegal 0x03 0x09 v) ∨ (fld w 25 7 = 1 ∧ syllableIllegal 0x0A 0x0D v)) then .illegalEncoding
  else c

/-- R229: issues the syllable in `v`, whose OP must lie from `lo` to `hi`. -/
def handCommand (lo hi : Nat) (rd rs1 : Reg) (s : State) (k : Nat) (r : Role) (h : Hand) : HandRes :=
  let v := h.readX rs1
  let syl : BitVec 32 := v.setWidth 32
  if syllableIllegal lo hi v then .fault .illegalEncoding 0
  else
    match decodeC false syl with
    | .error c => .fault c 0
    | .ok i =>
      match issueOf i h.readX h.wrec with
      | none => .fault .illegalEncoding 0
      | some (g, i, feat) =>
        if v.extractLsb' 32 32 ≠ 0 ∨ g.pg ≠ 0 ∨ g.inv then .fault .reservedField 0
        else if (match feat with | some n => !s.accepted n | none => false) then .fault .featureNotAccepted (BitVec.ofNat 64 (feat.getD 0))
        else
          match issueTransfer s (s.handParty k r) i with
          | .ok s id => .done (s.modHand k r fun h => { h with issued := h.issued ++ [(i.ch, id)] }) rd id none
          | .fault c t =>
            if c = .cowWrite then .page true t else if c = .pageAbsent then .page false t else .fault c t
          | .full => .stall false none
          | .wait d => .stall false d

/-- R229: `h.dcmd`. -/
def execHDcmd (rd rs1 : Reg) (s : State) : Host.Outcome State Fault Refusal := .next (s.handDo 4 (handCommand 0x03 0x09 rd rs1))
/-- R229: `h.tcmd`. -/
def execHTcmd (rd rs1 : Reg) (s : State) : Host.Outcome State Fault Refusal := .next (s.handDo 4 (handCommand 0x0A 0x0D rd rs1))

/-- R230: `h.wset`. -/
def execHWset (w : BitVec 2) (fld : BitVec 4) (rs1 : Reg) (s : State) : Host.Outcome State Fault Refusal :=
  .next (s.handDo 4 fun s k r h =>
    let v := wsetRec (h.wrec w) fld.toNat (h.readX rs1)
    .done (s.modHand k r fun h => { h with w := Tab.put h.w w.toNat v }) 0 0 none)

/-- R230: `h.wchk`. -/
def execHWchk (rd : Reg) (w : BitVec 2) (s : State) : Host.Outcome State Fault Refusal :=
  .next (s.handDo 4 fun s k r h => .done s rd (wchkReport (h.wrec w) (s.accepted 3) (s.patron k r)) none)

/-- R230: `h.dlow`. -/
def execHDlow (rd : Reg) (ch : BitVec 4) (sel : BitVec 2) (s : State) : Host.Outcome State Fault Refusal :=
  .next (s.handDo 4 fun s k _ _ =>
    let q := s.core k
    let c := q.chan ch.toNat
    .done s rd (if sel = 0 then c.low else if sel = 1 then c.next else q.dshc) none)

/-- A wait of a hand. -/
def handAwait (s : State) (ready : Bool) (go : State → HandRes) : HandRes := if ready then go s else .stall true none

/-- R231: `h.dwait`. -/
def execHDwait (ch : BitVec 4) (rs1 : Reg) (_sc : Scope) (s : State) : Host.Outcome State Fault Refusal :=
  .next (s.handDo 4 fun s k _ h =>
    handAwait s (((s.core k).chan ch.toNat).waitReady (.imm 0) (h.readX rs1).toNat) fun s => .done s 0 0 none)

/-- R231: `h.dwait.id`. -/
def execHDwaitId (ch : BitVec 4) (rs1 : Reg) (_sc : Scope) (s : State) : Host.Outcome State Fault Refusal :=
  .next (s.handDo 4 fun s k _ h =>
    handAwait s (((s.core k).chan ch.toNat).waitReady (.reg 0) (h.readX rs1).toNat) fun s => .done s 0 0 none)

/-! ### Rings and flags (R232) -/

/-- A ring instruction of a hand: `bad` is the breach of R28. -/
def handRing (h : BitVec 4) (bad : Bool) (go : HandRes) : HandRes :=
  if bad then .fault .ringProtocol (h.setWidth 64) else go

def Ring.handC (r : Ring) (x : Role) : Bool := decide (r.cons = roleRing x)
def Ring.handP (r : Ring) (x : Role) : Bool := decide (r.prod = roleRing x)

/-- R232: the hand acquires what the contexts of its core have stored. -/
def State.acquire (s : State) (k : Nat) (r : Role) : State :=
  s.modHand k r fun h => { h with acq := (s.core k).storeCtr }

/-- R232: `h.rwait.c`. -/
def execHRwaitC (rd : Reg) (h : BitVec 4) (rs1 : Reg) (s : State) : Host.Outcome State Fault Refusal :=
  .next (s.handDo 4 fun s k x hd =>
    let r := (s.core k).ring h
    let n := (hd.readX rs1).toNat
    handRing h (r.badC (r.handC x) || r.tooMany n) (handAwait s (r.consReady n) fun s => .done (s.acquire k x) rd (r.report n) none))

/-- R232: `h.rwait.p`. -/
def execHRwaitP (h : BitVec 4) (rs1 : Reg) (s : State) : Host.Outcome State Fault Refusal :=
  .next (s.handDo 4 fun s k x hd =>
    let r := (s.core k).ring h
    let n := (hd.readX rs1).toNat
    handRing h (r.badP (r.handP x) || r.tooMany n) (handAwait s (r.prodReady n) fun s => .done s 0 0 none))

/-- R232: `h.radv.c`. -/
def execHRadvC (h : BitVec 4) (rs1 : Reg) (s : State) : Host.Outcome State Fault Refusal :=
  .next (s.handDo 4 fun s k x hd =>
    let r := (s.core k).ring h
    let n := (hd.readX rs1).toNat
    handRing h (r.badC (r.handC x) || r.badAdvC n) (.done (s.modCore k fun q => q.setRing h (r.advC n)) 0 0 none))

/-- R232: `h.radv.p`. -/
def execHRadvP (h : BitVec 4) (rs1 : Reg) (s : State) : Host.Outcome State Fault Refusal :=
  .next (s.handDo 4 fun s k x hd =>
    let r := (s.core k).ring h
    let n := (hd.readX rs1).toNat
    handRing h (r.badP (r.handP x) || r.badAdvP n) (.done (s.modCore k fun q => q.setRing h (r.advP n)) 0 0 none))

/-- R232: `h.radv.eos`. -/
def execHRadvEos (h : BitVec 4) (s : State) : Host.Outcome State Fault Refusal :=
  .next (s.handDo 4 fun s k x _ =>
    let r := (s.core k).ring h
    handRing h (r.badP (r.handP x) || r.badAdvP 1) (.done (s.modCore k fun q => q.setRing h r.advEos) 0 0 none))

/-- R223, R224: the word at a hand's program counter, or the fault of its fetch (DEDUCED, log entry 32). -/
def Hand.fetch (h : Hand) : Except Dword (BitVec 32) :=
  let a := h.pc.toNat
  if h.isz < a + 2 then .error h.pc
  else
    let lo := leNat (h.imem.readList a 2)
    if lo % 4 ≠ 3 then .ok (BitVec.ofNat 32 lo)
    else if h.isz < a + 4 then .error (h.pc + 2)
    else .ok (BitVec.ofNat 32 (leNat (h.imem.readList a 4)))

/-- The flag and count of the `h.fwait` on which a hand stalls. -/
def Hand.stalledFlag (h : Hand) : Option (BitVec 5 × Nat) :=
  if !h.running || h.waitAt.isNone then none
  else
    match h.fetch with
    | .ok w =>
      (match decodeH w with
        | .ok (.hFwait f rs1 _) => some (f, (h.readX rs1).toNat)
        | _ => none)
    | .error _ => none

/-- R293: the trap value of a Sync-Timeout: the kind and the number of what the hand's instruction waits for. -/
def Hand.waitTval (h : Hand) : Dword :=
  match h.fetch with
  | .ok w =>
    (match decodeH w with
      | .ok (.hFwait f _ _) => flagTval f
      | .ok (.hRwaitC _ n _) | .ok (.hRwaitP n _) => ringTval n
      | .ok (.hDwait ch _ _) | .ok (.hDwaitId ch _ _) => chanTval ch
      | _ => 0)
  | .error _ => 0

/-- R32: the waiters on flags that come before a hand. -/
def State.beforeHand (s : State) (k : Nat) (r : Role) : List (Option (BitVec 5 × Nat)) :=
  match r with
  | .load => [s.stalledFlag k]
  | .store => [s.stalledFlag k, (s.hand k .load).stalledFlag]

/-- R232: `h.fwait`. -/
def execHFwait (f : BitVec 5) (rs1 : Reg) (_sc : Scope) (s : State) : Host.Outcome State Fault Refusal :=
  .next (s.handDo 4 fun s k r h =>
    let n := (h.readX rs1).toNat
    handAwait s (flagSat (s.core k) f n && (decide (n = 0) || !rankedFirst (s.core k) f (s.beforeHand k r))) fun s =>
      .done ((s.takeFlag k f n).acquire k r) 0 0 none)

/-- A store that the hand has acquired. -/
def Hand.acquired (h : Hand) (p : PStore) : Bool := decide (p.ord < h.acq)

/-- R232, R283: `h.fpost`; what the hand has acquired performs at the scope first (DEDUCED, log entry 41). -/
def execHFpost (f : BitVec 5) (rs1 : Reg) (sc : Scope) (s : State) : Host.Outcome State Fault Refusal :=
  .next (s.handDo 4 fun s k _ h =>
    let n := (h.readX rs1).toNat
    if sc = .core then .done (s.postFlag k f n) 0 0 none
    else
      match s.storesWait k (decide (3 ≤ sc.rank)) h.acquired with
      | some w => .stall false (some w)
      | none => .done ((s.performWhere k (decide (3 ≤ sc.rank)) h.acquired).postFlag k f n) 0 0 none)

/-- R231: every command that the hand issued has completed; its writes then have performed at module scope (R216). -/
def State.handFenced (s : State) (k : Nat) (h : Hand) : Bool :=
  h.issued.all fun x => ((s.core k).findTransfer x.1 x.2).isNone

/-- R231: `h.fence` (DEDUCED, log entry 23). -/
def execHFence (_sc : Scope) (s : State) : Host.Outcome State Fault Refusal :=
  .next (s.handDo 4 fun s k r h =>
    if s.handFenced k h then .done (s.modHand k r fun h => { h with issued := [] }) 0 0 none else .stall false none)

/-- R232: `h.rget`. -/
def execHRget (rd : Reg) (h : BitVec 4) (half : Bool) (s : State) : Host.Outcome State Fault Refusal :=
  .next (s.handDo 4 fun s k _ _ =>
    .done s rd (((s.core k).ring h).pack.extractLsb' (if half then 64 else 0) 64) none)

/-- R226: `h.exit`. -/
def execHExit (status : BitVec 8) (s : State) : Host.Outcome State Fault Refusal :=
  .next (s.handDo 4 fun s k r _ =>
    .done (s.modHand k r fun h => { h with running := false, status := some status }) 0 0 none)

end Sys2Proof.Machine
end

