-- ==== Sys2Proof/Machine/MintArith.lean ====
section
/-! DEFINITION. The Mint's arithmetic: stored tiles (R177, R178), exact products and the sum order (R69 to R73), the
drain's quantisation (R68, R186), the signature stage (R190 to R195). The events are those of R170. -/

namespace Sys2Proof.Machine

/-! ### Rounding with the Mint's events (R170) -/

/-- R170: IV for a NaN made of inputs none of which is NaN. -/
def ivOf (nanIn : Bool) (r : Ex) : Flags := if r.isNan && !nanIn then fIV else 0

/-- R170: rounds a result to FP32; an overflow reports OF, and no inexactness is reported. -/
def keepM (nanIn : Bool) (r : Ex) : Word × Flags :=
  let (w, f) := rne32 r
  (BitVec.ofNat 32 w, (f &&& fOF) ||| ivOf nanIn r)

def addM (a b : Word) : Word × Flags := keepM ((f32 a).isNan || (f32 b).isNan) (Ex.add .rne (f32 a) (f32 b)).1
def subM (a b : Word) : Word × Flags := keepM ((f32 a).isNan || (f32 b).isNan) (Ex.sub .rne (f32 a) (f32 b)).1
def mulM (a b : Word) : Word × Flags := keepM ((f32 a).isNan || (f32 b).isNan) (Ex.mul (f32 a) (f32 b)).1

/-- R170: the division by a tile scale, which reports OF for the infinity that any non-zero value over a zero scale gives,
and IV. -/
def divM (x t : Ex) : Ex × Flags :=
  let r := (Ex.div x t).1
  (r, ivOf (x.isNan || t.isNan) r ||| (if r.isInf && (x.isFinite || t.isZero) then fOF else 0))

/-- Continues with a value, joining the events. -/
def andThen {α β : Type} (x : α × Flags) (k : α → β × Flags) : β × Flags :=
  let r := k x.1
  (r.1, x.2 ||| r.2)

/-- Computes a list of results and joins their events. -/
def eachM {α β : Type} (l : List α) (f : α → β × Flags) : List β × Flags :=
  let r := l.map f
  (r.map Prod.fst, r.foldl (fun a x => a ||| x.2) 0)

/-! ### Formats -/

/-- R65: formats that carry block offsets. -/
def blockFmt (f : Fmt) : Bool := f = .e4m3 || f = .e5m2 || f = .int8 || f = .lns6
/-- R177: bytes of a stored element. -/
def elemSize (f : Fmt) : Nat :=
  match f with
  | .fp32 => 4 | .bf16 | .fp16 => 2 | _ => 1

/-- R65: value(x) of a code. -/
def codeEx (f : Fmt) (v : Nat) : Ex :=
  match f with
  | .lns6 => lnsLin (v % 64)
  | .int8 => .ofInt (elemInt .int8 (BitVec.ofNat 32 v))
  | _ => elemEx f false (BitVec.ofNat 32 v)

/-- R334: what a poisoned element reads as in a format that has a NaN. -/
def nanCode (f : Fmt) : Nat :=
  match floatFmt f with
  | some ff => ff.nanBits
  | none => 0

/-! ### Stored tiles (R177, R178) -/

/-- R177: a tile descriptor with its counts and addresses. -/
structure Tile where
  base : Nat
  rows : Nat
  cols : Nat
  row0 : Nat
  col0 : Nat
  offs : Nat
  pln : Nat
  df : BitVec 5
  den : Bool
  rsv : Bool
  t : Word
  deriving DecidableEq, Repr

/-- R177: the descriptor in two parameter registers. -/
def tileOf (lo hi : Dword) : Tile :=
  { base := (lo.extractLsb' 0 16).toNat * 64, rows := (lo.extractLsb' 16 12).toNat + 1
    cols := (lo.extractLsb' 28 12).toNat + 1, row0 := (lo.extractLsb' 40 12).toNat
    col0 := (lo.extractLsb' 52 12).toNat, offs := (hi.extractLsb' 14 16).toNat * 64
    pln := (hi.extractLsb' 30 2).toNat, df := hi.extractLsb' 3 5, den := hi.getLsbD 2
    rsv := decide (hi.extractLsb' 8 6 ≠ 0) || decide (hi.extractLsb' 0 2 ≠ 0), t := hi.extractLsb' 32 32 }

/-- ⌈n / 16⌉. -/
def up16 (n : Nat) : Nat := (n + 15) / 16
/-- R178: element (r, c). -/
def Tile.elemAt (t : Tile) (f : Fmt) (r c : Nat) : Nat := t.base + (r * t.cols + c) * elemSize f
/-- R66: bytes of the planes. -/
def Tile.rowPlaneLen (t : Tile) : Nat := t.rows * up16 t.cols
def Tile.colPlaneLen (t : Tile) : Nat := up16 t.rows * t.cols
/-- R178: the column-block plane. -/
def Tile.colPlane (t : Tile) : Nat := if t.pln = 3 then t.offs + up64 t.rowPlaneLen else t.offs
/-- R66: the offset byte of the block that holds (r, c), blocks along rows or down columns. -/
def Tile.planeAt (t : Tile) (alongRow : Bool) (r c : Nat) : Nat :=
  if alongRow then t.offs + r * up16 t.cols + c / 16 else t.colPlane + r / 16 * t.cols + c
/-- R67: the plane that the axis needs is there. -/
def Tile.hasPlane (t : Tile) (alongRow : Bool) : Bool := if alongRow then decide (t.pln % 2 = 1) else decide (2 ≤ t.pln)

/-- An operand: where its tile's addresses count from, its format, the direction of its blocks. -/
structure Opnd where
  buf : Buf
  at_ : Nat
  tile : Tile
  f : Fmt
  alongRow : Bool
  deriving DecidableEq, Repr

/-- The code of element (r, c). -/
def Opnd.code (o : Opnd) (q : Core) (r c : Nat) : Nat :=
  let a := o.at_ + o.tile.elemAt o.f r c
  if (q.poisonedAt o.buf a (elemSize o.f)).isSome then nanCode o.f else leNat (q.readBuf o.buf a (elemSize o.f))

/-- R334: an element of a format without NaN that is poisoned makes its block read as one with offset 0xFF (DEDUCED,
log entry 21). -/
def Opnd.badBlock (o : Opnd) (q : Core) (r c : Nat) : Bool :=
  !q.poison.isEmpty && (o.f = .int8 || o.f = .lns6) &&
    (List.range 16).any fun i =>
      let (r', c') := if o.alongRow then (r, c / 16 * 16 + i) else (r / 16 * 16 + i, c)
      decide (r' < o.tile.rows) && decide (c' < o.tile.cols) &&
        (q.poisonedAt o.buf (o.at_ + o.tile.elemAt o.f r' c') 1).isSome

/-- R65: the offset of the block that holds (r, c); 127 where the format has none. -/
def Opnd.off (o : Opnd) (q : Core) (r c : Nat) : Nat :=
  if !blockFmt o.f then 127
  else
    let a := o.at_ + o.tile.planeAt o.alongRow r c
    if (q.poisonedAt o.buf a 1).isSome || o.badBlock q r c then 255 else leNat (q.readBuf o.buf a 1)

/-! ### Products and sums (R69 to R73) -/

/-- R70, R54: an exact product. -/
def prodM (fa fb : Fmt) (a b : Nat) : Ex × Flags :=
  if fa = .lns6 then (lnsMul a b, 0)
  else
    let x := codeEx fa a
    let y := codeEx fb b
    let r := (Ex.mul x y).1
    (r, ivOf (x.isNan || y.isNan) r)

/-- R71: the exact sum of a block's products; an exact zero is +0 (DEDUCED, log entry 21). -/
def exactSum (l : List Ex) : Ex × Flags :=
  if l.any Ex.isNan then (.nan false, 0)
  else
    let r := l.foldl (fun a x => (Ex.add .rne a x).1) (.zero false)
    match r with
    | .nan _ => (.nan false, fIV)
    | .zero _ => (.zero false, 0)
    | r => (r, 0)

/-- R71: bs(j). An offset of 0xFF makes it NaN and reports nothing. -/
def blockSum (fa fb : Fmt) (a b : Nat → Nat) (oA oB : Nat) (t : Word) (j : Nat) : Word × Flags :=
  if oA = 255 ∨ oB = 255 then (nan32, 0)
  else
    let ps := eachM (List.range 16) fun i => prodM fa fb (a (16 * j + i)) (b (16 * j + i))
    andThen ps fun l =>
      andThen (exactSum l) fun p => keepM (p.isNan || (f32 t).isNan) (Ex.mul (p.scale2 ((oA : Int) + oB - 254)) (f32 t)).1

/-- R71: one accumulation of depth 128. -/
def accumulate (fa fb : Fmt) (a b oA oB : Nat → Nat) (t acc : Word) : Word × Flags :=
  let bs (j : Nat) := blockSum fa fb a b (oA j) (oB j) t j
  let pair (x y : Word × Flags) : Word × Flags := andThen x fun u => andThen y fun v => addM u v
  andThen (pair (pair (pair (bs 0) (bs 1)) (pair (bs 2) (bs 3))) (pair (pair (bs 4) (bs 5)) (pair (bs 6) (bs 7))))
    fun col => addM acc col

/-- R73: the slices of an FP32 code; an infinity or NaN lies whole in `hi`. -/
def sliceHi (x : Nat) : Nat := rtzbf16 (FloatFmt.fp32.decode x)
def sliceLo (x : Nat) : Nat :=
  let e := FloatFmt.fp32.decode x
  if e.isFinite then (rnebf16 (Ex.sub .rne e (FloatFmt.bf16.decode (sliceHi x))).1).1 else 0

/-- R73: the passes of a pair of formats: which slice of A and of B each takes. -/
def passes (f : Fmt) : List (Bool × Bool) := if f = .fp32 then [(false, true), (true, false), (true, true)] else [(true, true)]
/-- R73: an A element as a pass takes it. -/
def slice (f : Fmt) (hi : Bool) (x : Nat) : Nat := if f = .fp32 then (if hi then sliceHi x else sliceLo x) else x
/-- The format of the factors of a pass. -/
def passFmt (f : Fmt) : Fmt := if f = .fp32 then .bf16 else f

/-- R71, R73: every pass of one accumulation; `b hi k` is a B element as a pass takes it. -/
def accumulateAll (fa fb : Fmt) (a : Nat → Nat) (b : Bool → Nat → Nat) (oA oB : Nat → Nat) (t acc : Word) :
    Word × Flags :=
  (passes fa).foldl (fun r (ha, hb) =>
    andThen r fun acc => accumulate (passFmt fa) (passFmt fb) (fun i => slice fa ha (a i)) (b hb) oA oB t acc) (acc, 0)

/-! ### Latches (R166, R180) -/

def Mint.latch (m : Mint) (l : Nat) : Latch := Tab.get {} m.latches l
def Latch.elem (x : Latch) (k n : Nat) : Nat := ((Tab.get [] x.elems k).getD n 0).toNat
def Latch.off (x : Latch) (j n : Nat) : Nat := ((Tab.get [] x.offs j).getD n 0x7F).toNat

/-- R180: a B element as a command of format `fb` reads the latches. -/
def Mint.bCode (m : Mint) (fb : Fmt) (l : Nat) (hi : Bool) (k n : Nat) : Nat :=
  match fb with
  | .fp32 =>
    if hi then 256 * (m.latch 0).elem k n + (m.latch 1).elem k n else 256 * (m.latch 2).elem k n + (m.latch 3).elem k n
  | .bf16 => 256 * (m.latch l).elem k n + (m.latch (l + 1)).elem k n
  | _ => (m.latch l).elem k n

/-- A latch of given elements and offsets. -/
def Latch.make (e o : Nat → Nat → Nat) (t : Word) : Latch :=
  { elems := (List.range 128).map fun k => (k, (List.range 256).map fun n => BitVec.ofNat 8 (e k n))
    offs := (List.range 8).map fun j => (j, (List.range 256).map fun n => BitVec.ofNat 8 (o j n))
    scale := t }

/-- R180: the load of a latch; the scale is held with the lowest latch of the group. -/
def Mint.load (m : Mint) (q : Core) (t : Bool) (f : Fmt) (l : Nat) (d : Tile) : Mint :=
  let o : Opnd := { buf := .wb, at_ := 0, tile := d, f, alongRow := t }
  let inside (r c : Nat) : Bool := decide (r < d.rows) && decide (c < d.cols)
  let place (k n : Nat) : Nat × Nat := if t then (d.row0 + n, d.col0 + k) else (d.row0 + k, d.col0 + n)
  let e (k n : Nat) : Nat := let p := place k n; if inside p.1 p.2 then o.code q p.1 p.2 else 0
  let off (j n : Nat) : Nat := let p := place (16 * j) n; if inside p.1 p.2 then o.off q p.1 p.2 else 0x7F
  let put (m : Mint) (l : Nat) (x : Latch) : Mint := { m with latches := Tab.put m.latches l x }
  match f with
  | .fp32 =>
    let m := put m 0 (Latch.make (fun k n => sliceHi (e k n) / 256) off d.t)
    let m := put m 1 (Latch.make (fun k n => sliceHi (e k n) % 256) off (m.latch 1).scale)
    let m := put m 2 (Latch.make (fun k n => sliceLo (e k n) / 256) off (m.latch 2).scale)
    put m 3 (Latch.make (fun k n => sliceLo (e k n) % 256) off (m.latch 3).scale)
  | .bf16 =>
    let m := put m l (Latch.make (fun k n => e k n / 256) off d.t)
    put m (l + 1) (Latch.make (fun k n => e k n % 256) off (m.latch (l + 1)).scale)
  | .lns6 => put m l (Latch.make (fun k n => e k n % 64) off d.t)
  | _ => put m l (Latch.make e off d.t)

/-! ### Streams (R182, R183) -/

/-- The FP32 words from address `a` of the C-buffer; a poisoned word reads as a NaN (R334). -/
def Core.cRow (q : Core) (a n : Nat) : List Word :=
  (List.range n).map fun i => if (q.poisonedAt .cb (a + 4 * i) 4).isSome then nan32 else leWord (q.readBuf .cb (a + 4 * i) 4)

def wordBytes (l : List Word) : List Byte := l.flatMap fun w => leBytes 4 w.toNat

/-- R182: one row of a stream: element codes and offsets of A, the C row's address. The offsets of B are those that the latch
holds, whatever format loaded it (DEDUCED, log entry 21). -/
def Core.streamRow (q : Core) (op : MintOp) (ta : Word) (zero : Bool) (a oA : Nat → Nat) (c : Nat) : Core × Flags :=
  let m := q.mint
  let lat := m.latch op.l
  let r := andThen (mulM ta lat.scale) fun t =>
    eachM ((List.range 256).zip (q.cRow c 256)) fun (n, old) =>
      accumulateAll op.fa op.fb a (fun hi k => m.bCode op.fb op.l hi k n) oA (fun j => lat.off j n) t (if zero then 0 else old)
  (q.writeBuf .cb c (wordBytes r.1), r.2)

/-- R182: rows `m0` to `m0 + n − 1` of a stream, the A operand read from `src`. -/
def Core.streamRows (q src : Core) (op : MintOp) (o : Opnd) (klen : Nat) (zero : Bool) (caddr m0 n : Nat) : Core × Flags :=
  let d := o.tile
  (List.range n).foldl (fun (x : Core × Flags) i =>
    let m := m0 + i
    let r := x.1.streamRow op d.t zero
      (fun i => if i < klen then o.code src (d.row0 + m) (d.col0 + i) else 0)
      (fun j => if 16 * j < klen then o.off src (d.row0 + m) (d.col0 + 16 * j) else 127) (caddr + 1024 * m)
    (r.1, x.2 ||| r.2)) (q, 0)

def Mint.accRow (m : Mint) (k : Nat) : List Word :=
  let r := Tab.get [] m.acc k
  (List.range 256).map fun n => r.getD n 0

/-- R183: groups `g0` to `g0 + n − 1` of 128 batch rows, the operands read from `src`. -/
def Core.outerGroups (q src : Core) (op : MintOp) (x y : Opnd) (brows klen nlen g0 n : Nat) : Core × Flags :=
  let t0 := mulM x.tile.t y.tile.t
  (List.range n).foldl (fun (s : Core × Flags) i =>
    let g := g0 + i
    let row (i : Nat) : Option Nat := if 128 * g + i < brows then some (128 * g + i) else none
    (List.range klen).foldl (fun (s : Core × Flags) k =>
      let old := s.1.mint.accRow k
      let new := eachM ((List.range 256).zip old) fun (n, acc) =>
        if n < nlen then
          andThen t0 fun t =>
            accumulateAll op.fa op.fb
              (fun i => match row i with | some r => x.code src (x.tile.row0 + r) (x.tile.col0 + k) | none => 0)
              (fun hi i => match row i with | some r => slice op.fb hi (y.code src (y.tile.row0 + r) (y.tile.col0 + n)) | none => 0)
              (fun j => match row (16 * j) with | some r => x.off src (x.tile.row0 + r) (x.tile.col0 + k) | none => 127)
              (fun j => match row (16 * j) with | some r => y.off src (y.tile.row0 + r) (y.tile.col0 + n) | none => 127) t acc
        else (acc, 0)
      ({ s.1 with mint := { s.1.mint with acc := Tab.put s.1.mint.acc k new.1 } }, s.2 ||| new.2)) s) (q, 0)

/-! ### Quantisation (R68, R186, R198) -/

/-- R64: round_fmt of R68, or the rounding of a format without offsets, of an exact value; OF and IX alone. -/
def roundFmt (f : Fmt) (x : Ex) : Nat × Flags :=
  let r : Nat × Flags :=
    match f with
    | .e4m3 => FloatFmt.e4m3.round .rne true false x
    | .e5m2 => FloatFmt.e5m2.round .rne true false x
    | .int8 =>
      (match x, x.toInt? .rne with
        | .inf neg, _ => (if neg then 128 else 127, fOF ||| fIX)
        | _, none => (0, 0)
        | _, some (v, lost) =>
          let c := clampInt (-128) 127 v
          ((c % 256).toNat, if c ≠ v then fOF ||| fIX else if lost then fIX else 0))
    | .lns6 => toLns6 x
    | .bf16 => rnebf16 x
    | .fp16 => rne16 x
    | _ => rne32 x
  (r.1, r.2 &&& (fOF ||| fIX))

/-- R170: rne32(x / T). -/
def scaled (x t : Word) : Word × Flags :=
  andThen (divM (f32 x) (f32 t)) fun r =>
    let (w, f) := rne32 r
    (BitVec.ofNat 32 w, f &&& (fOF ||| fIX))

/-- R197: an element of a map entry out of range counts as +0 without a division. -/
def scaledOpt (x : Option Word) (t : Word) : Word × Flags :=
  match x with
  | some x => scaled x t
  | none => (0, 0)

/-- R68: EMAX. -/
def emaxOf (f : Fmt) : Int :=
  match f with
  | .e4m3 => 8 | .e5m2 => 15 | .int8 => 6 | _ => 2

/-- floor(log2 |x|) of a finite non-zero value. -/
def Ex.floorLog2 (x : Ex) : Int :=
  match x with
  | .num _ m e _ => topExp m e
  | _ => 0

/-- R68: a block of at most sixteen elements: its codes and its offset. -/
def quantBlock (f : Fmt) (t : Word) (xs : List (Option Word)) : (List Nat × Nat) × Flags :=
  andThen (eachM xs fun x => scaledOpt x t) fun ys =>
    let es := ys.map f32
    if es.any fun y => !y.isFinite then ((ys.map fun _ => 0, 255), 0)
    else
      let m := es.foldl (fun a y => if a.cmp y.abs < 0 then y.abs else a) (.zero false)
      let e0 : Int := if m.isZero then 0 else m.floorLog2 - emaxOf f
      let off := clampInt 0 254 (e0 + 127)
      let r := eachM es fun y => roundFmt f (y.scale2 (127 - off))
      ((r.1, off.toNat), r.2)

/-- R186: a row of `z` quantised: the codes, and the offsets of its blocks of 16. -/
def quantRow (f : Fmt) (t : Word) (z : List (Option Word)) : (List Nat × List Nat) × Flags :=
  if blockFmt f then
    andThen (eachM (pieces 16 z.length z) (quantBlock f t)) fun l => ((l.flatMap Prod.fst, l.map Prod.snd), 0)
  else
    andThen (eachM z fun x => andThen (scaledOpt x t) fun y => roundFmt f (f32 y)) fun l => ((l, []), 0)

def codeBytes (f : Fmt) (l : List Nat) : List Byte := l.flatMap fun v => leBytes (elemSize f) v
def offBytes (l : List Nat) : List Byte := l.map (BitVec.ofNat 8)

/-! ### The drain (R185 to R188, R197) -/

/-- R185: the record of `mdrain` and `mexpand`. -/
structure DrainRec where
  df : BitVec 5
  den : Bool
  mrows : Nat
  nlen : Nat
  pen : Bool
  ten : Bool
  pbuf : Buf
  tbuf : Buf
  rowstat : Bool
  norm : Bool
  colstat : Bool
  ring : Option (BitVec 4)
  rh : BitVec 4
  reos : Bool
  rsv : Bool
  caddr : Nat
  pscl : Word
  paddr : Nat
  poff : Nat
  tscl : Word
  taddr : Nat
  toff : Nat
  saddr : Nat
  gaddr : Nat
  qaddr : Nat
  eps : Half
  deriving DecidableEq, Repr

/-- A buffer address field: 64-byte units from bit `lo`. -/
def addr64 (d : Dword) (lo : Nat) : Nat := (d.extractLsb' lo 16).toNat * 64

def drainRec (p : List Dword) : DrainRec :=
  let d (i : Nat) := p.getD i 0
  { df := (d 0).extractLsb' 59 5, den := (d 0).getLsbD 58, mrows := ((d 0).extractLsb' 47 11).toNat + 1
    nlen := ((d 0).extractLsb' 39 8).toNat + 1, pen := (d 0).getLsbD 38, ten := (d 0).getLsbD 37
    pbuf := if (d 0).getLsbD 36 then .wb else .ab, tbuf := if (d 0).getLsbD 35 then .wb else .ab
    rowstat := (d 0).getLsbD 33, norm := (d 0).getLsbD 34, colstat := (d 0).getLsbD 32
    ring := if (d 0).getLsbD 31 then some ((d 0).extractLsb' 27 4) else none, rh := (d 0).extractLsb' 27 4
    reos := (d 0).getLsbD 26, rsv := decide ((d 0).extractLsb' 16 10 ≠ 0), caddr := addr64 (d 0) 0
    pscl := (d 1).extractLsb' 32 32, paddr := addr64 (d 1) 16, poff := addr64 (d 1) 0
    tscl := (d 2).extractLsb' 32 32, taddr := addr64 (d 2) 16, toff := addr64 (d 2) 0
    saddr := addr64 (d 3) 48, gaddr := addr64 (d 3) 32, qaddr := addr64 (d 3) 16, eps := (d 3).extractLsb' 0 16 }

/-- R197, R195: IDX of map entry `m`; none where it is NREP or greater, or where the entry is poisoned. -/
def Core.mapIdx (q : Core) (mapaddr nrep m : Nat) : Option Nat :=
  let i := leNat (q.readBuf .ab (mapaddr + 2 * m) 2) % 1024
  if (q.poisonedAt .ab (mapaddr + 2 * m) 2).isSome ∨ nrep ≤ i then none else some i

/-- R186: the normalised row: NaN for an INVALID triple or an infinite rsd. Its steps report OF, those of the statistics do not
(DESIGN CHOICE, log entry 48). -/
def normRow (t : Triple) (eps : Word) (g b x : List Word) : List Word × Flags :=
  let (rsd, f0) := if qclass t = .normal then rsdOf t eps else (nan32, 0)
  if qclass t = .invalid || (f32 rsd).isInf then (x.map fun _ => nan32, f0 &&& fDZ)
  else
    let mean := (qextract t 1 eps false).1
    andThen (0, f0 &&& (if (f32 eps).isNan then fDZ else fDZ ||| fIV)) fun (_ : Nat) =>
      eachM (x.zip (g.zip b)) fun (x, g, b) =>
        andThen (subM x mean) fun d => andThen (mulM d rsd) fun z => andThen (mulM z g) fun z => addM z b

/-- A drained row: what goes on to the tiles, none for a map entry out of range (R197), and its triple. -/
structure DrainRow where
  z : Option (List Word)
  stat : Triple
  deriving DecidableEq, Repr

/-- A triple of a buffer; poisoned words read as NaN (R334). -/
def Core.tripleAt (q : Core) (b : Buf) (a : Nat) : Triple :=
  let w (a : Nat) : Word := if (q.poisonedAt b a 4).isSome then nan32 else leWord (q.readBuf b a 4)
  ⟨w a, w (a + 4), w (a + 8)⟩

/-- R186, R187: one output row: its C row, the ROWSTAT triple, the normalisation and the COLSTAT updates. -/
def Core.drainRow (q src : Core) (d : DrainRec) (row : Option Nat) : (Core × DrainRow) × Flags :=
  match row with
  | none => ((q, { z := none, stat := Triple.invalid }), fIV)
  | some c =>
    let x := q.cRow (d.caddr + 1024 * c) d.nlen
    let eps : Word := d.eps ++ (0 : BitVec 16)
    let st : Triple × Flags :=
      if d.rowstat || d.norm then
        x.foldl (fun (t : Triple × Flags) v => andThen t fun t => qupdate t v one32) (Triple.empty, 0)
      else (Triple.empty, 0)
    let par (a n : Nat) : Word :=
      if (src.poisonedAt .wb (a + 4 * n) 4).isSome then nan32 else leWord (src.readBuf .wb (a + 4 * n) 4)
    andThen st fun t =>
      andThen (if d.norm then normRow t eps ((List.range d.nlen).map (par d.gaddr))
          ((List.range d.nlen).map (par (d.gaddr + 1024))) x else (x, 0)) fun z =>
        let q' : Core × Flags :=
          if d.colstat then
            ((List.range d.nlen).zip z).foldl (fun (s : Core × Flags) (n, v) =>
              andThen s fun q =>
                let u := qupdate (q.tripleAt .cb (d.qaddr + 12 * n)) v one32
                (q.writeBuf .cb (d.qaddr + 12 * n) (tripleBytes u.1), u.2)) (q, 0)
          else (q, 0)
        andThen q' fun q => ((q, { z := some z, stat := t }), 0)

/-- R197: the codes and offsets of a row; a map entry out of range gives +0 codes and offsets 127. -/
def drainQuant (f : Fmt) (t : Word) (nlen : Nat) (r : DrainRow) : (List Nat × List Nat) × Flags :=
  quantRow f t (match r.z with
    | some z => z.map some
    | none => List.replicate nlen none)

/-- R186, R187: the whole drain. `at_` is where the plain tile's addresses count from; none when its ring refuses the
tile (R188). `row m` is the C row of output row m; γ, β are read from `src`. -/
def Core.drain (q src : Core) (op : MintOp) (d : DrainRec) (at_ : Option Nat) (row : Nat → Option Nat) : Core × Flags :=
  let map := (List.range d.mrows).map row
  let (q, rows, fl) := map.foldl (fun (x : Core × List DrainRow × Flags) c =>
    let r := x.1.drainRow src d c
    (r.1.1, x.2.1 ++ [r.1.2], x.2.2 ||| r.2)) (q, [], 0)
  let plain : Core × Flags :=
    match d.pen, at_ with
    | true, some o =>
      let p := eachM rows (drainQuant op.fa d.pscl d.nlen)
      let q := q.writeBuf d.pbuf (o + d.paddr) (codeBytes op.fa (p.1.flatMap Prod.fst))
      (if blockFmt op.fa then q.writeBuf d.pbuf (o + d.poff) (offBytes (p.1.flatMap Prod.snd)) else q, p.2)
    | _, _ => (q, 0)
  let transposed : Core × Flags :=
    andThen plain fun q =>
      if d.ten then
        let p := eachM (List.range d.nlen) fun n =>
          quantRow op.fb d.tscl (rows.map fun r => r.z.map fun z => z.getD n 0)
        let q := q.writeBuf d.tbuf d.taddr (codeBytes op.fb (p.1.flatMap Prod.fst))
        (if blockFmt op.fb then q.writeBuf d.tbuf d.toff (offBytes (p.1.flatMap Prod.snd)) else q, p.2)
      else (q, 0)
  let done := andThen transposed fun q =>
    (if d.rowstat then q.writeBuf d.pbuf d.saddr (rows.flatMap fun r => tripleBytes r.stat) else q, 0)
  (done.1, fl ||| done.2)

/-! ### The fold (R198) -/

/-- R198: the record of `mfold`. -/
structure FoldRec where
  df : BitVec 5
  den : Bool
  mrows : Nat
  nlen : Nat
  nrep : Nat
  mapaddr : Nat
  rsv : Bool
  oscl : Word
  oaddr : Nat
  ooff : Nat
  deriving DecidableEq, Repr

def foldRec (p : List Dword) : FoldRec :=
  let c := p.getD 2 0
  let o := p.getD 3 0
  { df := c.extractLsb' 59 5, den := c.getLsbD 58, mrows := (c.extractLsb' 47 11).toNat + 1
    nlen := (c.extractLsb' 39 8).toNat + 1, nrep := (c.extractLsb' 29 10).toNat + 1, mapaddr := addr64 c 0
    rsv := decide (c.extractLsb' 16 13 ≠ 0), oscl := o.extractLsb' 32 32, oaddr := addr64 o 16, ooff := addr64 o 0 }

/-- R198, R65: dv(m, n), rounded once. -/
def foldDv (q : Core) (o : Opnd) (m n : Nat) : Word × Flags :=
  let r := o.tile.row0 + m
  let c := o.tile.col0 + n
  let off := o.off q r c
  if off = 255 then (nan32, 0)
  else
    let x := codeEx o.f (o.code q r c)
    keepM (x.isNan || (f32 o.tile.t).isNan) (Ex.mul (x.scale2 ((off : Int) - 127)) (f32 o.tile.t)).1

/-- R198: F(j, n) over the member rows, ascending. -/
def foldSum (q : Core) (o : Opnd) (n : Nat) : List Nat → Word × Flags
  | [] => (0, 0)
  | m :: t => t.foldl (fun s m => andThen s fun a => andThen (foldDv q o m n) fun b => addM a b) (foldDv q o m n)

/-- R198: the whole fold (DEDUCED, log entry 21); where the output's plane overlaps its elements, the plane is written last (DESIGN
CHOICE, log entry 48). -/
def Core.fold (q src : Core) (op : MintOp) (o : Opnd) (d : FoldRec) : Core × Flags :=
  let idx := (List.range d.mrows).map fun m => (m, src.mapIdx d.mapaddr d.nrep m)
  let iv : Flags := if idx.any fun x => x.2.isNone then fIV else 0
  let members (j : Nat) : List Nat := (idx.filter fun x => decide (x.2 = some j)).map Prod.fst
  let f := eachM (List.range d.nrep) fun j => let l := members j; eachM (List.range d.nlen) fun n => foldSum src o n l
  let out : Core × Flags :=
    andThen f fun rows =>
      if blockFmt op.fb then
        let col := eachM (List.range d.nlen) fun n => quantRow op.fb d.oscl (rows.map fun r => some (r.getD n 0))
        let codes := (List.range d.nrep).flatMap fun j => col.1.map fun c => c.1.getD j 0
        let offs := (List.range (up16 d.nrep)).flatMap fun b => col.1.map fun c => c.2.getD b 0
        ((q.writeBuf .wb d.oaddr (codeBytes op.fb codes)).writeBuf .wb d.ooff (offBytes offs), col.2)
      else if op.fb = .bf16 then
        let c := eachM rows.flatten fun x => andThen (divM (f32 x) (f32 d.oscl)) fun r => roundFmt .bf16 r
        (q.writeBuf .wb d.oaddr (codeBytes .bf16 c.1), c.2)
      else (q.writeBuf .wb d.oaddr (wordBytes rows.flatten), 0)
  (out.1, iv ||| out.2)

/-! ### The signature stage (R189 to R196) -/

/-- R189: the signature control. -/
structure SigRec where
  mapaddr : Nat
  repaddr : Nat
  cap : Nat
  rule : Nat
  b : Nat
  rsv : Bool
  deriving DecidableEq, Repr

def sigRec (p : List Dword) : SigRec :=
  let d := p.getD 3 0
  let cap := (d.extractLsb' 22 10).toNat
  let bm := (d.extractLsb' 16 4).toNat
  { mapaddr := addr64 d 48, repaddr := addr64 d 32, cap := if cap = 0 then 1024 else cap
    rule := (d.extractLsb' 20 2).toNat, b := bm + 1, rsv := decide (d.extractLsb' 0 16 ≠ 0) || decide (bm < 3) }

/-- R190: one step of xorshift64*: the new state and its output. -/
def xorshift (s : Dword) : Dword × Dword :=
  let s := s ^^^ (s >>> 12)
  let s := s ^^^ (s <<< 25)
  let s := s ^^^ (s >>> 27)
  (s, s * 0x2545F4914F6CDD1D)

/-- R190: the outputs in order. -/
def xorshifts (s : Dword) : Nat → List Dword
  | 0 => []
  | n + 1 => let r := xorshift s; r.2 :: xorshifts r.1 n

/-- R190: whether P(i, k) is −1. -/
def projections (seed : Dword) (b : Nat) : Nat → Nat → Bool :=
  let l := xorshifts (if seed = 0 then 0x9E3779B97F4A7C15 else seed) (2 * b)
  fun i k => (l.getD (2 * i + k / 64) 0).getLsbD (k % 64)

/-- A row of the window: its codes and the offsets of its blocks. -/
structure SigRow where
  codes : List Nat
  offs : List Nat
  deriving DecidableEq, Repr

/-- R191: v(r, k). -/
def SigRow.v (r : SigRow) (f : Fmt) (k : Nat) : Ex :=
  (codeEx f (r.codes.getD k 0)).scale2 (((r.offs.getD (k / 16) 127 : Nat) : Int) - 127)
/-- R191. -/
def SigRow.finite (r : SigRow) (f : Fmt) : Bool :=
  r.codes.all (fun c => (codeEx f c).isFinite) && !r.offs.contains 255
/-- The exact sum of finite values. -/
def sumEx (l : List Ex) : Ex := l.foldl (fun a x => (Ex.add .rne a x).1) (.zero false)
/-- R191: the hash. -/
def SigRow.hash (r : SigRow) (f : Fmt) (p : Nat → Nat → Bool) (b : Nat) : Nat :=
  (List.range b).foldl (fun h i =>
    let s := sumEx ((List.range r.codes.length).map fun k => if p i k then (r.v f k).neg else r.v f k)
    if s.isNeg || s.isZero then h + 2 ^ i else h) 0
/-- R191: the key: the hash, or under EXACT the stored bytes. -/
def SigRow.key (r : SigRow) (f : Fmt) (p : Nat → Nat → Bool) (d : SigRec) : List Nat :=
  if d.rule = 3 then r.codes ++ (if blockFmt f then r.offs else []) else [r.hash f p d.b]

/-- R192: a bucket: its rows, and its key while it is open. -/
structure Bucket where
  rows : List Nat
  key : Option (List Nat)
  deriving DecidableEq, Repr

/-- R195: a map entry without its REP bit. -/
structure SigEnt where
  idx : Nat
  nanr : Bool
  capf : Bool
  lead : Bool
  deriving DecidableEq, Repr

/-- R192: the place of a row among the buckets. -/
def bucketRow (cap : Nat) (s : List Bucket × List SigEnt) (r : Nat) (finite : Bool) (key : List Nat) :
    List Bucket × List SigEnt :=
  let n := s.1.length
  if !finite then (s.1 ++ [⟨[r], none⟩], s.2 ++ [⟨n, true, false, true⟩])
  else
    match s.1.findIdx? fun b => decide (b.key = some key) with
    | none => (s.1 ++ [⟨[r], some key⟩], s.2 ++ [⟨n, false, false, true⟩])
    | some j =>
      let b := s.1.getD j ⟨[], none⟩
      if b.rows.length < cap then (s.1.set j { b with rows := b.rows ++ [r] }, s.2 ++ [⟨j, false, false, false⟩])
      else (s.1 ++ [⟨[r], none⟩], s.2 ++ [⟨n, false, true, true⟩])

/-- R193: the member that stands for a bucket; none when MEAN forms a new row. -/
def repMember (f : Fmt) (rule : Nat) (rows : List SigRow) (b : Bucket) : Option Nat :=
  match b.rows with
  | [] => none
  | [r] => some r
  | r :: t =>
    if rule = 1 then none
    else if rule = 2 then
      let norm (r : Nat) : Ex :=
        let x := rows.getD r ⟨[], []⟩
        sumEx ((List.range x.codes.length).map fun k => (Ex.mul (x.v f k) (x.v f k)).1)
      some (t.foldl (fun best r => if (norm best).cmp (norm r) < 0 then r else best) r)
    else some r

/-- R193: the row that MEAN writes for a bucket. -/
def meanRow (f : Fmt) (rows : List SigRow) (b : Bucket) : SigRow × Flags :=
  let row (r : Nat) : SigRow := rows.getD r ⟨[], []⟩
  let first := row (b.rows.headD 0)
  let cnt := w32 (.ofInt b.rows.length)
  let val (r k : Nat) : Word × Flags := keepM true ((row r).v f k)
  let codes := eachM (List.range first.codes.length) fun k =>
    let sum := match b.rows with
      | [] => (0, 0)
      | r :: t => t.foldl (fun a r => andThen a fun a => andThen (val r k) fun v => addM a v) (val r k)
    andThen sum fun s =>
      let m := (Ex.div (f32 s) (f32 cnt)).1
      andThen (keepM (f32 s).isNan m) fun mean =>
        let (y, g) := rne32 ((f32 mean).scale2 (127 - ((first.offs.getD (k / 16) 127 : Nat) : Int)))
        andThen (y, g &&& (fOF ||| fIX)) fun y => roundFmt f (FloatFmt.fp32.decode y)
  ({ codes := codes.1, offs := first.offs }, codes.2)

/-- What the signature stage leaves: the representatives, the map, MSIGST. -/
structure SigOut where
  reps : List SigRow
  ents : List Nat
  status : Dword
  fl : Flags
  deriving DecidableEq, Repr

/-- R191 to R196. -/
def signature (f : Fmt) (d : SigRec) (seed : Dword) (rows : List SigRow) : SigOut :=
  let p := projections seed d.b
  let (bs, ents) := ((List.range rows.length).zip rows).foldl (fun s (i, r) =>
    bucketRow d.cap s i (r.finite f) (r.key f p d)) ([], [])
  let reps := eachM bs fun b =>
    match repMember f d.rule rows b with
    | some r => (rows.getD r ⟨[], []⟩, 0)
    | none => meanRow f rows b
  let isRep (r idx : Nat) : Bool := d.rule ≠ 1 && decide (repMember f d.rule rows (bs.getD idx ⟨[], none⟩) = some r)
  let word (r : Nat) (e : SigEnt) : Nat :=
    e.idx + (if e.lead then 1024 else 0) + (if e.capf then 2048 else 0) + (if e.nanr then 4096 else 0) +
      (if isRep r e.idx then 8192 else 0)
  let nnan := (ents.filter (·.nanr)).length
  let ncap := (ents.filter (·.capf)).length
  { reps := reps.1, ents := ((List.range ents.length).zip ents).map fun (r, e) => word r e
    status := BitVec.ofNat 64 (nnan * 2 ^ 32 + ncap * 2 ^ 16 + bs.length), fl := reps.2 }

end Sys2Proof.Machine
end

