-- ==== Sys2Proof/Machine/Mint.lean ====
section
/-! DEFINITION. The Mint: the checks at issue (R173 to R198), the queue and its units (R167 to R171), the commands' effects
at retirement, the `m` slot's instructions and the Mint's events. For each instruction, `slot…` says what its slot does in a
bundle, and `exec…` what a bundle does whose only slot that is not all zero it is. -/

namespace Sys2Proof.Machine

/-! ### Records of a command -/

/-- R181: the stream control dword. -/
structure StreamRec where
  mrows : Nat
  klen : Nat
  zero : Bool
  caddr : Nat
  rsv : Bool
  deriving DecidableEq, Repr

def streamRec (d : Dword) : StreamRec :=
  { mrows := (d.extractLsb' 53 11).toNat + 1, klen := (d.extractLsb' 46 7).toNat + 1, zero := d.getLsbD 45
    caddr := addr64 d 0, rsv := decide (d.extractLsb' 16 29 ≠ 0) }

/-- R183: the control dword of `mouter`. -/
structure OuterRec where
  brows : Nat
  klen : Nat
  nlen : Nat
  rsv : Bool
  deriving DecidableEq, Repr

def outerRec (d : Dword) : OuterRec :=
  { brows := (d.extractLsb' 53 11).toNat + 1, klen := (d.extractLsb' 46 7).toNat + 1
    nlen := (d.extractLsb' 38 8).toNat + 1, rsv := decide (d.extractLsb' 0 38 ≠ 0) }

/-- R173: parameter registers that a command names. -/
def MintOp.count (o : MintOp) : Nat :=
  match o.kind with
  | .mode _ | .clearAcc | .clearLatch => 0
  | .latch _ => 2
  | .stream => 3
  | .outer | .sig _ | .drain true => 5
  | .drain false | .fold => 4
  | .spill _ => 1

def param (p : List Dword) (i : Nat) : Dword := p.getD i 0
def tile0 (p : List Dword) : Tile := tileOf (param p 0) (param p 1)
def tile1 (p : List Dword) : Tile := tileOf (param p 2) (param p 3)
/-- R197: NREP and MAPADDR of `mexpand`. -/
def expandNrep (p : List Dword) : Nat := ((param p 4).extractLsb' 16 10).toNat + 1
def expandMap (p : List Dword) : Nat := addr64 (param p 4) 0
/-- R184: CADDR of `mspill`. -/
def spillAddr (p : List Dword) : Nat := addr64 (param p 0) 0

/-- R178: the done flag of a command, when it posts one. -/
def MintOp.done (o : MintOp) (p : List Dword) : Option (BitVec 5) :=
  let ctl (d : Dword) : Option (BitVec 5) := if d.getLsbD 58 then some (d.extractLsb' 59 5) else none
  match o.kind with
  | .mode _ | .clearAcc | .clearLatch => none
  | .latch _ | .stream | .outer | .sig _ => if (tile0 p).den then some (tile0 p).df else none
  | .drain _ | .spill _ => ctl (param p 0)
  | .fold => ctl (param p 2)

/-! ### Operands -/

/-- R178: where an A operand's addresses count from: the slot at HEAD of its ring as it stands, at issue for the bounds check
(DEDUCED, log entry 20), or the buffer itself. -/
def MintOp.aBase (o : MintOp) (q : Core) : Nat :=
  match o.ring with
  | some h => (q.ring h).slotAddr (q.ring h).head.toNat
  | none => 0

/-- R180, R182, R183: the first operand. -/
def MintOp.opnd (o : MintOp) (q : Core) (p : List Dword) : Opnd :=
  match o.kind with
  | .latch t => { buf := .wb, at_ := 0, tile := tile0 p, f := o.fb, alongRow := t }
  | .outer => { buf := .ab, at_ := o.aBase q, tile := tile0 p, f := o.fa, alongRow := false }
  | _ => { buf := .ab, at_ := o.aBase q, tile := tile0 p, f := o.fa, alongRow := true }
/-- R183: the second operand of `mouter`. -/
def MintOp.opnd2 (o : MintOp) (p : List Dword) : Opnd := { buf := .wb, at_ := 0, tile := tile1 p, f := o.fb, alongRow := false }

/-! ### Areas: buffer bytes that a command reads or writes -/

/-- Bytes of a typed buffer. -/
structure Area where
  buf : Buf
  lo : Nat
  len : Nat
  deriving DecidableEq, Repr

def Area.meets (a b : Area) : Bool :=
  decide (a.buf = b.buf) && decide (a.lo < b.lo + b.len) && decide (b.lo < a.lo + a.len)

/-- R178: the stored tile and its planes. -/
def Opnd.areas (o : Opnd) : List Area :=
  [⟨o.buf, o.at_ + o.tile.base, o.tile.rows * o.tile.cols * elemSize o.f⟩] ++
    (if o.tile.pln % 2 = 1 then [⟨o.buf, o.at_ + o.tile.offs, o.tile.rowPlaneLen⟩] else []) ++
    (if 2 ≤ o.tile.pln then [⟨o.buf, o.at_ + o.tile.colPlane, o.tile.colPlaneLen⟩] else [])

/-- The bytes of a window of `nr` rows and `nc` columns that are read. -/
def Opnd.window (o : Opnd) (nr nc : Nat) : List Area :=
  let t := o.tile
  let r1 := min (t.row0 + nr) t.rows
  let c1 := min (t.col0 + nc) t.cols
  if r1 ≤ t.row0 ∨ c1 ≤ t.col0 then []
  else
    ((List.range (r1 - t.row0)).map fun i =>
        ⟨o.buf, o.at_ + t.elemAt o.f (t.row0 + i) t.col0, (c1 - t.col0) * elemSize o.f⟩) ++
      (if !blockFmt o.f then []
       else if o.alongRow then
        (List.range (r1 - t.row0)).map fun i =>
          ⟨o.buf, o.at_ + t.planeAt true (t.row0 + i) t.col0, (c1 - 1) / 16 - t.col0 / 16 + 1⟩
       else
        (List.range ((r1 - 1) / 16 - t.row0 / 16 + 1)).map fun i =>
          ⟨o.buf, o.at_ + t.planeAt false (t.row0 + 16 * i) t.col0, c1 - t.col0⟩)

/-- R194: the representative tile of `n` rows, and its plane. -/
def repAreas (f : Fmt) (d : SigRec) (n klen : Nat) : List Area :=
  [⟨.ab, d.repaddr, n * klen * elemSize f⟩] ++
    (if blockFmt f then [⟨.ab, up64 (d.repaddr + n * klen * elemSize f), n * up16 klen⟩] else [])
/-- R195, R196: the map and the status record. -/
def mapAreas (d : SigRec) (n : Nat) : List Area := [⟨.ab, d.mapaddr, 2 * n⟩, ⟨.ab, up64 (d.mapaddr + 2 * n), 64⟩]

/-- R187: the plain tile with its plane, from where its addresses count. -/
def plainAreas (o : MintOp) (d : DrainRec) (at_ : Nat) : List Area :=
  if !d.pen then []
  else
    [⟨d.pbuf, at_ + d.paddr, d.mrows * d.nlen * elemSize o.fa⟩] ++
      (if blockFmt o.fa then [⟨d.pbuf, at_ + d.poff, d.mrows * up16 d.nlen⟩] else [])
def transAreas (o : MintOp) (d : DrainRec) : List Area :=
  if !d.ten then []
  else
    [⟨d.tbuf, d.taddr, d.nlen * d.mrows * elemSize o.fb⟩] ++
      (if blockFmt o.fb then [⟨d.tbuf, d.toff, d.nlen * up16 d.mrows⟩] else [])
/-- R187: the other areas of a drain: C rows, ROWSTAT triples, γ and β, the COLSTAT area, the map. -/
def MintOp.cRows (o : MintOp) (p : List Dword) (d : DrainRec) : Nat :=
  match o.kind with
  | .drain true => expandNrep p
  | _ => d.mrows
def drainReads (o : MintOp) (p : List Dword) (d : DrainRec) : List Area :=
  ((List.range (o.cRows p d)).map fun i => ⟨.cb, d.caddr + 1024 * i, 4 * d.nlen⟩) ++
    (if d.norm then [⟨.wb, d.gaddr, 4 * d.nlen⟩, ⟨.wb, d.gaddr + 1024, 4 * d.nlen⟩] else []) ++
    (match o.kind with | .drain true => [⟨.ab, expandMap p, 2 * d.mrows⟩] | _ => [])
def drainWrites (d : DrainRec) : List Area :=
  (if d.rowstat then [⟨d.pbuf, d.saddr, 12 * d.mrows⟩] else []) ++
    (if d.colstat then [⟨.cb, d.qaddr, 3072⟩] else [])
/-- R198. -/
def foldWrites (o : MintOp) (d : FoldRec) : List Area :=
  [⟨.wb, d.oaddr, d.nrep * d.nlen * elemSize o.fb⟩] ++
    (if blockFmt o.fb then [⟨.wb, d.ooff, up16 d.nrep * d.nlen⟩] else [])

/-- The bytes that a command reads, besides a ring's. -/
def MintOp.reads (o : MintOp) (q : Core) (p : List Dword) : List Area :=
  match o.kind with
  | .mode _ | .clearAcc | .clearLatch | .spill false => []
  | .latch t => if t then (o.opnd q p).window 256 128 else (o.opnd q p).window 128 256
  | .stream =>
    let s := streamRec (param p 2)
    (o.opnd q p).window s.mrows s.klen ++ (if s.zero then [] else [⟨.cb, s.caddr, 1024 * s.mrows⟩])
  | .sig st =>
    let s := streamRec (param p 2)
    (o.opnd q p).window s.mrows s.klen ++ (if st && !s.zero then [⟨.cb, s.caddr, 1024 * s.mrows⟩] else [])
  | .outer =>
    let s := outerRec (param p 4)
    (o.opnd q p).window s.brows s.klen ++ (o.opnd2 p).window s.brows s.nlen
  | .drain _ => drainReads o p (drainRec p)
  | .fold =>
    let d := foldRec p
    (o.opnd q p).window d.mrows d.nlen ++ [⟨.ab, d.mapaddr, 2 * d.mrows⟩]
  | .spill true => [⟨.cb, spillAddr p, 131072⟩]

/-- The bytes that a command writes; a plain tile in a ring counts as the ring's whole region. -/
def MintOp.writes (o : MintOp) (q : Core) (p : List Dword) : List Area :=
  match o.kind with
  | .mode _ | .clearAcc | .clearLatch | .latch _ | .outer | .spill true => []
  | .stream => let s := streamRec (param p 2); [⟨.cb, s.caddr, 1024 * s.mrows⟩]
  | .sig st =>
    let s := streamRec (param p 2)
    let d := sigRec p
    repAreas o.fa d s.mrows s.klen ++ mapAreas d s.mrows ++ (if st then [⟨.cb, s.caddr, 1024 * s.mrows⟩] else [])
  | .drain _ =>
    let d := drainRec p
    drainWrites d ++ transAreas o d ++
      (match d.ring with
        | some h => let r := q.ring h; [⟨d.pbuf, r.base.toNat, r.count * r.slotBytes⟩]
        | none => plainAreas o d 0)
  | .fold => foldWrites o (foldRec p)
  | .spill false => [⟨.cb, spillAddr p, 131072⟩]

/-! ### The checks of R173 -/

/-- R177, R178: reserved bits and options of a descriptor; `src` says whether the done flag comes from it. -/
def Tile.bad (t : Tile) (f : Fmt) (src : Bool) : Bool :=
  t.rsv || (!src && (t.den || decide (t.df ≠ 0))) || (!blockFmt f && (decide (t.pln ≠ 0) || decide (t.offs ≠ 0)))

/-- R185, R188: what a drain's record may not hold (DEDUCED, log entry 21). -/
def DrainRec.bad (d : DrainRec) (o : MintOp) (p : List Dword) : Bool :=
  d.rsv || (!d.den && decide (d.df ≠ 0)) || (d.ring.isSome && !d.pen) || (d.ring.isNone && (decide (d.rh ≠ 0) || d.reos)) ||
    (!d.pen && (decide (o.fa ≠ .fp32) || decide (param p 1 ≠ 0) || (!d.rowstat && decide (d.pbuf = .wb)))) ||
    (!d.ten && (decide (o.fb ≠ .fp32) || decide (param p 2 ≠ 0) || decide (d.tbuf = .wb))) ||
    (!blockFmt o.fa && decide (d.poff ≠ 0)) || (!blockFmt o.fb && decide (d.toff ≠ 0)) ||
    (!d.rowstat && decide (d.saddr ≠ 0)) || (!d.norm && (decide (d.gaddr ≠ 0) || decide (d.eps ≠ 0))) ||
    (!d.colstat && decide (d.qaddr ≠ 0)) ||
    (match o.kind with | .drain true => decide ((param p 4).extractLsb' 26 38 ≠ 0) | _ => false)

/-- R173 item 1. -/
def MintOp.reservedBad (o : MintOp) (p : List Dword) : Bool :=
  match o.kind with
  | .mode _ | .clearAcc | .clearLatch => false
  | .latch _ => (tile0 p).bad o.fb true
  | .stream => (tile0 p).bad o.fa true || (streamRec (param p 2)).rsv
  | .sig st =>
    let s := streamRec (param p 2)
    (tile0 p).bad o.fa true || s.rsv || decide (1024 < s.mrows) || (!st && (s.zero || decide (s.caddr ≠ 0))) || (sigRec p).rsv
  | .outer => (tile0 p).bad o.fa true || (tile1 p).bad o.fb false || (outerRec (param p 4)).rsv
  | .drain _ => (drainRec p).bad o p
  | .fold => (tile0 p).bad o.fa false || (foldRec p).rsv
  | .spill _ => decide ((param p 0).extractLsb' 16 42 ≠ 0)

/-- R173: the pending mode that a command needs. -/
def MintOp.needMode (o : MintOp) : Option MintMode :=
  match o.kind with
  | .stream | .sig true => some .ws
  | .outer | .spill _ | .clearAcc => some .rs
  | _ => none

/-- R67, R198: Scale-Alignment of one operand. -/
def Opnd.misaligned (o : Opnd) (origin : Bool) : Bool :=
  blockFmt o.f &&
    (!o.tile.hasPlane o.alongRow ||
      (origin && decide ((if o.alongRow then o.tile.col0 else o.tile.row0) % 16 ≠ 0)))

/-- R173 item 4. -/
def MintOp.scaleBad (o : MintOp) (q : Core) (p : List Dword) : Bool :=
  match o.kind with
  | .latch _ | .stream | .sig _ => (o.opnd q p).misaligned true
  | .outer => (o.opnd q p).misaligned true || (o.opnd2 p).misaligned true
  | .fold => (o.opnd q p).misaligned false
  | _ => false

/-- R173 item 5. -/
def MintOp.permBad (o : MintOp) (q : Core) (p : List Dword) : Bool :=
  (match o.ring with | some h => decide ((q.ring h).buf ≠ .ab) | none => false) ||
    (match o.kind with
      | .drain _ => let d := drainRec p; (match d.ring with | some h => decide ((q.ring h).buf ≠ d.pbuf) | none => false)
      | _ => false)

/-- R181: the lowest byte at which a window of `nr` × `nc` elements leaves its tile. -/
def Opnd.leaves (o : Opnd) (nr nc : Nat) : Option Int :=
  let t := o.tile
  let a (r c : Nat) : Int := (o.at_ + t.elemAt o.f r c : Nat)
  let byCol := if t.cols < t.col0 + nc then some (a t.row0 (max t.col0 t.cols)) else none
  let byRow := if t.rows < t.row0 + nr then some (a (max t.row0 t.rows) t.col0) else none
  match byCol, byRow with
  | some x, some y => some (min x y)
  | x, none => x
  | none, y => y

/-- An area against the context's window. -/
def areaBad (x : Ctx) (a : Area) : Option Int := (x.window a.buf).outside a.lo a.len
/-- An area, counted from the start of a ring slot of `n` bytes at `at_`. -/
def slotBad (at_ n : Nat) (a : Area) : Option Int := ({ base := at_, limit := at_ + n } : Window).outside a.lo a.len

/-- R173 item 6: the first area that is out of bounds gives its lowest byte; a fold's dY window counts too where it leaves its stored
tile (DESIGN CHOICE, log entry 48). -/
def MintOp.boundsBad (o : MintOp) (q : Core) (x : Ctx) (p : List Dword) : Option Int :=
  let win (l : List Area) : Option Int := l.findSome? (areaBad x)
  let first (o' : Opnd) : Option Int :=
    match o.ring with
    | some h => o'.areas.findSome? (slotBad o'.at_ (q.ring h).slotBytes)
    | none => win o'.areas
  let a := o.opnd q p
  match o.kind with
  | .mode _ | .clearAcc | .clearLatch => none
  | .latch _ => win a.areas
  | .stream =>
    let s := streamRec (param p 2)
    (a.leaves s.mrows s.klen).or ((first a).or (win [⟨.cb, s.caddr, 1024 * s.mrows⟩]))
  | .sig st =>
    let s := streamRec (param p 2)
    let d := sigRec p
    (a.leaves s.mrows s.klen).or ((first a).or
      (win (repAreas o.fa d s.mrows s.klen ++ mapAreas d s.mrows ++ (if st then [⟨.cb, s.caddr, 1024 * s.mrows⟩] else []))))
  | .outer =>
    let s := outerRec (param p 4)
    let b := o.opnd2 p
    (a.leaves s.brows s.klen).or ((b.leaves s.brows s.nlen).or ((first a).or (win b.areas)))
  | .drain _ =>
    let d := drainRec p
    (win (drainReads o p d ++ drainWrites d ++ transAreas o d)).or
      (match d.ring with
        | some h =>
          let r := q.ring h
          let at_ := r.slotAddr r.tail.toNat
          (plainAreas o d at_).findSome? (slotBad at_ r.slotBytes)
        | none => win (plainAreas o d 0))
  | .fold =>
    let d := foldRec p
    (a.leaves d.mrows d.nlen).or (win (a.areas ++ [⟨.ab, d.mapaddr, 2 * d.mrows⟩] ++ foldWrites o d))
  | .spill _ => win [⟨.cb, spillAddr p, 131072⟩]

/-- R173 item 7: the handle of a ring that refuses the command. -/
def MintOp.ringBad (o : MintOp) (q : Core) (p : List Dword) : Option (BitVec 4) :=
  let c := match o.ring with
    | some h => if (q.ring h).badC (decide ((q.ring h).cons = RingRole.mint)) then some h else none
    | none => none
  let d := match o.kind with
    | .drain _ =>
      (match (drainRec p).ring with
        | some h => if (q.ring h).badP (decide ((q.ring h).prod = RingRole.mint)) then some h else none
        | none => none)
    | _ => none
  c.or d

/-- R185: the record uses STATCOLL. -/
def MintOp.usesStat (o : MintOp) (p : List Dword) : Bool :=
  match o.kind with
  | .drain _ => let d := drainRec p; d.rowstat || d.norm || d.colstat
  | _ => false

/-- R173: the operand checks in order. `stat` says whether STATCOLL is accepted. -/
def MintOp.check (o : MintOp) (q : Core) (x : Ctx) (p : List Dword) (stat : Bool) : Option (Cause × Dword) :=
  if o.reservedBad p then some (.reservedField, 0)
  else if o.usesStat p && !stat then some (.featureNotAccepted, 2)
  else if (match o.needMode with | some m => decide (q.mint.pending ≠ m) | none => false) then some (.latchMode, 0)
  else if o.scaleBad q p then some (.scaleAlignment, 0)
  else if o.permBad q p then some (.bufferPermission, 0)
  else
    match o.boundsBad q x p with
    | some t => some (.bufferBounds, BitVec.ofInt 64 t)
    | none => (o.ringBad q p).map fun h => (.ringProtocol, h.setWidth 64)

/-! ### Issue (R167, R309) -/

/-- R309: whether card `n` outranks the card of a claim's subject. -/
def State.claims? (s : State) (k n : Nat) (x : Claim) : Bool := decide ((s.cardOf k x.c).rank < (s.card n).rank)

/-- R309, R310: the urgent card `n` has still to claim the Mint's state of a subject halted on the core: of the newest that it
outranks. -/
def State.mintUnclaimed (s : State) (k n : Nat) : Bool :=
  match (s.core k).claims.find? (s.claims? k n) with
  | none => false
  | some x =>
    match x.mint with
    | none => true
    | some h => !h.by_.contains n

/-- R173, R376: the signature stage needs SIGSTAGE. -/
def MintOp.usesSig (o : MintOp) : Bool :=
  match o.kind with
  | .sig _ | .drain true | .fold => true
  | _ => false

/-- R167: an `m` slot other than `mscale`, after the feature checks of R83: of two features that it lacks, SIGSTAGE is
reported (DESIGN CHOICE, log entry 44). -/
def mintSlot (g : Guard) (op : MintOp) (mp : BitVec 3) : SlotFn := fun b =>
  if op.usesSig && !b.s.accepted 1 then .fault .featureNotAccepted 1
  else if (op.fa = .lns6 ∨ op.fb = .lns6) ∧ !b.s.accepted 3 then .fault .featureNotAccepted 3
  else
  b.guarded g <|
    let p := (List.range op.count).map fun i => b.ctx.mpReg (mp + BitVec.ofNat 3 i)
    match op.check b.core b.ctx p (b.s.accepted 2) with
    | some (c, v) => .fault c v
    | none =>
      if (match b.ctx.card with | some n => b.s.mintUnclaimed b.k n | none => false) then .stall .claim 0 none
      else if Config.mintQueue ≤ b.core.mint.queue.length then .stall .mintQueue 0 none
      else
        .done (b.modCore fun q =>
          let m := q.mint
          { q with
            mint :=
              { m with
                queue :=
                  m.queue ++
                    [{ id := m.nextId, op, params := p, c := b.c, card := (b.ctx.card).getD 0, baddr := b.pc
                       seq := if b.ctx.start = 0 then b.core.seq + 1 else b.ctx.lastSeq
                       wsrc := b.core.wb, asrc := b.core.ab }]
                nextId := m.nextId + 1
                pending := match op.kind with | .mode rs => (if rs then .rs else .ws) | _ => m.pending } })

/-- R175: the byte offset of `mscale`. -/
def mscaleAddr (b : Bx) (idx : BitVec 10) : Nat := (b.ctx.window .wb).base + 8 * idx.toNat

/-! ### The units (R168) -/

/-- R168. -/
inductive MintUnit where
  | none | loader | array | drain
  deriving DecidableEq, Repr

def MintOp.unit (o : MintOp) : MintUnit :=
  match o.kind with
  | .mode _ => .none
  | .latch _ | .clearLatch => .loader
  | .stream | .outer | .sig _ | .spill _ | .clearAcc => .array
  | .drain _ | .fold => .drain

/-- Latches that a command of format `f` touches (R180). -/
def latchSet (f : Fmt) (l : Nat) : List Nat :=
  match f with
  | .fp32 => [0, 1, 2, 3] | .bf16 => [l, l + 1] | _ => [l]
def MintOp.latchReads (o : MintOp) : List Nat :=
  match o.kind with
  | .stream | .sig true => latchSet o.fb o.l
  | _ => []
def MintOp.latchWrites (o : MintOp) : List Nat :=
  match o.kind with
  | .latch _ => latchSet o.fb o.l
  | .clearLatch => [o.l]
  | _ => []
/-- The ring whose descriptor a command moves. -/
def MintOp.rings (o : MintOp) (p : List Dword) : List (BitVec 4) :=
  o.ring.toList ++ (match o.kind with | .drain _ => (drainRec p).ring.toList | _ => [])

/-- R168: the result of `b` could differ if it ran before the earlier command `a` retires (DEDUCED, log entry 20). -/
def MintCmd.conflicts (q : Core) (a b : MintCmd) : Bool :=
  let meet (x y : List Area) : Bool := x.any fun u => y.any u.meets
  meet (a.op.writes q a.params) (b.op.reads q b.params) || meet (a.op.writes q a.params) (b.op.writes q b.params) ||
    meet (a.op.reads q a.params) (b.op.writes q b.params) ||
    a.op.latchWrites.any (fun l => b.op.latchReads.contains l || b.op.latchWrites.contains l) ||
    a.op.latchReads.any (fun l => b.op.latchWrites.contains l) ||
    (a.op.rings a.params).any (fun h => (b.op.rings b.params).contains h)

/-- R168: the command after the queue's entries `before` may start. -/
def MintCmd.mayStart (q : Core) (before : List MintCmd) (c : MintCmd) : Bool :=
  match c.op.kind with
  | .mode _ => before.isEmpty
  | _ =>
    before.all fun a =>
      (match a.op.kind with | .mode _ => false | _ => true) && decide (a.op.unit ≠ c.op.unit) && !a.conflicts q c

/-- R171, R188: the ring slots that the command reads or fills are ready. -/
def MintCmd.ringReady (q : Core) (c : MintCmd) : Bool :=
  (match c.op.ring with
    | some h => (q.ring h).eosc || decide (1 ≤ (q.ring h).fill.toNat)
    | none => true) &&
    (match c.op.kind with
      | .drain _ =>
        let d := drainRec c.params
        (match d.ring with
          | some h => (q.ring h).eosp || decide ((if d.reos then 2 else 1) + (q.ring h).fill.toNat ≤ (q.ring h).count)
          | none => true)
      | _ => true)

/-! ### Effects (R170, R171) -/

/-- R171: what its operand ring gives a command. -/
def MintOp.take (o : MintOp) (q : Core) : RingTake :=
  match o.ring with
  | none => .slot
  | some h =>
    let r := q.ring h
    if r.badC (decide (r.cons = RingRole.mint)) then .ended else if r.eosPos = some 0 then .token else .slot

/-- R188: the ring that a drain fills refuses it. -/
def MintOp.drainEnded (o : MintOp) (q : Core) (p : List Dword) : Bool :=
  match o.kind with
  | .drain _ =>
    (match (drainRec p).ring with
      | some h => (q.ring h).badP (decide ((q.ring h).prod = RingRole.mint))
      | none => false)
  | _ => false

/-- R189: the result of the signature stage on its window, read from `src`. -/
def Core.signResult (src : Core) (op : MintOp) (p : List Dword) : SigOut :=
  let o := op.opnd src p
  let s := streamRec (param p 2)
  let rows := (List.range s.mrows).map fun m =>
    ({ codes := (List.range s.klen).map fun k => o.code src (o.tile.row0 + m) (o.tile.col0 + k)
       offs := (List.range (up16 s.klen)).map fun j => o.off src (o.tile.row0 + m) (o.tile.col0 + 16 * j) } : SigRow)
  signature op.fa (sigRec p) (param p 4) rows

/-- R194 to R196: the representatives, the map and the status record written, in this order where they overlap (DESIGN CHOICE, log
entry 48). -/
def Core.signWrite (q : Core) (op : MintOp) (p : List Dword) (r : SigOut) : Core :=
  let s := streamRec (param p 2)
  let d := sigRec p
  let sz := r.reps.length * s.klen * elemSize op.fa
  let q := q.writeBuf .ab d.repaddr (r.reps.flatMap fun x => codeBytes op.fa x.codes)
  let q := if blockFmt op.fa then q.writeBuf .ab (up64 (d.repaddr + sz)) (r.reps.flatMap fun x => offBytes x.offs) else q
  let q := q.writeBuf .ab d.mapaddr (r.ents.flatMap fun e => leBytes 2 e)
  let q := q.writeBuf .ab (up64 (d.mapaddr + 2 * s.mrows)) (leBytes 8 r.status.toNat ++ List.replicate 56 0)
  { q with mint := { q.mint with msigst := r.status } }

/-- R194: rows `j0` to `j0 + n − 1` of the representatives through the latch. -/
def Core.signStream (q : Core) (op : MintOp) (p : List Dword) (reps : List SigRow) (j0 n : Nat) : Core × Flags :=
  let s := streamRec (param p 2)
  (List.range n).foldl (fun (x : Core × Flags) i =>
    let row := reps.getD (j0 + i) ⟨[], []⟩
    let y := x.1.streamRow op (tile0 p).t s.zero (fun i => row.codes.getD i 0) (fun i => row.offs.getD i 127)
      (s.caddr + 1024 * (j0 + i))
    (y.1, x.2 ||| y.2)) (q, 0)

/-- The representatives that a stopped command keeps. -/
def SigRow.pack (r : SigRow) : List Nat × List Nat := (r.codes, r.offs)
def SigRow.unpack (x : List Nat × List Nat) : SigRow := ⟨x.1, x.2⟩

/-- R189, R194, R310: the signature stage up to step `upto`: one step a row of the window, whose results are written
with the last of them, then one step a representative that is streamed. -/
def Core.signSteps (q src : Core) (c : MintCmd) (st : Bool) (upto : Nat) : Core × Flags :=
  let m := (streamRec (param c.params 2)).mrows
  if upto < m then (q, 0)
  else if c.progress < m then
    let r := src.signResult c.op c.params
    let q := q.signWrite c.op c.params r
    if st then (let y := q.signStream c.op c.params r.reps 0 (upto - m); (y.1, r.fl ||| y.2)) else (q, r.fl)
  else q.signStream c.op c.params (c.reps.map SigRow.unpack) (c.progress - m) (upto - c.progress)

/-- R179: the accumulator tile after a switch into WS has no defined contents (DEDUCED, log entry 20). -/
def freeTile (n : Nat) : Tab (List Word) :=
  (List.range 128).map fun k => (k, (List.range 256).map fun i => Config.freeWord (n * 2 ^ 64 + 256 * k + i))

/-- R169: the core with the W- and A-buffer as a started command reads them. -/
def MintCmd.source (c : MintCmd) (q : Core) : Core := { q with wb := c.wsrc, ab := c.asrc }

/-- Rows or groups of a command that a claim may part (R310). -/
def MintCmd.steps (c : MintCmd) (q : Core) : Nat :=
  let m := (streamRec (param c.params 2)).mrows
  match c.op.kind with
  | .stream => m
  | .outer => ((outerRec (param c.params 4)).brows + 127) / 128
  | .sig false => m
  | .sig true => m + (if c.progress < m then ((c.source q).signResult c.op c.params).reps.length else c.reps.length)
  | _ => 1

/-- The work of a command, from its progress to step `upto`; `occ` numbers the occasion for free values. -/
def Core.mintWork (q : Core) (occ : Nat) (c : MintCmd) (upto : Nat) : Core × Flags :=
  let p := c.params
  let src := c.source q
  let o := c.op.opnd q p
  match c.op.kind with
  | .mode rs =>
    ({ q with mint := { q.mint with mode := if rs then .rs else .ws, acc := if rs then [] else freeTile occ } }, 0)
  | .latch t => ({ q with mint := q.mint.load src t c.op.fb c.op.l (tile0 p) }, 0)
  | .stream =>
    let s := streamRec (param p 2)
    q.streamRows src c.op o s.klen s.zero s.caddr c.progress (upto - c.progress)
  | .outer =>
    let s := outerRec (param p 4)
    q.outerGroups src c.op o (c.op.opnd2 p) s.brows s.klen s.nlen c.progress (upto - c.progress)
  | .sig st => q.signSteps src c st upto
  | .drain e =>
    let d := drainRec p
    let at_ := match d.ring with
      | some h => if c.op.drainEnded q p then none else some ((q.ring h).slotAddr (q.ring h).tail.toNat)
      | none => some 0
    q.drain src c.op d at_ fun m => if e then src.mapIdx (expandMap p) (expandNrep p) m else some m
  | .fold => q.fold src c.op o (foldRec p)
  | .spill false =>
    ((List.range 128).foldl (fun q k => q.writeBuf .cb (spillAddr p + 1024 * k) (wordBytes (q.mint.accRow k))) q, 0)
  | .spill true =>
    ({ q with mint := { q.mint with acc := (List.range 128).map fun k => (k, q.cRow (spillAddr p + 1024 * k) 256) } }, 0)
  | .clearAcc => ({ q with mint := { q.mint with acc := [] } }, 0)
  | .clearLatch => ({ q with mint := { q.mint with latches := Tab.put q.mint.latches c.op.l {} } }, 0)

/-! ### What a command sees of its sources, and what is seen of it (R169) -/

/-- R169: a byte that has been written since a command was issued is read old or new, but a byte of its ring's slot is read as
the ring gives it (R171). -/
def mixSource (occ n : Nat) (keep : Nat → Bool) (old new : Mem) : Mem :=
  (Mem.diff old new).foldl (fun m (x : Nat × Byte × Byte) =>
    if !keep x.1 && Config.freeChoice (occ * 2 ^ 64 + n * 2 ^ 32 + x.1) then m.write x.1 x.2.1 else m) new

/-- R169: a command as it starts: its sources settled. -/
def MintCmd.begun (c : MintCmd) (q : Core) (occ : Nat) : MintCmd :=
  let slot (a : Nat) : Bool :=
    match c.op.ring with
    | some h => let r := q.ring h; let b := r.slotAddr r.head.toNat; decide (b ≤ a) && decide (a < b + r.slotBytes)
    | none => false
  { c with
    started := true, wsrc := mixSource occ 0 (fun _ => false) c.wsrc q.wb, asrc := mixSource occ 1 slot c.asrc q.ab
    wbegun := q.wb, abegun := q.ab }

/-- R169: a byte that a bundle, the Dray or a hand has written since the command started is read as the start settled it or new.
A result that a bundle has seen early does not constrain that choice (DEDUCED, log entry 20). -/
def MintCmd.settled (c : MintCmd) (q : Core) (occ : Nat) : MintCmd :=
  let late (n : Nat) (src begun now : Mem) : Mem :=
    (Mem.diff begun now).foldl (fun m (x : Nat × Byte × Byte) =>
      if Config.freeChoice (occ * 2 ^ 64 + n * 2 ^ 32 + x.1) then m.write x.1 x.2.2 else m) src
  if !c.started then c
  else { c with wsrc := late 4 c.wsrc c.wbegun q.wb, asrc := late 5 c.asrc c.abegun q.ab, wbegun := q.wb, abegun := q.ab }

/-- R169: the bytes that a command starts to change. -/
def MintCmd.changes (c : MintCmd) (q : Core) (occ : Nat) : List (Buf × Nat × Byte) :=
  let r := (q.mintWork occ c (c.steps q)).1
  [Buf.wb, Buf.ab, Buf.cb].flatMap fun b => (Mem.diff (q.buf b) (r.buf b)).map fun x => (b, x.1, x.2.2)

/-- R168, R169: what a command has written, commands that have still to start read. -/
def MintCmd.sees (c : MintCmd) (l : List Area) (q : Core) : MintCmd :=
  if c.started then c
  else
    l.foldl (fun c a =>
      match a.buf with
      | .wb => { c with wsrc := c.wsrc.writeList a.lo (q.readBuf .wb a.lo a.len) }
      | .ab => { c with asrc := c.asrc.writeList a.lo (q.readBuf .ab a.lo a.len) }
      | .cb => c) c

/-- R334: the command reads a poisoned unit. -/
def MintCmd.readsPoison (q : Core) (c : MintCmd) : Bool :=
  !q.poison.isEmpty &&
    (c.op.reads q c.params).any fun a => q.poison.any fun (b, u) => a.meets ⟨b, 8 * u, 8⟩

/-- R28: an advance of a retiring command that the ring, as it stands then, does not allow. -/
def MintOp.advBad (o : MintOp) (q : Core) (p : List Dword) : Bool :=
  (match o.ring, o.take q with
    | some h, .slot | some h, .token => (q.ring h).badAdvC 1
    | _, _ => false) ||
  (match o.kind with
    | .drain _ =>
      let d := drainRec p
      (match d.ring with
        | some h =>
          let r := q.ring h
          !o.drainEnded q p && (r.badAdvP 1 || (d.reos && (r.advP 1).badAdvP 1))
        | none => false)
    | _ => false)

/-- R28, R171, R188: the ring advances at retirement; one that breaks R28 leaves its ring unchanged. -/
def Core.mintAdvance (q : Core) (c : MintCmd) : Core :=
  let q := match c.op.ring, c.op.take q with
    | some h, .slot | some h, .token => if (q.ring h).badAdvC 1 then q else q.setRing h ((q.ring h).advC 1)
    | _, _ => q
  match c.op.kind with
  | .drain _ =>
    let d := drainRec c.params
    (match d.ring with
      | some h =>
        if c.op.drainEnded q c.params || (q.ring h).badAdvP 1 then q
        else
          let r := (q.ring h).advP 1
          q.setRing h (if d.reos && !r.badAdvP 1 then r.advEos else r)
      | none => q)
  | _ => q

/-- R220: a drain that was queued when its ring's descriptor was rewritten. -/
def Core.mintSpoil (q : Core) (occ : Nat) (c : MintCmd) : Core :=
  match c.op.kind with
  | .drain _ =>
    (match (drainRec c.params).ring with
      | some h =>
        if c.id < (q.ring h).stampM && !c.op.drainEnded q c.params then q.spoil occ h (q.ring h).tail.toNat else q
      | none => q)
  | _ => q

/-- A record of the Mint (R302). -/
def MintCmd.record (c : MintCmd) (cause : Cause) (pay : Dword) : EngRec :=
  { cause, trap := true, src := 0, ch := 0, id := 0, baddr := c.baddr, pay := [pay] }

/-- R170: the command retires (DEDUCED, log entry 20). -/
def State.mintRetire (s : State) (k : Nat) (c : MintCmd) : State :=
  let q := s.core k
  let t := c.op.take q
  let c := c.settled q s.freeCtr
  let ended := decide (t = .ended) || c.op.drainEnded q c.params || c.op.advBad q c.params
  let h : Dword := ((c.op.rings c.params).headD 0).setWidth 64
  let bad := c.readsPoison q && decide (t = .slot)
  let r : Core × Flags := if t = .slot then q.mintWork s.freeCtr c (c.steps q) else (q, 0)
  let wrote := c.op.writes q c.params
  let fl := r.2 ||| c.fl ||| (if bad then fIV else 0)
  let q := (r.1.mintSpoil s.freeCtr c).mintAdvance c
  let q := { q with
    mint := { q.mint with queue := (q.mint.queue.filter fun x => !decide (x.id = c.id)).map fun x => x.sees wrote q } }
  let q := match c.op.done c.params with
    | some f => q.post f 1 (s.tookNow k f)
    | none => q
  let s := { s.setCore k q with freeCtr := s.freeCtr + 1 }
  let s := s.modCtx k c.c fun x =>
    if fl = 0 ∨ x.card.getD 0 ≠ c.card then x else { x with mintEvs := x.mintEvs ++ [mintEvent fl c.baddr c.seq] }
  let s := if ended then s.sendRecord c.card k c.c (c.record .ringProtocol h) else s
  if bad then s.sendRecord c.card k c.c (c.record .memoryError 0) else s

/-- The commands before one with the number `id` in the queue, and that command. -/
def Mint.find (m : Mint) (id : Nat) : Option (List MintCmd × MintCmd) :=
  match m.queue.dropWhile fun c => !decide (c.id = id) with
  | [] => none
  | c :: _ => some (m.queue.takeWhile fun c => !decide (c.id = id), c)

/-! ### A claim (R310) and its end -/

/-- The context is halted. -/
def Core.isHalted (q : Core) (c : Nat) : Bool := decide ((q.ctx c).st = .halted)

/-- R310 item 2: the array's command of a halted context stops after its present row or group (DEDUCED, log entry 20). -/
def State.mintStop (s : State) (k : Nat) (c : MintCmd) : State :=
  let q := s.core k
  if c.steps q ≤ c.progress + 1 then s.mintRetire k c
  else
    let c := c.settled q s.freeCtr
    let r := q.mintWork s.freeCtr c (c.progress + 1)
    let reps := match c.op.kind with
      | .sig _ =>
        if c.progress + 1 = (streamRec (param c.params 2)).mrows then (((c.source q).signResult c.op c.params).reps).map SigRow.pack
        else c.reps
      | _ => c.reps
    s.setCore k { r.1 with
      mint := { r.1.mint with
        queue := r.1.mint.queue.map fun x =>
          if x.id = c.id then { c with progress := c.progress + 1, fl := x.fl ||| r.2, reps } else x } }

/-- The Mint's state of the newest claim that card `n` may make, replaced. -/
def Core.setMintHeld (q : Core) (f : Claim → Bool) (h : MintHeld) : Core :=
  match q.claims.findIdx? f with
  | some i => { q with claims := q.claims.modify i fun x => { x with mint := some h } }
  | none => q

/-- R309: the latches of a mask, with what they hold. -/
def Mint.maskLatches (m : Mint) (mask : Nat) : Tab Latch :=
  ((List.range 4).filter fun l => mask.testBit l).map fun l => (l, m.latch l)

/-- R310 items 1 and 2: the units finish or stop what they run. -/
def State.mintSettle (s : State) (k : Nat) : State :=
  (s.core k).mint.queue.foldl (fun s c =>
    if c.started then
      (match c.op.kind with
        | .stream | .outer | .sig _ => if (s.core k).isHalted c.c then s.mintStop k c else s
        | _ => s.mintRetire k c)
    else s) s

/-- R310 items 3 to 5: the queue without the commands of halted contexts, and what is set aside; `mask` has the urgent kernel's
LATCHES (R309). -/
def Core.mintAside (q : Core) (n mask : Nat) : Mint × MintHeld :=
  let m := q.mint
  let (held, rest) := m.queue.partition fun c => q.isHalted c.c
  ({ m with
     queue := rest
     pending := rest.foldl (fun p c => match c.op.kind with | .mode rs => (if rs then .rs else .ws) | _ => p) m.mode },
   { cmds := held.map fun c => { c with started := false, early := [] }, mode := m.mode, pending := m.pending
     acc := if m.mode = .rs ∨ m.pending = .rs then some m.acc else none
     latches := m.maskLatches mask, by_ := [n] })

/-- R309, R310: card `n` claims the Mint's state of the newest subject that it outranks. What an earlier claim has set aside
stays so, and latches that it did not name are added (DEDUCED, log entry 22). -/
def State.mintScanOut (s : State) (k n mask : Nat) : State :=
  match (s.core k).claims.find? (s.claims? k n) with
  | none => s
  | some x =>
    match x.mint with
    | none =>
      let s := s.mintSettle k
      let r := (s.core k).mintAside n mask
      s.modCore k fun q => ({ q with mint := r.1 }).setMintHeld (s.claims? k n) r.2
    | some h =>
      let new := ((s.core k).mint.maskLatches mask).filter fun l => !Tab.has h.latches l.1
      s.modCore k fun q => q.setMintHeld (s.claims? k n) { h with latches := h.latches ++ new, by_ := h.by_ ++ [n] }

/-- R310, on restore. -/
def Mint.restore (m : Mint) (h : MintHeld) : Mint :=
  { m with
    mode := h.mode, pending := h.pending, acc := h.acc.getD m.acc
    latches := h.latches.foldl (fun t (x : Nat × Latch) => Tab.put t x.1 x.2) m.latches
    queue := h.cmds ++ m.queue }

/-! ### The instructions -/

/-- R179: Sets the pending Mint mode to weight-stationary and queues the switch. -/
def slotMmodeWs (g : Guard) : SlotFn := mintSlot g { kind := .mode false } 0
def execMmodeWs (g : Guard) (s : State) : Host.Outcome State Fault Refusal :=
  .next (s.issueOne 3 (slotMmodeWs g))

/-- R179: Sets the pending Mint mode to result-stationary and queues the switch, which clears the accumulator tile. -/
def slotMmodeRs (g : Guard) : SlotFn := mintSlot g { kind := .mode true } 0
def execMmodeRs (g : Guard) (s : State) : Host.Outcome State Fault Refusal :=
  .next (s.issueOne 3 (slotMmodeRs g))

/-- R180: Queues a load of a latch from a W-buffer tile, with K down the stored columns. -/
def slotMlatch (g : Guard) (fb : Fmt) (l : BitVec 2) (mp : BitVec 3) : SlotFn := mintSlot g { kind := .latch false, fb, l := l.toNat } mp
def execMlatch (g : Guard) (fb : Fmt) (l : BitVec 2) (mp : BitVec 3) (s : State) : Host.Outcome State Fault Refusal :=
  .next (s.issueOne 3 (slotMlatch g fb l mp))

/-- R180: Queues a transposed latch load, with K along the stored rows. -/
def slotMlatchT (g : Guard) (fb : Fmt) (l : BitVec 2) (mp : BitVec 3) : SlotFn := mintSlot g { kind := .latch true, fb, l := l.toNat } mp
def execMlatchT (g : Guard) (fb : Fmt) (l : BitVec 2) (mp : BitVec 3) (s : State) : Host.Outcome State Fault Refusal :=
  .next (s.issueOne 3 (slotMlatchT g fb l mp))

/-- R182: Queues a weight-stationary stream of an A tile from a ring through a latch into the C-buffer. -/
def slotMstream (g : Guard) (fa fb : Fmt) (l : BitVec 2) (mp : BitVec 3) (h : BitVec 4) : SlotFn :=
  mintSlot g { kind := .stream, fa, fb, l := l.toNat, ring := some h } mp
def execMstream (g : Guard) (fa fb : Fmt) (l : BitVec 2) (mp : BitVec 3) (h : BitVec 4) (s : State) : Host.Outcome State Fault Refusal :=
  .next (s.issueOne 3 (slotMstream g fa fb l mp h))

/-- R182: Queues a weight-stationary stream of an A tile read directly from the A-buffer. -/
def slotMstreamD (g : Guard) (fa fb : Fmt) (l : BitVec 2) (mp : BitVec 3) : SlotFn := mintSlot g { kind := .stream, fa, fb, l := l.toNat } mp
def execMstreamD (g : Guard) (fa fb : Fmt) (l : BitVec 2) (mp : BitVec 3) (s : State) : Host.Outcome State Fault Refusal :=
  .next (s.issueOne 3 (slotMstreamD g fa fb l mp))

/-- R183: Queues accumulation of X^T · dY into the accumulator tile, with X from a ring. -/
def slotMouter (g : Guard) (fa fb : Fmt) (mp : BitVec 3) (h : BitVec 4) : SlotFn := mintSlot g { kind := .outer, fa, fb, ring := some h } mp
def execMouter (g : Guard) (fa fb : Fmt) (mp : BitVec 3) (h : BitVec 4) (s : State) : Host.Outcome State Fault Refusal :=
  .next (s.issueOne 3 (slotMouter g fa fb mp h))

/-- R183: Queues accumulation of X^T · dY into the accumulator tile, with X read directly from the A-buffer. -/
def slotMouterD (g : Guard) (fa fb : Fmt) (mp : BitVec 3) : SlotFn := mintSlot g { kind := .outer, fa, fb } mp
def execMouterD (g : Guard) (fa fb : Fmt) (mp : BitVec 3) (s : State) : Host.Outcome State Fault Refusal :=
  .next (s.issueOne 3 (slotMouterD g fa fb mp))

/-- R175: Loads one parameter dword from the W-buffer into a parameter register within the slot. -/
def slotMscale (g : Guard) (mp : BitVec 3) (idx : BitVec 10) : SlotFn :=
  fun b =>
    b.guarded g <|
      let a := mscaleAddr b idx
      match b.bufFault .wb a 8 true with
      | some (c, v) => .fault c v
      | none => .done (b.land 2 (.mp mp) (.dword (leDword (b.bufLoad .wb a 8))))
def execMscale (g : Guard) (mp : BitVec 3) (idx : BitVec 10) (s : State) : Host.Outcome State Fault Refusal :=
  .next (s.issueOne 3 (slotMscale g mp idx))

/-- R186: Queues a drain of C rows with optional statistics and normalisation, quantised to the plain tile and the transposed copy. -/
def slotMdrain (g : Guard) (fa fb : Fmt) (mp : BitVec 3) : SlotFn := mintSlot g { kind := .drain false, fa, fb } mp
def execMdrain (g : Guard) (fa fb : Fmt) (mp : BitVec 3) (s : State) : Host.Outcome State Fault Refusal :=
  .next (s.issueOne 3 (slotMdrain g fa fb mp))

/-- R189: Queues the signature stage on a ring window, producing the map and the representatives only. -/
def slotMsig (g : Guard) (fa : Fmt) (mp : BitVec 3) (h : BitVec 4) : SlotFn := mintSlot g { kind := .sig false, fa, ring := some h } mp
def execMsig (g : Guard) (fa : Fmt) (mp : BitVec 3) (h : BitVec 4) (s : State) : Host.Outcome State Fault Refusal :=
  .next (s.issueOne 3 (slotMsig g fa mp h))

/-- R189: Queues the signature stage on an A-buffer window, producing the map and the representatives only. -/
def slotMsigD (g : Guard) (fa : Fmt) (mp : BitVec 3) : SlotFn := mintSlot g { kind := .sig false, fa } mp
def execMsigD (g : Guard) (fa : Fmt) (mp : BitVec 3) (s : State) : Host.Outcome State Fault Refusal :=
  .next (s.issueOne 3 (slotMsigD g fa mp))

/-- R194: Queues the signature stage on a ring window and streams the representatives through a latch. -/
def slotMsigS (g : Guard) (fa fb : Fmt) (l : BitVec 2) (mp : BitVec 3) (h : BitVec 4) : SlotFn :=
  mintSlot g { kind := .sig true, fa, fb, l := l.toNat, ring := some h } mp
def execMsigS (g : Guard) (fa fb : Fmt) (l : BitVec 2) (mp : BitVec 3) (h : BitVec 4) (s : State) : Host.Outcome State Fault Refusal :=
  .next (s.issueOne 3 (slotMsigS g fa fb l mp h))

/-- R194: Queues the signature stage on an A-buffer window and streams the representatives through a latch. -/
def slotMsigSD (g : Guard) (fa fb : Fmt) (l : BitVec 2) (mp : BitVec 3) : SlotFn := mintSlot g { kind := .sig true, fa, fb, l := l.toNat } mp
def execMsigSD (g : Guard) (fa fb : Fmt) (l : BitVec 2) (mp : BitVec 3) (s : State) : Host.Outcome State Fault Refusal :=
  .next (s.issueOne 3 (slotMsigSD g fa fb l mp))

/-- R197: Queues a drain whose output rows take their C rows through a membership map. -/
def slotMexpand (g : Guard) (fa fb : Fmt) (mp : BitVec 3) : SlotFn := mintSlot g { kind := .drain true, fa, fb } mp
def execMexpand (g : Guard) (fa fb : Fmt) (mp : BitVec 3) (s : State) : Host.Outcome State Fault Refusal :=
  .next (s.issueOne 3 (slotMexpand g fa fb mp))

/-- R198: Queues a fold that sums member rows of a gradient into their representatives. -/
def slotMfold (g : Guard) (fa fb : Fmt) (mp : BitVec 3) : SlotFn := mintSlot g { kind := .fold, fa, fb } mp
def execMfold (g : Guard) (fa fb : Fmt) (mp : BitVec 3) (s : State) : Host.Outcome State Fault Refusal :=
  .next (s.issueOne 3 (slotMfold g fa fb mp))

/-- R184: Queues a write of the accumulator tile to the C-buffer. -/
def slotMspillSt (g : Guard) (mp : BitVec 3) : SlotFn := mintSlot g { kind := .spill false } mp
def execMspillSt (g : Guard) (mp : BitVec 3) (s : State) : Host.Outcome State Fault Refusal :=
  .next (s.issueOne 3 (slotMspillSt g mp))

/-- R184: Queues a load of the accumulator tile from the C-buffer. -/
def slotMspillLd (g : Guard) (mp : BitVec 3) : SlotFn := mintSlot g { kind := .spill true } mp
def execMspillLd (g : Guard) (mp : BitVec 3) (s : State) : Host.Outcome State Fault Refusal :=
  .next (s.issueOne 3 (slotMspillLd g mp))

/-- R184: Queues the clearing of the accumulator tile to +0. -/
def slotMclearAcc (g : Guard) : SlotFn := mintSlot g { kind := .clearAcc } 0
def execMclearAcc (g : Guard) (s : State) : Host.Outcome State Fault Refusal :=
  .next (s.issueOne 3 (slotMclearAcc g))

/-- R184: Queues the reset of a latch's elements, offsets and scale. -/
def slotMclearLatch (g : Guard) (l : BitVec 2) : SlotFn := mintSlot g { kind := .clearLatch, l := l.toNat } 0
def execMclearLatch (g : Guard) (l : BitVec 2) (s : State) : Host.Outcome State Fault Refusal :=
  .next (s.issueOne 3 (slotMclearLatch g l))

/-! ### The Mint's events -/

/-- R168, R169, R171, R188: a queued command starts on its unit. -/
def execMintCommandStart (k id : Nat) (s : State) : Host.Outcome State Fault Refusal :=
  .next (match (s.core k).mint.find id with
    | none => s
    | some (before, c) =>
      if !c.started && c.mayStart (s.core k) before && c.ringReady (s.core k) then
        let c := c.begun (s.core k) s.freeCtr
        let c := { c with early := if c.op.take (s.core k) = .slot then c.changes (s.core k) s.freeCtr else [] }
        { s.modCore k (fun q =>
            { q with mint := { q.mint with queue := q.mint.queue.map fun x => if x.id = id then c else x } }) with
          freeCtr := s.freeCtr + 1 }
      else s)

/-- R170: a started command retires. -/
def execMintCommandRetire (k id : Nat) (s : State) : Host.Outcome State Fault Refusal :=
  .next (match (s.core k).mint.find id with
    | none => s
    | some (_, c) => if c.started then s.mintRetire k c else s)

end Sys2Proof.Machine
end

