-- ==== Sys2Proof/Machine/Issue.lean ====
section
/-! DEFINITION. Issue of bundles: the meaning of every slot instruction, the events of issue, yields, selection and waits
(R32 to R39, R82, R122, R158, R167, R209, R222), stores that perform (R278), records that arrive (R302). -/

namespace Sys2Proof.Machine

/-- What each slot instruction does in its slot. The decoders of the slots answer no other instruction. -/
def slotFn (i : Instr) : SlotFn :=
  match i with
  | .nop => fun b => .done b
  | .add g rd ra rb => slotAdd g rd ra rb
  | .sub g rd ra rb => slotSub g rd ra rb
  | .andR g rd ra rb => slotAndR g rd ra rb
  | .orR g rd ra rb => slotOrR g rd ra rb
  | .xor g rd ra rb => slotXor g rd ra rb
  | .sll g rd ra rb => slotSll g rd ra rb
  | .srl g rd ra rb => slotSrl g rd ra rb
  | .sra g rd ra rb => slotSra g rd ra rb
  | .slt g rd ra rb => slotSlt g rd ra rb
  | .sltu g rd ra rb => slotSltu g rd ra rb
  | .min g rd ra rb => slotMin g rd ra rb
  | .max g rd ra rb => slotMax g rd ra rb
  | .minu g rd ra rb => slotMinu g rd ra rb
  | .maxu g rd ra rb => slotMaxu g rd ra rb
  | .addi g rd ra imm => slotAddi g rd ra imm
  | .andi g rd ra imm => slotAndi g rd ra imm
  | .ori g rd ra imm => slotOri g rd ra imm
  | .xori g rd ra imm => slotXori g rd ra imm
  | .slli g rd ra sh => slotSlli g rd ra sh
  | .srli g rd ra sh => slotSrli g rd ra sh
  | .srai g rd ra sh => slotSrai g rd ra sh
  | .li g rd imm => slotLi g rd imm
  | .lih g rd imm => slotLih g rd imm
  | .mul g rd ra rb => slotMul g rd ra rb
  | .mulh g rd ra rb => slotMulh g rd ra rb
  | .mulhu g rd ra rb => slotMulhu g rd ra rb
  | .div g rd ra rb => slotDiv g rd ra rb
  | .divu g rd ra rb => slotDivu g rd ra rb
  | .rem g rd ra rb => slotRem g rd ra rb
  | .remu g rd ra rb => slotRemu g rd ra rb
  | .clz g rd ra => slotClz g rd ra
  | .ctz g rd ra => slotCtz g rd ra
  | .popc g rd ra => slotPopc g rd ra
  | .sextB g rd ra => slotSextB g rd ra
  | .sextH g rd ra => slotSextH g rd ra
  | .sextW g rd ra => slotSextW g rd ra
  | .zextB g rd ra => slotZextB g rd ra
  | .zextH g rd ra => slotZextH g rd ra
  | .zextW g rd ra => slotZextW g rd ra
  | .cmpEq g pd ra rb => slotCmpEq g pd ra rb
  | .cmpNe g pd ra rb => slotCmpNe g pd ra rb
  | .cmpLt g pd ra rb => slotCmpLt g pd ra rb
  | .cmpLtu g pd ra rb => slotCmpLtu g pd ra rb
  | .cmpGe g pd ra rb => slotCmpGe g pd ra rb
  | .cmpGeu g pd ra rb => slotCmpGeu g pd ra rb
  | .cmpiEq g pd ra imm => slotCmpiEq g pd ra imm
  | .cmpiNe g pd ra imm => slotCmpiNe g pd ra imm
  | .cmpiLt g pd ra imm => slotCmpiLt g pd ra imm
  | .cmpiLtu g pd ra imm => slotCmpiLtu g pd ra imm
  | .cmpiGe g pd ra imm => slotCmpiGe g pd ra imm
  | .cmpiGeu g pd ra imm => slotCmpiGeu g pd ra imm
  | .pand g pd pa pb => slotPand g pd pa pb
  | .por g pd pa pb => slotPor g pd pa pb
  | .pxor g pd pa pb => slotPxor g pd pa pb
  | .pnot g pd pa => slotPnot g pd pa
  | .ldB g rd ra sp imm => slotLdB g rd ra sp imm
  | .ldBs g rd ra sp imm => slotLdBs g rd ra sp imm
  | .ldH g rd ra sp imm => slotLdH g rd ra sp imm
  | .ldHs g rd ra sp imm => slotLdHs g rd ra sp imm
  | .ldW g rd ra sp imm => slotLdW g rd ra sp imm
  | .ldWs g rd ra sp imm => slotLdWs g rd ra sp imm
  | .ldD g rd ra sp imm => slotLdD g rd ra sp imm
  | .stB g rs ra sp imm => slotStB g rs ra sp imm
  | .stH g rs ra sp imm => slotStH g rs ra sp imm
  | .stW g rs ra sp imm => slotStW g rs ra sp imm
  | .stD g rs ra sp imm => slotStD g rs ra sp imm
  | .amoAdd g rd ra rb sc => slotAmoAdd g rd ra rb sc
  | .amoAnd g rd ra rb sc => slotAmoAnd g rd ra rb sc
  | .amoOr g rd ra rb sc => slotAmoOr g rd ra rb sc
  | .amoXor g rd ra rb sc => slotAmoXor g rd ra rb sc
  | .amoMin g rd ra rb sc => slotAmoMin g rd ra rb sc
  | .amoMax g rd ra rb sc => slotAmoMax g rd ra rb sc
  | .amoSwap g rd ra rb sc => slotAmoSwap g rd ra rb sc
  | .amoCas g rd ra rb rc sc => slotAmoCas g rd ra rb rc sc
  | .amoAddW g rd ra rb sc => slotAmoAddW g rd ra rb sc
  | .amoAndW g rd ra rb sc => slotAmoAndW g rd ra rb sc
  | .amoOrW g rd ra rb sc => slotAmoOrW g rd ra rb sc
  | .amoXorW g rd ra rb sc => slotAmoXorW g rd ra rb sc
  | .amoMinW g rd ra rb sc => slotAmoMinW g rd ra rb sc
  | .amoMaxW g rd ra rb sc => slotAmoMaxW g rd ra rb sc
  | .amoSwapW g rd ra rb sc => slotAmoSwapW g rd ra rb sc
  | .amoCasW g rd ra rb rc sc => slotAmoCasW g rd ra rb rc sc
  | .br g off => slotBr g off
  | .call g rd off => slotCall g rd off
  | .jr g ra => slotJr g ra
  | .jalr g rd ra => slotJalr g rd ra
  | .loop g lv ra imm => slotLoop g lv ra imm
  | .lctlRd g rd lv => slotLctlRd g rd lv
  | .lctlBnd g rd lv => slotLctlBnd g rd lv
  | .lctlBrk g lv => slotLctlBrk g lv
  | .csrr g rd csr => slotCsrr g rd csr
  | .csrw g rd ra csr => slotCsrw g rd ra csr
  | .csrs g rd ra csr => slotCsrs g rd ra csr
  | .csrc g rd ra csr => slotCsrc g rd ra csr
  | .erpop g op rd ra => slotErpop g op rd ra
  | .fence g sc => slotFence g sc
  | .drain g sc => slotDrain g sc
  | .trap g imm => slotTrap g imm
  | .brk g imm => slotBrk g imm
  | .eret g => slotEret g
  | .exit g imm => slotExit g imm
  | .rdtime g rd => slotRdtime g rd
  | .rdfeat g rd sel => slotRdfeat g rd sel
  | .vadd a => slotVadd a
  | .vsub a => slotVsub a
  | .vmul a => slotVmul a
  | .vfma a => slotVfma a
  | .vfnma a => slotVfnma a
  | .vmin a => slotVmin a
  | .vmax a => slotVmax a
  | .vabs a => slotVabs a
  | .vneg a => slotVneg a
  | .vaddi a => slotVaddi a
  | .vmuli a => slotVmuli a
  | .vand a => slotVand a
  | .vor a => slotVor a
  | .vxor a => slotVxor a
  | .vshl a => slotVshl a
  | .vshr a => slotVshr a
  | .vsra a => slotVsra a
  | .vcmpEq a => slotVcmpEq a
  | .vcmpNe a => slotVcmpNe a
  | .vcmpLt a => slotVcmpLt a
  | .vcmpLe a => slotVcmpLe a
  | .vcmpGt a => slotVcmpGt a
  | .vcmpGe a => slotVcmpGe a
  | .vcmpUn a => slotVcmpUn a
  | .vsel a => slotVsel a
  | .vcvt a => slotVcvt a
  | .vbscl a => slotVbscl a
  | .vshuf a => slotVshuf a
  | .vbcast a => slotVbcast a
  | .vxmov a => slotVxmov a
  | .vgredAdd a => slotVgredAdd a
  | .vgredMax a => slotVgredMax a
  | .vgredMin a => slotVgredMin a
  | .vrcp a => slotVrcp a
  | .vrsqrt a => slotVrsqrt a
  | .vsqrt a => slotVsqrt a
  | .vexp2 a => slotVexp2 a
  | .vlog2 a => slotVlog2 a
  | .vexp a => slotVexp a
  | .vlog a => slotVlog a
  | .vtanh a => slotVtanh a
  | .vsigm a => slotVsigm a
  | .vdiv a => slotVdiv a
  | .vld a => slotVld a
  | .vst a => slotVst a
  | .vldx a => slotVldx a
  | .vstx a => slotVstx a
  | .vrd a => slotVrd a
  | .vwr a => slotVwr a
  | .qclr a => slotQclr a
  | .qupd a => slotQupd a
  | .qupdW a => slotQupdW a
  | .qmrg a => slotQmrg a
  | .qmrgV a => slotQmrgV a
  | .qred a => slotQred a
  | .qxm a => slotQxm a
  | .qext a => slotQext a
  | .qraw a => slotQraw a
  | .qnorm a => slotQnorm a
  | .qnormA a => slotQnormA a
  | .qld a => slotQld a
  | .qst a => slotQst a
  | .vfclr a => slotVfclr a
  | .vfevclr a => slotVfevclr a
  | .mmodeWs g => slotMmodeWs g
  | .mmodeRs g => slotMmodeRs g
  | .mlatch g fb l mp => slotMlatch g fb l mp
  | .mlatchT g fb l mp => slotMlatchT g fb l mp
  | .mstream g fa fb l mp h => slotMstream g fa fb l mp h
  | .mstreamD g fa fb l mp => slotMstreamD g fa fb l mp
  | .mouter g fa fb mp h => slotMouter g fa fb mp h
  | .mouterD g fa fb mp => slotMouterD g fa fb mp
  | .mscale g mp idx => slotMscale g mp idx
  | .mdrain g fa fb mp => slotMdrain g fa fb mp
  | .msig g fa mp h => slotMsig g fa mp h
  | .msigD g fa mp => slotMsigD g fa mp
  | .msigS g fa fb l mp h => slotMsigS g fa fb l mp h
  | .msigSD g fa fb l mp => slotMsigSD g fa fb l mp
  | .mexpand g fa fb mp => slotMexpand g fa fb mp
  | .mfold g fa fb mp => slotMfold g fa fb mp
  | .mspillSt g mp => slotMspillSt g mp
  | .mspillLd g mp => slotMspillLd g mp
  | .mclearAcc g => slotMclearAcc g
  | .mclearLatch g l => slotMclearLatch g l
  | .wset g _ fld w xa => slotWset g fld w xa
  | .wchk g _ w xd => slotWchk g w xd
  | .dcopyRd g _ ch w xa => slotDcopyRd g ch w xa
  | .dcopyWr g _ ch w xa => slotDcopyWr g ch w xa
  | .dtcopyRd g _ ch w xa xb => slotDtcopyRd g ch w xa xb
  | .dtcopyWr g _ ch w xa xb => slotDtcopyWr g ch w xa xb
  | .dpush g _ ch w h xa => slotDpush g ch w h xa
  | .dpushEos g _ ch h xb => slotDpushEos g ch h xb
  | .dpop g _ ch w h xa => slotDpop g ch w h xa
  | .dstashRd g _ ch w xa => slotDstashRd g ch w xa
  | .dstashWr g _ ch w xa => slotDstashWr g ch w xa
  | .dgather g _ ch w xa xb => slotDgather g ch w xa xb
  | .dscatter g _ ch w xa xb => slotDscatter g ch w xa xb
  | .dscatterComb g _ ch w xa xb => slotDscatterComb g ch w xa xb
  | .tgather g _ ch h xa xb im => slotTgather g ch h xa xb im
  | .tupdate g _ ch xa xb im => slotTupdate g ch xa xb im
  | .tprefetch g _ ch xa xb => slotTprefetch g ch xa xb
  | .xsub g _ ch xa xb => slotXsub g ch xa xb
  | .rdesc g _ h xa xb => slotRdesc g h xa xb
  | .rget g _ xd h half => slotRget g xd h half
  | .dlow g _ xd ch sel => slotDlow g xd ch sel
  | .fwait f c sc => slotFwait f c sc
  | .fpost f c sc => slotFpost f c sc
  | .rwaitC xd h c => slotRwaitC xd h c
  | .rwaitP h c => slotRwaitP h c
  | .radvC h c => slotRadvC h c
  | .radvP h c => slotRadvP h c
  | .radvEos h => slotRadvEos h
  | .dwait ch c sc => slotDwait ch c sc
  | _ => fun _ => .fault .illegalEncoding 0

/-! ### Issue -/

/-- R82: the core issues its running context's next bundle, or does what the boundary before it asks for (R305). -/
def execBundleIssue (k : Nat) (s : State) : Host.Outcome State Fault Refusal := .next (s.issueNext slotFn k false)

/-- The next bundle of the context that core `k` runs is a yield bundle. -/
def State.atYield (s : State) (k : Nat) : Bool :=
  match s.issuer k with
  | none => false
  | some c =>
    match s.fetch k c (s.ctx k c).pc with
    | .ok w => decide ((fld (bundleHead w) 0 2).toNat = 1)
    | _ => false

/-- R36: a yield bundle, or the next fill bundle before it. -/
def execYield (k : Nat) (s : State) : Host.Outcome State Fault Refusal :=
  .next (if s.atYield k then s.issueNext slotFn k false else s)

/-- R39: the results due before the next bundle land. -/
def execResultLands (k : Nat) (s : State) : Host.Outcome State Fault Refusal :=
  .next (match s.issuer k with
    | none => s
    | some c =>
      let x := s.ctx k c
      if x.haltReq || s.recordFirst k c || decide (x.start ≠ 0) || (match x.phase with | .scan _ _ => true | _ => false) then s else s.landDue k)

/-! ### Selection (R37, R299) -/

/-- R37: the yard's ageing limit. -/
def State.yage (s : State) (k : Nat) : Nat := Tab.get 0x1000 (s.die (dieOf k)).disp.yage (k % 48 / 4)

/-- The element of a list with the least measure, the first of equals. -/
def leastBy {α : Type} (f : α → Nat) : List α → Option α
  | [] => none
  | x :: t => match leastBy f t with | none => some x | some y => if f y < f x then some y else some x

/-- R37, R299: the context that runs next; of aged contexts that became READY in one cycle, the one with the lowest number
(DESIGN CHOICE, log entry 10). -/
def State.selectNext (s : State) (k : Nat) : Option Nat :=
  let q := s.core k
  let late := (List.range 8).filter fun c => decide ((q.ctx c).st = .waiting) && (q.ctx c).timedOut
  let ready := (List.range 8).filter fun c => decide ((q.ctx c).st = .ready)
  let old := ready.filter fun c => decide (s.yage k < s.timebase.toNat - (q.ctx c).readyAt)
  match late, leastBy (fun c => (q.ctx c).readyAt) old with
  | c :: _, _ => some c
  | [], some c => some c
  | [], none =>
    let first := match q.lastIssued with | some c => c + 1 | none => 0
    leastBy (fun c => (7 - (q.ctx c).prio.toNat) * 8 + (c + 8 - first) % 8) ready

/-- R301, R302: a selected context takes the fault that the page service declined, or a pending record's trap, before its
first bundle; after an exit the record is held (R141), and a loop skip scan goes on after the handler (R130) (DEDUCED, log
entry 17). -/
def State.selectTrap (s : State) (k c : Nat) : State :=
  let x := s.ctx k c
  match x.declined with
  | some (cause, va) =>
    (s.modCtx k c fun x => { x with declined := none }).enterTrap k c
      { cause, tval := va, epcb := x.pc, slotres := x.start, baddr := x.pc, async := false, slot := x.start, psvc := true }
  | none =>
    if x.phase = .exitFill then s
    else if x.pend then
      (s.recordTrap k c x.pc).modCtx k c fun y =>
        { y with
          slotres := BitVec.ofNat 3 x.start
          split := match x.phase with | .scan lv a => some { pc := a, slot := 0, skip := some lv } | _ => x.split }
    else s

/-- R37: selection; the snapshot of a halted context replays from here (R307) (DESIGN CHOICE, log entry 7). -/
def execContextSelect (k : Nat) (s : State) : Host.Outcome State Fault Refusal :=
  .next (if (s.core k).run.isSome then s
    else
      match s.selectNext k with
      | none => s
      | some c =>
        let s := s.modCtx k c fun x => { x with st := .running, flights := x.flights ++ x.snapshot, snapshot := [] }
        let s := s.modCore k fun q => { q with run := some c, hold := none }
        s.selectTrap k c)

/-! ### Waits -/

/-- The y slot of the bundle at a context's program counter. -/
def State.yInstr (s : State) (k c : Nat) : Option Instr :=
  match s.fetch k c (s.ctx k c).pc with
  | .ok w => (match slotWord w (s.ctx k c) 6 with | some (.ok i) => some i | _ => none)
  | _ => none

/-- The flag and count of a context's parked `fwait` (DEDUCED, log entry 23). -/
def State.parkedFlag (s : State) (k c : Nat) : Option (BitVec 5 × Nat) :=
  match s.yInstr k c with
  | some (.fwait f (.imm n) _) => some (f, n.toNat)
  | some (.fwait f (.reg r) _) => some (f, ((s.ctx k c).readX r).toNat)
  | _ => none

/-- A context parked on a yield wait. -/
def Ctx.waits (x : Ctx) : Bool := decide (x.st = .waiting) && x.parked && !x.timedOut

/-- R32: the waiters on flags that come before a parked context. -/
def State.beforeParked (s : State) (k c : Nat) : List (Option (BitVec 5 × Nat)) :=
  [s.stalledFlag k, (s.hand k .load).stalledFlag, (s.hand k .store).stalledFlag] ++
    (List.range c).map fun i => if (s.ctx k i).waits then s.parkedFlag k i else none

/-- The wait of the bundle at which a context is parked can be satisfied: its y slot does not stall (DEDUCED, log
entry 23). -/
def State.waitMet (s : State) (k c : Nat) : Bool :=
  match s.yInstr k c with
  | none => true
  | some i => !s.yStalls k c [(6, slotFn i)]

/-- R32, R35: the parked wait of a context has become satisfiable; a flag wait takes its count. -/
def execWaitSatisfied (k c : Nat) (s : State) : Host.Outcome State Fault Refusal :=
  .next (if !(s.ctx k c).waits || !s.waitMet k c then s
    else
      match s.parkedFlag k c with
      | none => s.makeReady k c
      | some (f, n) =>
        if rankedFirst (s.core k) f (s.beforeParked k c) then s
        else
          ((s.takeFlag k f n).modCtx k c fun x => { x with taken := some (f, n) }).makeReady k c)

/-- The stall that holds core `k` is one of these; its bundle tries again. -/
def State.retry (s : State) (k : Nat) (p : Hold → Bool) : State :=
  match (s.core k).hold with
  | some h => if p h then s.issueNext slotFn k false else s
  | none => s

/-- R222: a stalled `y` wait completes. -/
def execSyncWaitComplete (k : Nat) (s : State) : Host.Outcome State Fault Refusal :=
  .next (s.retry k fun h => decide (h = .sync) || decide (h = .chan))

/-- R158: a stalled vector ring access proceeds. -/
def execRingAccessResume (k : Nat) (s : State) : Host.Outcome State Fault Refusal :=
  .next (s.retry k fun h => match h with | .ring _ => true | _ => false)

/-- R122: a global access that waited proceeds or faults. -/
def execGlobalAccessComplete (k : Nat) (s : State) : Host.Outcome State Fault Refusal :=
  .next (s.retry k fun h => decide (h = .global))

/-- R167: an entry of the Mint queue is free. -/
def execMintQueueEntryFree (k : Nat) (s : State) : Host.Outcome State Fault Refusal :=
  .next (s.retry k fun h => decide (h = .mintQueue))

/-! ### The watchdog (R33, R299) -/

/-- R33: a wait that began at `t` has passed the limit of its card. -/
def State.overdue (s : State) (card : Card) (t : Nat) : Bool :=
  match card.wdwait with
  | none => false
  | some w => decide (w < s.timebase.toNat - t)

/-- R33: a wait passes the watchdog limit of its card. -/
def execSyncTimeout (who : Waiter) (s : State) : Host.Outcome State Fault Refusal :=
  .next (match who with
    | .core k =>
      (match s.issuer k, (s.core k).hold with
        | some c, some h =>
          if s.overdue (s.cardOf k c) (s.ctx k c).waitAt &&
              (match h with | .sync | .chan | .ring _ => true | _ => false) then s.issueNext slotFn k true
          else s
        | _, _ => s)
    | .parked k c =>
      if (s.ctx k c).waits && s.overdue (s.cardOf k c) (s.ctx k c).waitAt then
        s.modCtx k c fun x => { x with timedOut := true }
      else s
    | .hand k r =>
      let h := s.hand k r
      match h.waitAt with
      | some t => if h.running && s.overdue (s.card (h.card.getD 0)) t then s.handFault k r .syncTimeout h.waitTval else s
      | none => s)

/-- The hand's instruction is a command. -/
def Hand.atCommand (h : Hand) : Option (Nat × Nat × Reg × Reg) :=
  match h.fetch with
  | .ok w =>
    (match decodeH w with
      | .ok (.hDcmd rd rs1) => some (0x03, 0x09, rd, rs1)
      | .ok (.hTcmd rd rs1) => some (0x0A, 0x0D, rd, rs1)
      | _ => none)
  | .error _ => none

/-- R209: an entry of the pool or of the time buffer is free, and the stalled command is accepted. -/
def execTransferPoolFree (who : Waiter) (s : State) : Host.Outcome State Fault Refusal :=
  .next (match who with
    | .core k => s.retry k fun h => decide (h = .pool)
    | .parked _ _ => s
    | .hand k r =>
      match (s.hand k r).atCommand with
      | some (lo, hi, rd, rs1) =>
        { State.handDo { s with focus := .hand k r } 4 (handCommand lo hi rd rs1) with focus := s.focus }
      | none => s)

/-! ### Stores that perform (R278 to R280) -/

/-- R278, R280: committed store `n` of core `k` performs at a scope, after its older stores to the same bytes; in memory, when no
row unit holds its channel (R323) and its domain is awake (R379). -/
def State.performNth (s : State) (k n : Nat) (sc : Scope) : State :=
  match (s.core k).stores[n]? with
  | none => s
  | some p =>
    let pick (x : PStore) : Bool := decide (x.ord ≤ p.ord) && x.meets p.bytes
    if sc = .core then s
    else
      match s.storesWait k (decide (3 ≤ sc.rank)) pick with
      | some w => s.awaitDomain (dieOf k) (some w)
      | none => s.performWhere k (decide (3 ≤ sc.rank)) pick

/-- R278, R279: a global write performs at a scope. -/
def execGlobalStorePerform (sel : StoreSel) (sc : Scope) (s : State) : Host.Outcome State Fault Refusal :=
  .next (match sel with
    | .pending k n => s.performNth k n sc
    | .dirty d a =>
      if sc.rank < 3 then s
      else
        match s.linesWait d [a] with
        | some w => s.awaitDomain d (some w)
        | none => s.cleanLines d [a])

/-- R302: a record reaches its context. -/
def execEngineRecordDelivery (n : Nat) (s : State) : Host.Outcome State Fault Refusal :=
  .next (match s.recQueue[n]? with
    | none => s
    | some (card, k, c, r) => ({ s with recQueue := s.recQueue.eraseIdx n }).deliver card k c r)

end Sys2Proof.Machine
end

