-- ==== Sys2Proof/Machine/Preempt.lean ====
section
/-! DEFINITION. Halt and resume (R306 to R310), eviction (R311, R312), the save area (R313 to R316), teardown (R365). -/

namespace Sys2Proof.Machine

/-! ### Placed contexts (R355) -/

/-- R226: the lowest-numbered context that the card places on a core. -/
def Card.patronCtx (x : Card) : Nat := (bitsOf x.ctxmask 8).headD 0
/-- The kernel has a hand role (R106). -/
def Card.lhand (x : Card) : Bool := x.hdr.getLsbD 249
def Card.shand (x : Card) : Bool := x.hdr.getLsbD 250
/-- R355, R227: the pre-emption class; evict acts as halt with a hand role. -/
def Card.pclass (x : Card) : Nat :=
  let p := ((x.dword 0).extractLsb' 58 2).toNat
  if p = 2 && (x.lhand || x.shand) then 1 else p
def Card.flagmask (x : Card) : Nat := (x.hdr.extractLsb' 256 32).toNat
def Card.ringmask (x : Card) : Nat := (x.hdr.extractLsb' 224 16).toNat

/-- R311, R365: an engine command of the card is still in flight on a core: of context `c`, or of any of its contexts and
hands. -/
def State.engineBusy (s : State) (n k : Nat) (c : Option Nat) : Bool :=
  let q := s.core k
  let mine (x : Nat) : Bool := match c with | some c => decide (x = c) | none => true
  let by_ (i : Issuer) : Bool :=
    match i with
    | .ctx _ x => mine x
    | .hand _ _ _ => c.isNone
    | .entry _ _ _ => false
  q.mint.queue.any (fun m => decide (m.card = n) && mine m.c) ||
    (q.claims.any fun x => match x.mint with
      | some h => h.cmds.any fun m => decide (m.card = n) && mine m.c
      | none => false) ||
    q.transfers.any fun t => decide (t.card = n) && by_ t.by_

/-! ### Halt (R305, R306) -/

/-- R305, R306, R301: a halt that the Dispatcher has requested takes effect; a context in its handler halts after
`eret` (DEDUCED, log entry 36). -/
def execContextHalt (k c : Nat) (s : State) : Host.Outcome State Fault Refusal :=
  .next (let x := s.ctx k c
    if !x.haltReq || x.inHandler then s
    else
      match x.st with
      | .running | .ready | .waiting | .trapped => s.haltNow k c
      | _ => s)

/-! ### The save area (R313) -/

/-- Bytes of a latch: elements, offsets, scale padded to 64 (R313). -/
def latchBytes (x : Latch) : List Byte :=
  ((List.range 128).flatMap fun r => (List.range 256).map fun n => BitVec.ofNat 8 (x.elem r n)) ++
    ((List.range 8).flatMap fun r => (List.range 256).map fun n => BitVec.ofNat 8 (x.off r n)) ++
    leBytes 64 x.scale.toNat
/-- The latch that these bytes hold. -/
def latchOf (l : List Byte) : Latch :=
  { elems := (List.range 128).map fun r => (r, (l.drop (256 * r)).take 256)
    offs := (List.range 8).map fun r => (r, (l.drop (32768 + 256 * r)).take 256)
    scale := leWord ((l.drop 34816).take 4) }
/-- Bytes of the accumulator tile. -/
def accBytes (m : Mint) : List Byte := (List.range 128).flatMap fun r => (m.accRow r).flatMap fun w => leBytes 4 w.toNat
def accOf (l : List Byte) : Tab (List Word) := (List.range 128).map fun r => (r, listWords ((l.drop (1024 * r)).take 1024))
def vregBytes (v : VReg) : List Byte := v.flatMap fun w => leBytes 4 w.toNat
def qregBytes (v : QReg) : List Byte := (flatTriples v).flatMap fun w => leBytes 4 w.toNat

/-- R313: flags, ring descriptors and end-of-stream slots, 512 bytes (DESIGN CHOICE, log entry 35). -/
def sharedBytes (q : Core) : List Byte :=
  ((List.range 32).flatMap fun f => leBytes 4 (q.flag (BitVec.ofNat 5 f))) ++
    ((List.range 16).flatMap fun h => leBytes 16 (q.ring (BitVec.ofNat 4 h)).pack.toNat) ++
    ((List.range 16).flatMap fun h => leBytes 8 (((q.ring (BitVec.ofNat 4 h)).eosSlot).getD (2 ^ 64 - 1)))

/-- A ring from its descriptor and the place of its end-of-stream slot. -/
def ringOf (w : BitVec 128) (e : Nat) : Ring :=
  { buf := (Buf.ofCode (w.extractLsb' 126 2)).getD .wb, base := w.extractLsb' 104 22, slotsz := w.extractLsb' 92 12
    slots := w.extractLsb' 81 11, head := w.extractLsb' 70 11, tail := w.extractLsb' 59 11, fill := w.extractLsb' 47 12
    prod := RingRole.ofCode (w.extractLsb' 44 3), cons := RingRole.ofCode (w.extractLsb' 41 3), pctx := w.extractLsb' 38 3
    cctx := w.extractLsb' 35 3, eosp := w.getLsbD 34, eosc := w.getLsbD 33, valid := w.getLsbD 32
    eosSlot := if e = 2 ^ 64 - 1 then none else some e }

/-- Restores the flags and ring descriptors of the card's masks from the shared part. -/
def Core.unshare (q : Core) (l : List Byte) (fm rm : Nat) : Core :=
  let q := (bitsOf fm 32).foldl (fun q f => { q with flags := Tab.put q.flags f (leNat ((l.drop (4 * f)).take 4)) }) q
  (bitsOf rm 16).foldl (fun q h =>
    q.setRing (BitVec.ofNat 4 h)
      (ringOf (BitVec.ofNat 128 (leNat ((l.drop (128 + 16 * h)).take 16))) (leNat ((l.drop (384 + 8 * h)).take 8)))) q

/-- Bytes at an offset of a context's save area, written by the Save engine in the card's ASID (R336). -/
def State.areaWrite (s : State) (n k c off : Nat) (l : List Byte) : Acc State :=
  let card := s.card n
  s.devWrite (dieOf k) card.asid ((card.saveArea k c).1 + BitVec.ofNat 64 off) l
def State.areaRead (s : State) (n k c off m : Nat) : Acc (List Byte) :=
  let card := s.card n
  s.devRead (dieOf k) card.asid ((card.saveArea k c).1 + BitVec.ofNat 64 off) m

/-! ### Claims by an urgent context (R309, R310) -/

/-- Writes to the halt region of a claim's subject. -/
def State.claimWrite (s : State) (k : Nat) (x : Claim) (off : Nat) (l : List Byte) : State :=
  match (s.ctx k x.c).card with
  | none => s
  | some n =>
    match s.areaWrite n k x.c (haltOffset ((s.card n).saveArea k x.c).2 + off) l with
    | .ok s => s
    | _ => s

/-- R309: the halt region's latches, accumulator and Mint record as card `n` has claimed them; the spec gives the record no
layout (DEDUCED, log entry 22). -/
def State.mintToHalt (s : State) (k n : Nat) : State :=
  match (s.core k).claims.find? (s.claims? k n) with
  | none => s
  | some x =>
    match x.mint with
    | none => s
    | some h =>
      let s := h.latches.foldl (fun s l => s.claimWrite k x (57344 + 34880 * l.1) (latchBytes l.2)) s
      let s := match h.acc with
        | some a => s.claimWrite k x 196864 (accBytes { (s.core k).mint with acc := a })
        | none => s
      let s := s.claimWrite k x 327936 ((List.range 4096).map fun i => Config.freeByte (s.freeCtr * 2 ^ 64 + i))
      { s with freeCtr := s.freeCtr + 1 }

/-- R310: the first `m`-slot command of an urgent context sets the Mint's state aside; its bundle then issues (BUNDLE_ISSUE
attempts it again). -/
def execMintClaim (k : Nat) (s : State) : Host.Outcome State Fault Refusal :=
  .next (match s.issuer k with
    | none => s
    | some c =>
      match (s.ctx k c).card with
      | none => s
      | some n =>
        if (s.core k).hold = some .claim && s.mintUnclaimed k n then
          ((s.mintScanOut k n ((s.cardOf k c).hdr.extractLsb' 120 4).toNat).mintToHalt k n).modCore k fun q => { q with hold := none }
        else s)

/-- R309: flags and ring descriptors in both masks join a claim; those that it holds already stay. -/
def Claim.share (x : Claim) (q : Core) (fm rm : Nat) : Claim :=
  { x with
    flags := x.flags ++ ((bitsOf fm 32).filter fun f => !Tab.has x.flags f).map fun f => (f, q.flag (BitVec.ofNat 5 f))
    rings := x.rings ++ ((bitsOf rm 16).filter fun h => !Tab.has x.rings h).map fun h => (h, q.ring (BitVec.ofNat 4 h)) }

/-- R309: the launch of an urgent card claims the flags and ring descriptors in both cards' masks, of every subject that it
outranks. -/
def State.claimShared (s : State) (n k : Nat) : State :=
  let u := s.card n
  let q := s.core k
  let meets (x : Claim) : Bool :=
    let p := s.cardOf k x.c
    s.claims? k n x && (decide (u.flagmask &&& p.flagmask ≠ 0) || decide (u.ringmask &&& p.ringmask ≠ 0))
  let s' := (q.claims.filter meets).foldl (fun s x => s.claimWrite k x 332032 (sharedBytes q)) s
  s'.modCore k fun q' =>
    { q' with
      claims := q'.claims.map fun x =>
        let p := s.cardOf k x.c
        if meets x then x.share q (u.flagmask &&& p.flagmask) (u.ringmask &&& p.ringmask) else x }

/-- R309, R310: the Save engine restores what a claim holds. -/
def Core.giveClaim (q : Core) (x : Claim) : Core :=
  let q := x.rings.foldl (fun q (y : Nat × Ring) => q.setRing (BitVec.ofNat 4 y.1) y.2) q
  { q with
    v := x.v, q := x.q, flags := x.flags.foldl (fun t (y : Nat × Nat) => Tab.put t y.1 y.2) q.flags
    mint := match x.mint with | some h => q.mint.restore h | none => q.mint }

/-- R309: the claims of card `n`'s subject on a core are restored and end (DEDUCED, log entry 36). -/
def State.unclaim (s : State) (k n : Nat) : State :=
  let (mine, rest) := (s.core k).claims.partition fun x => decide ((s.ctx k x.c).card = some n)
  s.modCore k fun q => { mine.foldl Core.giveClaim q with claims := rest }

/-- R364: no context of an urgent card that outranks card `n` remains on a core, halted itself or not, and no Mint command of
one (DEDUCED, log entry 36). -/
def State.urgentGone (s : State) (k n : Nat) : Bool :=
  let q := s.core k
  let outranks (m : Nat) : Bool := decide ((s.card n).rank < (s.card m).rank)
  q.ctxs.all (fun (_, x) =>
    match x.card with
    | some m => !outranks m || decide (x.st = .idle)
    | none => true) &&
    q.mint.queue.all fun m => !outranks m.card

/-- R306, R309, R364: the Dispatcher resumes a halted context: the claims on its core are restored and it becomes READY, its
snapshot to replay. One that still waits for the page service stays HALTED (R301). -/
def execContextResume (k c : Nat) (s : State) : Host.Outcome State Fault Refusal :=
  .next (let x := s.ctx k c
    let n := x.card.getD 0
    if x.st = .halted && !x.evicted && !x.restoring && !x.owed && s.urgentGone k n then
      ((s.unclaim k n).modCtx k c fun x => { x with server := .none }).makeReady k c
    else s)

/-! ### Eviction (R311) -/

/-- R311: the boundary of a checkpoint at which the running context's eviction request is set (DEDUCED, log entry 37). -/
def execEviction (k : Nat) (s : State) : Host.Outcome State Fault Refusal :=
  .next (match s.issuer k with
    | none => s
    | some c =>
      let x := s.ctx k c
      if x.ckFill && x.evictReq && !x.haltReq then
        (match s.boundary k c with
          | .stop s => s
          | .go _ => s)
      else s)

/-! ### Saving (R313 to R315) -/

/-- R109: fields of a checkpoint entry. -/
def ckVmask (e : BitVec 256) : Nat := (e.extractLsb' 0 64).toNat
def ckQmask (e : BitVec 256) : Nat := (e.extractLsb' 64 16).toNat
def ckLmask (e : BitVec 256) : Nat := (e.extractLsb' 80 4).toNat
def ckRsacc (e : BitVec 256) : Bool := e.getLsbD 84
def ckNrange (e : BitVec 256) : Nat := (e.extractLsb' 96 8).toNat
def ckRangeoff (e : BitVec 256) : Nat := (e.extractLsb' 128 32).toNat
def ckSavesz (e : BitVec 256) : Nat := (e.extractLsb' 160 32).toNat

/-- R110: a range: buffer, start, length. -/
def ckRange (w : Dword) : Buf × Nat × Nat :=
  ((Buf.ofCode (w.extractLsb' 62 2)).getD .wb, (w.extractLsb' 40 22).toNat, (w.extractLsb' 18 22).toNat)

/-- The checkpoint entry at which a card's context stopped, and its ranges, read from the kernel image. -/
def State.ckEntry (s : State) (n k ix : Nat) : Acc (BitVec 256 × List (Buf × Nat × Nat)) :=
  let card := s.card n
  let base := card.kernel + BitVec.ofNat 64 (card.hdr.extractLsb' 448 32).toNat
  let rd (off m : Nat) : Acc (List Byte) := s.devRead (dieOf k) card.asid (base + BitVec.ofNat 64 off) m
  (rd (32 * ix) 32).bind fun b =>
    let e := BitVec.ofNat 256 (leNat b)
    (rd (ckRangeoff e) (8 * ckNrange e)).bind fun l => .ok (e, (bytesDwords l).map ckRange)

/-- R314: the header's dwords; dword 0 apart. -/
def saveHead (card : Card) (x : Ctx) (k c : Nat) (e : BitVec 256) (shared : Bool) : List Dword :=
  [BitVec.ofNat 64 (ckSavesz e * 2 ^ 32 + x.ckix.toNat * 2 ^ 24 + (if shared then 2 ^ 16 else 0) + k * 16 + c), card.kernel,
    BitVec.ofNat 64 (x.lost * 32 + (if x.pend then 16 else 0) + x.records.length), 0, 0, 0, 0]
/-- R314: dword 0. -/
def saveWord0 (valid : Bool) : Dword := BitVec.ofNat 64 (0x5653564A * 2 ^ 32 + 2 ^ 24 + if valid then 1 else 0)

/-- R127: a loop record. -/
def LoopRec.pack (r : LoopRec) : BitVec 128 := bit1 r.act ++ (0 : BitVec 16) ++ r.start ++ r.bound ++ r.count
def loopOf (w : BitVec 128) : LoopRec :=
  { act := w.getLsbD 127, start := w.extractLsb' 64 47, bound := w.extractLsb' 32 32, count := w.extractLsb' 0 32 }

/-- The predicates as a byte. -/
def Ctx.predWord (x : Ctx) : Nat := 1 + (List.range 8).foldl (fun a p => a + if p ≠ 0 ∧ Tab.get false x.p p then 2 ^ p else 0) 0

def Window.bytes (w : Window) : List Byte := leBytes 8 w.base ++ leBytes 8 w.limit
def windowOf (l : List Byte) : Window := { base := leNat (l.take 8), limit := leNat ((l.drop 8).take 8) }

/-- R313: the fixed state, 1,024 bytes (DESIGN CHOICE, log entry 35). -/
def fixedBytes (x : Ctx) (m : MintMode) : List Byte :=
  let l :=
    ((List.range 32).flatMap fun r => leBytes 8 (if r = 0 then 0 else (Tab.get 0 x.x r).toNat)) ++
      leBytes 8 x.pc.toNat ++ leBytes 8 x.cstat.toNat ++ leBytes 8 x.fpcr.toNat ++ leBytes 8 x.fflags.toNat ++
      leBytes 8 x.fevr.toNat ++ leBytes 8 x.predWord ++
      ((List.range 8).flatMap fun r => leBytes 8 (Tab.get 0 x.mp r).toNat) ++
      ((List.range 6).flatMap fun r => leBytes 16 (x.loop (BitVec.ofNat 3 r)).pack.toNat) ++
      ((List.range 4).flatMap fun r => leBytes 96 (Tab.get 0 x.w r).toNat) ++
      leBytes 8 (match m with | .ws => 0 | .rs => 1) ++ x.wwin.bytes ++ x.awin.bytes ++ x.cwin.bytes
  l ++ List.replicate (1024 - l.length) 0

/-- R313: the checkpoint part. -/
def ckBytes (q : Core) (e : BitVec 256) (ranges : List (Buf × Nat × Nat)) : List Byte :=
  ((bitsOf (ckVmask e) 64).flatMap fun r => vregBytes (q.vreg (BitVec.ofNat 6 r))) ++
    ((bitsOf (ckQmask e) 16).flatMap fun r => qregBytes (q.qreg (BitVec.ofNat 4 r))) ++
    ((bitsOf (ckLmask e) 4).flatMap fun r => latchBytes (q.mint.latch r)) ++
    (if ckRsacc e then accBytes q.mint else []) ++
    ranges.flatMap fun r => q.readBuf r.1 r.2.1 r.2.2

/-- R313, R315 step 3: everything of a save but its header. -/
def State.saveBody (s : State) (n k c : Nat) (shared : Bool) (e : BitVec 256) (ranges : List (Buf × Nat × Nat)) : Acc State :=
  let x := (s.ctx k c).landMint
  let q := s.core k
  let recs := x.records.flatMap fun r => r.dwords.flatMap fun w => leBytes 8 w.toNat
  (s.areaWrite n k c 64 ((List.range 512).flatMap fun i => leBytes 32 (x.vcwEntry (BitVec.ofNat 9 i)).toNat)).bind fun s =>
    (s.areaWrite n k c 16448 (fixedBytes x q.mint.mode)).bind fun s =>
      (s.areaWrite n k c 17472 (recs ++ List.replicate (512 - recs.length) 0)).bind fun s =>
        (if shared then s.areaWrite n k c 17984 (sharedBytes q) else .ok s).bind fun s =>
          s.areaWrite n k c 18496 (ckBytes q e ranges)

/-- R315 step 2: dword 0 of the save area with VALID = 0. -/
def State.saveBegun (s : State) (n k c : Nat) : Acc State := s.areaWrite n k c 0 (dwordBytes (saveWord0 false))

/-- R315 steps 2 to 5. -/
def State.saveAll (s : State) (n k c : Nat) (e : BitVec 256) (ranges : List (Buf × Nat × Nat)) : Acc State :=
  let card := s.card n
  let shared := decide (c = card.patronCtx)
  (s.saveBegun n k c).bind fun s =>
    (s.areaWrite n k c 8 ((saveHead card (s.ctx k c) k c e shared).flatMap dwordBytes)).bind fun s =>
      (s.saveBody n k c shared e ranges).bind fun s =>
        match s.storesWait k true fun p => decide (p.c = c) with
        | some w => .wait (some w)
        | none =>
          (s.performWhere k true fun p => decide (p.c = c)).areaWrite n k c 0 (dwordBytes (saveWord0 true))

/-- R315: the Save engine may begin: the context's commands have completed, and a patron waits for its card's other contexts
on the core (R312) (DEDUCED, log entry 37). -/
def State.saveReady (s : State) (n k c : Nat) : Bool :=
  let card := s.card n
  !s.engineBusy n k (some c) &&
    (decide (c ≠ card.patronCtx) || (bitsOf card.ctxmask 8).all fun c' => !s.holdsCtx n k c' || decide (c' = c) || (s.ctx k c').evicted)

/-- R315: the context stays HALTED, its save failed; the event gives the address of a fault. -/
def State.saveFails (s : State) (k c : Nat) (va : Option Dword) : State :=
  (s.modCtx k c fun x => { x with saveFailed := true }).event (dieOf k) 3 (some k) va none

/-- R315: a saved context is IDLE; with the last of its card's contexts the card is evicted. -/
def State.saveDone (s : State) (n k c : Nat) : State :=
  let s := s.setCtx k c {}
  (s.modCard n fun y => { y with saved := y.saved ++ [(k, c)] }).evictedIfOut n

/-- R311, R315: saves an evicted context. -/
def State.saveNow (s : State) (k c : Nat) : State :=
  let x := s.ctx k c
  match x.card with
  | none => s
  | some n =>
    if !(x.st = .halted && x.evicted) || !s.saveReady n k c then s
    else
      let stop (s : State) (v : Dword) : State :=
        match s.saveBegun n k c with
        | .ok s => s.saveFails k c (some v)
        | _ => s.saveFails k c (some v)
      match s.ckEntry n k x.ckix.toNat with
      | .ok (e, ranges) =>
        if ((s.card n).saveArea k c).2 < ckSavesz e then s.saveFails k c none
        else
          (match s.saveAll n k c e ranges with
            | .ok s => s.saveDone n k c
            | .fault _ v => stop s v
            | .page _ v => stop s v
            | .wait d => s.awaitDomain (dieOf k) d)
      | .fault _ v => s.saveFails k c (some v)
      | .page _ v => s.saveFails k c (some v)
      | .wait d => s.awaitDomain (dieOf k) d

/-- R311, R315: the Save engine writes the save area of an evicted context. -/
def execSave (k c : Nat) (s : State) : Host.Outcome State Fault Refusal :=
  .next (if (s.ctx k c).saveFailed then s else s.saveNow k c)

/-- R315: after a failed save, the driver asks for a retry, or for the context to go on in place. -/
def execSaveRetry (k c : Nat) (resume : Bool) (s : State) : Host.Outcome State Fault Refusal :=
  .next (let x := s.ctx k c
    if !x.saveFailed then s
    else
      let s := s.modCtx k c fun x => { x with saveFailed := false }
      if resume then (s.modCtx k c fun x => { x with evicted := false }).makeReady k c else s.saveNow k c)

/-! ### Restoring (R316) -/

/-- R316 step 1: the header fits the card, the placement and the checkpoint. -/
def State.headOk (s : State) (n k c : Nat) (h : List Dword) (e : BitVec 256) : Bool :=
  let card := s.card n
  let w1 := dw h 1
  decide (dw h 0 = saveWord0 true) && decide ((w1.extractLsb' 4 7).toNat = k) && decide ((w1.extractLsb' 0 3).toNat = c) &&
    decide (dw h 2 = card.kernel) && decide ((w1.extractLsb' 24 8).toNat < card.ckcnt) &&
    decide ((w1.extractLsb' 32 32).toNat = ckSavesz e)

/-- Every cause (R293). -/
def causes : List Cause :=
  [.illegalEncoding, .reservedField, .featureNotAccepted, .privilege, .bundleMisaligned, .bundleKind, .fetchOutsideCode,
    .bufferBounds, .bufferPermission, .ringProtocol, .syncTimeout, .translationFault, .pagePermission, .cowWrite, .pageAbsent,
    .indexRange, .fpTrap, .windowRecordReserved, .memoryError, .breakpoint, .softwareTrap, .doubleFault, .scaleAlignment,
    .latchMode, .remoteError]

/-- R302, R314: a record from its eight dwords. -/
def recOf (l : List Dword) : EngRec :=
  let w := dw l 0
  { cause := (causes.find? fun c => decide (c.code = (w.extractLsb' 0 8).toNat)).getD .remoteError, trap := w.getLsbD 8
    src := w.extractLsb' 9 3, ch := w.extractLsb' 12 4, id := dw l 1, baddr := dw l 2, pay := (l.drop 3).take 4 }

/-- R316 step 2: a context from its header, VCW table, fixed state and records. What the save area does not hold of it (the
handler's registers and the trap registers) is open (DESIGN CHOICE, log entry 35). -/
def ctxOf (n occ : Nat) (h : List Dword) (vcw fix recs : List Byte) : Ctx :=
  let d (o : Nat) : Dword := leDword ((fix.drop o).take 8)
  let cs := d 264
  let w3 := dw h 3
  let free (i : Nat) : Dword := Config.freeDword (occ * 2 ^ 64 + i)
  { x := (List.range 31).map fun i => (i + 1, d (8 * (i + 1)))
    p := (List.range 7).map fun i => (i + 1, (d 296).getLsbD (i + 1))
    loops := (List.range 6).map fun i => (i, loopOf (BitVec.ofNat 128 (leNat ((fix.drop (368 + 16 * i)).take 16))))
    w := (List.range 4).map fun i => (i, BitVec.ofNat 768 (leNat ((fix.drop (464 + 96 * i)).take 96)))
    mp := (List.range 8).map fun i => (i, d (304 + 8 * i))
    fpcr := (d 272).setWidth 32, fflags := d 280, fevr := d 288, pc := d 256, prio := cs.extractLsb' 21 3
    wconf := cs.getLsbD 16, slotres := cs.extractLsb' 0 3
    vcw := (List.range 512).map fun i => (i, BitVec.ofNat 256 (leNat ((vcw.drop (32 * i)).take 32)))
    wwin := windowOf (fix.drop 856), awin := windowOf (fix.drop 872), cwin := windowOf (fix.drop 888)
    records := ((List.range (w3.extractLsb' 0 4).toNat).map fun i => recOf (bytesDwords ((recs.drop (64 * i)).take 64)))
    pend := w3.getLsbD 4, lost := (w3.extractLsb' 5 8).toNat, card := some n, st := .halted, restoring := true, restored := true
    ckix := (dw h 1).extractLsb' 24 8
    cause := free 0 &&& 0x1FF, epcb := free 1 &&& ~~~31, tval := free 2, tinfo := free 3 &&& 0x000FFFFFFFFFFFF7, dcause := 0
    depc := free 5, hscr0 := free 6, hscr1 := free 7, shx := (List.range 31).map fun i => (i + 1, free (8 + i))
    shp := (List.range 7).map fun i => (i + 1, (free 40).getLsbD i) }

/-- R316 step 2: the checkpoint part back to its places. -/
def Core.ckRestore (q : Core) (e : BitVec 256) (ranges : List (Buf × Nat × Nat)) (l : List Byte) : Core :=
  let (q, l) := (bitsOf (ckVmask e) 64).foldl (fun (a : Core × List Byte) r =>
    ({ a.1 with v := Tab.put a.1.v r (listWords (a.2.take 512)) }, a.2.drop 512)) (q, l)
  let (q, l) := (bitsOf (ckQmask e) 16).foldl (fun (a : Core × List Byte) r =>
    ({ a.1 with q := Tab.put a.1.q r (wordTriples (listWords (a.2.take 1536))) }, a.2.drop 1536)) (q, l)
  let (q, l) := (bitsOf (ckLmask e) 4).foldl (fun (a : Core × List Byte) r =>
    ({ a.1 with mint := { a.1.mint with latches := Tab.put a.1.mint.latches r (latchOf a.2) } }, a.2.drop 34880)) (q, l)
  let (q, l) := if ckRsacc e then ({ q with mint := { q.mint with acc := accOf l } }, l.drop 131072) else (q, l)
  (ranges.foldl (fun (a : Core × List Byte) r => (a.1.writeBuf r.1 r.2.1 (a.2.take r.2.2), a.2.drop r.2.2)) (q, l)).1

/-- R316: the state after the restore of a context; none where step 1 fails. -/
def State.restoreAll (s : State) (n k c : Nat) : Acc (Option State) :=
  (s.areaRead n k c 0 64).bind fun hb =>
    let h := bytesDwords hb
    if (s.card n).ckcnt ≤ ((dw h 1).extractLsb' 24 8).toNat then .ok none
    else
      (s.ckEntry n k ((dw h 1).extractLsb' 24 8).toNat).bind fun (e, ranges) =>
        if !s.headOk n k c h e then .ok none
        else
          (s.areaRead n k c 64 16384).bind fun vcw =>
            (s.areaRead n k c 16448 1024).bind fun fix =>
              (s.areaRead n k c 17472 512).bind fun recs =>
                (s.areaRead n k c 17984 512).bind fun sh =>
                  (s.areaRead n k c 18496 (ckSavesz e - 18496)).bind fun ck =>
                    (s.areaWrite n k c 0 (dwordBytes (saveWord0 false))).bind fun s =>
                      let card := s.card n
                      let s := s.modCore k fun q =>
                        let q := q.ckRestore e ranges ck
                        let q := { q with mint := { q.mint with
                          mode := if (fix.getD 848 0) = 0 then .ws else .rs, pending := if (fix.getD 848 0) = 0 then .ws else .rs } }
                        if (dw h 1).getLsbD 16 then q.unshare sh card.flagmask card.ringmask else q
                      let s := s.setCtx k c (ctxOf n s.freeCtr h vcw fix recs)
                      .ok (some { s with freeCtr := s.freeCtr + 1 })

/-- R316 step 4: the contexts of a card become READY when all of them have been restored; none does before. -/
def State.resumeCard (s : State) (n : Nat) : State :=
  let l := (s.card n).placed.filter fun (k, c) => s.holdsCtx n k c && (s.ctx k c).restoring
  if l.all fun (k, c) => (s.ctx k c).restored then
    l.foldl (fun s (k, c) => (s.modCtx k c fun x => { x with restoring := false, restored := false }).makeReady k c) s
  else s

/-- R316: a context of a card that has been launched again is restored; a failure leaves the card unresumed and is reported. -/
def execRestore (k c : Nat) (s : State) : Host.Outcome State Fault Refusal :=
  .next (let x := s.ctx k c
    match x.card with
    | none => s
    | some n =>
      if !x.restoring || x.restored then s
      else
        match s.restoreAll n k c with
        | .ok (some s) => s.resumeCard n
        | .ok none => s.event (dieOf k) 3 (some k) none none
        | .fault _ v => s.event (dieOf k) 3 (some k) (some v) none
        | .page _ v => s.event (dieOf k) 3 (some k) (some v) none
        | .wait d => s.awaitDomain (dieOf k) d)

/-! ### Teardown (R365) -/

/-- R365: a context that explains a card's failure: STATUS 2 for a double fault, 1 for an exit from the handler. -/
def State.failStatus (s : State) (n : Nat) : Nat :=
  let card := s.card n
  card.placed.foldl (fun a (k, c) =>
    if a ≠ 0 then a
    else if s.holdsCtx n k c && decide ((s.ctx k c).st = .stopped) then 2
    else if card.kept.any fun y => decide (y.1 = k) && decide (y.2.1 = c) && y.2.2.faultExit then 1
    else 0) 0

/-- R365: halts and clears a context. -/
def State.tearCtx (s : State) (n k c : Nat) : State :=
  if !s.holdsCtx n k c then s
  else
    let s := (s.giveBack k c).modCtx k c fun x =>
      { x with
        st := .idle, server := .none, flights := [], snapshot := [], phase := .normal, ckFill := false, start := 0, parked := false
        taken := none, timedOut := false, haltReq := false, evictReq := false, evicted := false, restoring := false, restored := false, owed := false
        split := none, mintEvs := [] }
    let x := s.ctx k c
    let s := s.modCard n fun y => { y with kept := y.kept ++ [(k, c, x)] }
    let s := s.modCore k fun q => if q.run = some c then { q with run := none, hold := none } else q
    let (mine, rest) := (s.core k).claims.partition fun y => decide (y.c = c)
    s.modCore k fun q =>
      { q with
        claims := rest
        mint := mine.foldl (fun m y => match y.mint with | some h => m.restore h | none => m) q.mint }

/-- Stops a hand of the card. -/
def Hand.stopFor (h : Hand) (n : Nat) : Hand := if h.running && decide (h.card = some n) then { h with running := false } else h

/-- R365: firmware tears down a card that has failed. -/
def execTeardown (card : Nat) (s : State) : Host.Outcome State Fault Refusal :=
  .next (let y := s.card card
    let st := if y.status ≠ 0 then y.status else s.failStatus card
    if st = 0 || y.torn || !(decide (y.st = .running) || decide (y.st = .evicted)) then s
    else
      let s := s.setCard card { y with status := st, torn := true, st := .running }
      let s := y.placed.foldl (fun s (k, c) => s.tearCtx card k c) s
      let s := s.modCard card fun z => { z with kept := z.kept ++ z.saved.map fun (k, c) => (k, c, {}), saved := [] }
      y.coresOf.foldl (fun s k =>
        s.modCore k fun q => { q with loadHand := q.loadHand.stopFor card, storeHand := q.storeHand.stopFor card }) s)

end Sys2Proof.Machine
end

