-- ==== Sys2Proof/Machine/Image.lean ====
section
/-! DEFINITION. The checks of a kernel image at launch: its parts (R105 to R111, R241) and its paths (R358). -/

namespace Sys2Proof.Machine

/-! ### The header and the parts (R105, R106) -/

/-- A field of a header. -/
def hf (h : BitVec 512) (lo len : Nat) : Nat := (h.extractLsb' lo len).toNat

def hdrMagic (h : BitVec 512) : Nat := hf h 0 32
def hdrVersion (h : BitVec 512) : Nat := hf h 32 16
def hdrSize (h : BitVec 512) : Nat := hf h 48 16
def hdrCodesz (h : BitVec 512) : Nat := hf h 64 32
def hdrXregs (h : BitVec 512) : Nat := hf h 96 8
def hdrVregs (h : BitVec 512) : Nat := hf h 104 8
def hdrQregs (h : BitVec 512) : Nat := hf h 112 8
/-- WBUFSZ, ABUFSZ, CBUFSZ. -/
def hdrBufsz (h : BitVec 512) (b : Buf) : Nat := hf h (128 + 32 * b.num) 32
def hdrContexts (h : BitVec 512) : Nat := hf h 240 8
/-- The role bits: load hand, store hand, row program. -/
def hdrRole (h : BitVec 512) (i : Nat) : Bool := h.getLsbD (249 + i)
def hdrFeat (h : BitVec 512) : Dword := h.extractLsb' 320 64
def hdrVcwoff (h : BitVec 512) : Nat := hf h 384 32
def hdrVcwcnt (h : BitVec 512) : Nat := hf h 416 16
def hdrCkcnt (h : BitVec 512) : Nat := hf h 432 16
def hdrCkoff (h : BitVec 512) : Nat := hf h 448 32
def hdrRoleoff (h : BitVec 512) : Nat := hf h 480 32

def bufs : List Buf := [.wb, .ab, .cb]

/-- R106: the header's own fields. -/
def hdrOk (h : BitVec 512) : Bool :=
  let roles := hdrRole h 0 || hdrRole h 1 || hdrRole h 2
  decide (hdrMagic h = 0x314B564A) && decide (hdrVersion h = 1) && decide (hdrSize h = 64) &&
    decide (hf h 124 4 = 0) && decide (hf h 252 4 = 0) && decide (hf h 290 6 = 0) && decide (hf h 304 16 = 0) &&
    decide (hdrCodesz h ≠ 0) && decide (hdrCodesz h % 32 = 0) &&
    decide (1 ≤ hdrXregs h) && decide (hdrXregs h ≤ 32) && decide (hdrVregs h ≤ 64) && decide (hdrQregs h ≤ 16) &&
    (bufs.all fun b => decide (hdrBufsz h b % 4096 = 0) && decide (hdrBufsz h b ≤ b.size)) &&
    decide (1 ≤ hdrContexts h) && decide (hdrContexts h ≤ 8) && h.getLsbD 248 && (hdrFeat h).getLsbD 0 &&
    decide (hdrVcwoff h % 32 = 0) && decide (64 + hdrCodesz h ≤ hdrVcwoff h) &&
    decide (1 ≤ hdrVcwcnt h) && decide (hdrVcwcnt h ≤ 512) && decide (hdrCkcnt h ≤ 256) &&
    decide (hdrCkoff h % 32 = 0) && (decide (hdrCkcnt h ≠ 0) || decide (hdrCkoff h = 0)) &&
    decide (hdrRoleoff h % 16 = 0) && decide (roles = decide (hdrRoleoff h ≠ 0))

/-- A part of an image: offset and size. -/
abbrev Part := Nat × Nat

/-- Two parts that share a byte. -/
def Part.meets (p q : Part) : Bool :=
  decide (p.2 ≠ 0) && decide (q.2 ≠ 0) && decide (p.1 < q.1 + q.2) && decide (q.1 < p.1 + p.2)

/-- No two parts share a byte. -/
def apart : List Part → Bool
  | [] => true
  | p :: t => (t.all fun q => !p.meets q) && apart t

/-- R108, R111, R91: the VCW table: entry 0 all zero, no reserved field of another set, a field that its operation does not
use included (DEDUCED, log entry 33). -/
def vcwOk (l : List (BitVec 256)) : Bool :=
  decide (l.headD 0 = 0) && l.all fun e => !vcwUnused e

/-- R110: a range. -/
def rangeOk (w : Dword) : Bool :=
  let (b, a, n) := ckRange w
  decide (w.extractLsb' 62 2 ≠ 3) && decide (w.extractLsb' 0 18 = 0) && decide (a % 64 = 0) && decide (n ≠ 0) &&
    decide (n % 64 = 0) && decide (a + n ≤ b.size)

/-- R313: SAVESZ of an entry with these range words. -/
def saveNeed (e : BitVec 256) (l : List Dword) : Nat :=
  18496 + 512 * (bitsOf (ckVmask e) 64).length + 1536 * (bitsOf (ckQmask e) 16).length +
    34880 * (bitsOf (ckLmask e) 4).length + (if ckRsacc e then 131072 else 0) + (l.map fun w => (ckRange w).2.2).sum

/-- R109: an entry of a table of `n`, with its range words. -/
def ckOk (n : Nat) (e : BitVec 256) (l : List Dword) : Bool :=
  decide (e.extractLsb' 192 64 = 0) && decide (e.extractLsb' 104 24 = 0) && decide (e.extractLsb' 85 11 = 0) &&
    decide (ckRangeoff e % 8 = 0) && (decide (ckNrange e = 0) || decide (32 * n ≤ ckRangeoff e)) && l.all rangeOk &&
    decide (ckSavesz e = saveNeed e l)

/-- R107: fields of a role table entry. -/
def roleIoff (r : BitVec 128) : Nat := (r.extractLsb' 0 32).toNat
def roleIsz (r : BitVec 128) : Nat := (r.extractLsb' 32 32).toNat
def roleDoff (r : BitVec 128) : Nat := (r.extractLsb' 64 32).toNat
def roleDsz (r : BitVec 128) : Nat := (r.extractLsb' 96 32).toNat

/-- R107: entry `i` of the role table. -/
def roleOk (h : BitVec 512) (i : Nat) (r : BitVec 128) : Bool :=
  if i = 3 || !hdrRole h i then decide (r = 0)
  else if i = 2 then decide (roleDsz r = 0) && decide (roleIsz r % 8 = 0) && decide (roleIsz r ≤ 8192)
  else decide (roleDsz r ≤ 32768) && decide (roleIsz r % 2 = 0) && decide (roleIsz r ≤ 65536)

/-- R241: a word of a row image of `n` words. -/
def rowWordOk (n : Nat) (w : Dword) : Bool :=
  match decodeRow w with
  | .error _ => false
  | .ok (.rowNext l) => decide (l.toNat < n)
  | .ok (.rowBr l) => decide (l.toNat < n)
  | .ok (.rowLoop a l) => decide (l.toNat < n) && decide (a ≠ 0)
  | .ok _ => true

/-! ### Reading an image -/

/-- Bytes of a card's image, in the card's ASID. -/
def State.imgRead (s : State) (d : Nat) (asid : BitVec 16) (kernel : Dword) (p : Part) : Acc (List Byte) :=
  if p.2 = 0 then .ok [] else s.devRead d asid (kernel + BitVec.ofNat 64 p.1) p.2

def State.hdrRead (s : State) (d : Nat) (asid : BitVec 16) (kernel : Dword) : Acc (BitVec 512) :=
  (s.imgRead d asid kernel (0, 64)).bind fun b => .ok (BitVec.ofNat 512 (leNat b))

def State.codeRead (s : State) (d : Nat) (asid : BitVec 16) (kernel : Dword) (h : BitVec 512) : Acc (List (BitVec 256)) :=
  (s.imgRead d asid kernel (64, hdrCodesz h)).bind fun b => .ok ((pieces 32 b.length b).map fun x => BitVec.ofNat 256 (leNat x))

def State.vcwRead (s : State) (d : Nat) (asid : BitVec 16) (kernel : Dword) (h : BitVec 512) : Acc (List (BitVec 256)) :=
  (s.imgRead d asid kernel (hdrVcwoff h, 32 * hdrVcwcnt h)).bind fun b =>
    .ok ((pieces 32 b.length b).map fun x => BitVec.ofNat 256 (leNat x))

/-- The checkpoint entries. -/
def State.ckRead (s : State) (d : Nat) (asid : BitVec 16) (kernel : Dword) (h : BitVec 512) : Acc (List (BitVec 256)) :=
  (s.imgRead d asid kernel (hdrCkoff h, 32 * hdrCkcnt h)).bind fun b =>
    .ok ((pieces 32 b.length b).map fun x => BitVec.ofNat 256 (leNat x))

/-- The place of an entry's range list. -/
def ckPart (h : BitVec 512) (e : BitVec 256) : Part := (hdrCkoff h + ckRangeoff e, 8 * ckNrange e)

/-- The role table; empty without roles. -/
def State.roleRead (s : State) (d : Nat) (asid : BitVec 16) (kernel : Dword) (h : BitVec 512) : Acc (List (BitVec 128)) :=
  (s.imgRead d asid kernel (hdrRoleoff h, if hdrRoleoff h = 0 then 0 else 64)).bind fun b =>
    .ok ((pieces 16 b.length b).map fun x => BitVec.ofNat 128 (leNat x))

/-- R105 to R111, R241: whether the image keeps every rule but FEAT's. -/
def State.imageOk (s : State) (d : Nat) (asid : BitVec 16) (kernel : Dword) : Acc Bool :=
  (s.hdrRead d asid kernel).bind fun h =>
    if !hdrOk h then .ok false
    else
      (s.imgRead d asid kernel (64, hdrCodesz h)).bind fun _ =>
        (s.vcwRead d asid kernel h).bind fun vcw =>
          (s.ckRead d asid kernel h).bind fun cks =>
            (Acc.each (fun (a : Bool) (e : BitVec 256) =>
              (s.imgRead d asid kernel (ckPart h e)).bind fun b => .ok (a && ckOk (hdrCkcnt h) e (bytesDwords b))) true cks).bind fun ckGood =>
              (s.roleRead d asid kernel h).bind fun roles =>
                let roleGood := (List.range roles.length).all fun i => roleOk h i (roles.getD i 0)
                let images := roles.flatMap fun r => [(roleIoff r, roleIsz r), (roleDoff r, roleDsz r)]
                if !roleGood then .ok false
                else
                  (Acc.each (fun (_ : Unit) (p : Part) => (s.imgRead d asid kernel p).unit) () images).bind fun _ =>
                    (s.imgRead d asid kernel (roleIoff (roles.getD 2 0), roleIsz (roles.getD 2 0))).bind fun row =>
                      let words := bytesDwords row
                      let parts : List Part :=
                        [(0, 64 + hdrCodesz h), (hdrVcwoff h, 32 * hdrVcwcnt h), (hdrCkoff h, 32 * hdrCkcnt h),
                          (hdrRoleoff h, 16 * roles.length)] ++ images
                      .ok (vcwOk vcw && ckGood && (words.all (rowWordOk words.length)) && apart parts &&
                        cks.all fun e => parts.all fun p => !p.meets (ckPart h e))

/-! ### The graph of the bundles (R358) -/

/-- What the graph needs of a bundle. -/
structure Node where
  ck : Bool
  yield : Bool
  lend : Option (BitVec 3)
  op : Option Instr
  deriving DecidableEq, Repr

def nodeOf (w : BitVec 256) : Node :=
  let h := bundleHead w
  let kind := fld h 0 2
  { ck := decide (kind = 2), yield := decide (kind = 1), lend := if h.getLsbD 2 then some (fld h 3 3) else none
    op := if bundleS w = 0 then none else (decodeS (bundleS w)).toOption }

/-- An edge; `back` names the `loop` bundle of a back edge and says whether its count is immediate. -/
structure Edge where
  dst : Nat
  back : Option (Nat × Bool) := none
  deriving DecidableEq, Repr

abbrev Code := List Node
def Code.at_ (l : Code) (i : Nat) : Node := l.getD i ⟨false, false, none, none⟩

/-- R358: the LEND bundle paired with the `loop` at `i` of level `lv`. -/
def Code.pair (l : Code) (i : Nat) (lv : BitVec 3) : Option Nat :=
  (List.range l.length).find? fun j => decide (i < j) && decide ((l.at_ j).lend = some lv)

/-- The loops of the code: the `loop` bundle, its LEND bundle, its immediate count. -/
def Code.loops (l : Code) : List (Nat × Nat × Option Nat) :=
  (List.range l.length).filterMap fun i =>
    match (l.at_ i).op with
    | some (.loop _ lv ra imm) => (l.pair i lv).map fun j => (i, j, if ra = 0 then some imm.toNat else none)
    | _ => none

/-- The bundle that a branch names: its offset counts bundles. -/
def branchNode (i : Nat) (off : BitVec 33) : Option Nat :=
  let t := (i : Int) + off.toInt
  if t < 0 then none else some t.toNat

/-- R358: where register-indirect jumps may go. -/
def Code.landings (l : Code) : List Nat :=
  (List.range l.length).flatMap fun i =>
    match (l.at_ i).op with
    | some (.call _ _ off) => (i + 1) :: (branchNode i off).toList
    | some (.jalr _ _ _) => [i + 1]
    | _ => []

/-- R358: the edges out of a bundle; an `exit` that always executes ends the path. -/
def Code.edges (l : Code) (i : Nat) : List Edge :=
  let n := l.at_ i
  let own : List Nat :=
    match n.op with
    | some (.exit g _) => if g.pg = 0 then [] else [i + 1]
    | some (.br _ off) => (i + 1) :: (branchNode i off).toList
    | some (.call _ _ off) => (i + 1) :: (branchNode i off).toList
    | some (.jr _ _) => (i + 1) :: l.landings
    | some (.jalr _ _ _) => (i + 1) :: l.landings
    | _ => [i + 1]
  let back := l.loops.filterMap fun (a, j, c) => if j = i then some { dst := a + 1, back := some (a, c.isSome) : Edge } else none
  (own.map fun t => ({ dst := t } : Edge)).filter (fun e => decide (e.dst < l.length)) ++ back

/-- The bundles of a loop's body. -/
def Code.body (l : Code) (a : Nat) : List Nat :=
  match l.loops.find? fun x => decide (x.1 = a) with
  | some (_, j, _) => (List.range l.length).filter fun i => decide (a < i) && decide (i ≤ j)
  | none => []

/-- R358: the cycle made only of the back edge of one immediate-count loop and bundles of its body. -/
def Code.exempt (l : Code) (nodes : List Nat) (backs : List (Nat × Bool)) : Bool :=
  match backs with
  | [(a, true)] => nodes.all fun i => (l.body a).contains i
  | _ => false

/-- Whether a simple cycle through `start` that passes no marked bundle, and is not exempt, goes on from the end of the path
`nodes` (its last bundle first). -/
def Code.badFrom (l : Code) (mark : Nat → Bool) (start : Nat) : Nat → List Nat → List (Nat × Bool) → Bool
  | 0, _, _ => false
  | f + 1, nodes, backs =>
    (l.edges (nodes.headD start)).any fun e =>
      let backs := match e.back with | some b => b :: backs | none => backs
      if e.dst = start then !l.exempt nodes backs
      else if e.dst < start ∨ nodes.contains e.dst ∨ mark e.dst then false
      else Code.badFrom l mark start f (e.dst :: nodes) backs

/-- R358: every cycle passes a marked bundle or is exempt; a cycle is sought from its lowest bundle. -/
def Code.cyclesOk (l : Code) (mark : Nat → Bool) : Bool :=
  (List.range l.length).all fun i => mark i || !l.badFrom mark i (l.length + 1) [i] []

/-- R358: how often a bundle counts: the product of the counts of the immediate loops whose bodies hold it. -/
def Code.weight (l : Code) (i : Nat) : Nat :=
  l.loops.foldl (fun a (x : Nat × Nat × Option Nat) =>
    match x.2.2 with
    | some c => if x.1 < i ∧ i ≤ x.2.1 then a * c else a
    | none => a) 1

/-- The edges that a path's length is measured on: without the back edges of immediate loops, whose bodies count for all
their passes. -/
def Code.steps (l : Code) (i : Nat) : List Nat :=
  (l.edges i).filterMap fun e => match e.back with | some (_, true) => none | _ => some e.dst

/-- The longest way from each bundle, itself included, through the next mark, after so many rounds. -/
def Code.lengths (l : Code) (mark : Nat → Bool) : Nat → List Nat
  | 0 => List.replicate l.length 0
  | n + 1 =>
    let d := Code.lengths l mark n
    (List.range l.length).map fun i =>
      l.weight i + if mark i then 0 else ((l.steps i).map fun j => d.getD j 0).foldl max 0

/-- R358: no path has more than `lim` bundles between two marks (DEDUCED, log entry 33). -/
def Code.pathsOk (l : Code) (mark : Nat → Bool) (lim : Nat) : Bool :=
  let d := l.lengths mark (l.length + 1)
  decide (d.getD 0 0 ≤ lim) &&
    (List.range l.length).all fun i => !mark i || (l.steps i).all fun j => decide (d.getD j 0 ≤ lim)

/-- R358: the path check of a kernel's code. -/
def Code.ok (l : Code) (ckmax : Nat) : Bool :=
  let ck (i : Nat) := (l.at_ i).ck
  let yl (i : Nat) := (l.at_ i).yield
  (l.all fun n => match n.op with
    | some (.jr _ _) => n.ck
    | some (.jalr _ _ _) => n.ck
    | _ => true) &&
    l.cyclesOk ck && l.cyclesOk yl && l.pathsOk ck ckmax && l.pathsOk yl ckmax

end Sys2Proof.Machine
end

