-- ==== Sys2Proof/Machine/Dispatcher.lean ====
section
/-! DEFINITION. The Dispatchers: doorbells (R371), acceptance and rejection (R352 to R359), admission, choice and launch (R360
to R362), pre-emption (R364), completion (R365, R366). -/

namespace Sys2Proof.Machine

/-! ### Streams and doorbells (R352, R371) -/

def Disp.stream (x : Disp) (n : Nat) : Stream := Tab.get {} x.streams n
def State.stream (s : State) (d n : Nat) : Stream := (s.die d).disp.stream n
def State.modDisp (s : State) (d : Nat) (f : Disp → Disp) : State := s.modDie d fun x => { x with disp := f x.disp }
def State.setStream (s : State) (d n : Nat) (x : Stream) : State :=
  s.modDisp d fun y => { y with streams := Tab.put y.streams n x }

/-- R371: a write of a stream's SPI; one that would overflow its queue is ignored and reported. -/
def execDoorbellSpi (d : Nat) (stream : BitVec 6) (v : Word) (s : State) : Host.Outcome State Fault Refusal :=
  .next (let x := s.stream d stream.toNat
    if s.siltin ≠ .ready then s
    else if 2 ^ x.sqlog.toNat < (v - x.sci).toNat then s.event d 12 none none none
    else s.setStream d stream.toNat { x with spi := v })

/-- R371: a write of a stream's CCI. -/
def execDoorbellCci (d : Nat) (stream : BitVec 6) (v : Word) (s : State) : Host.Outcome State Fault Refusal :=
  .next (if s.siltin ≠ .ready then s else s.setStream d stream.toNat { s.stream d stream.toNat with cci := v })

/-! ### The job card (R355, R356) -/

def Card.nread (x : Card) : Nat := ((x.dword 0).extractLsb' 8 4).toNat
def Card.nwrite (x : Card) : Nat := ((x.dword 0).extractLsb' 4 4).toNat
def Card.skipf (x : Card) : Bool := (x.dword 0).getLsbD 57
def Card.pclassBits (x : Card) : Nat := ((x.dword 0).extractLsb' 58 2).toNat
def Card.fpaddr (x : Card) : Dword := x.dword 2
def Card.saveBase (x : Card) : Dword := x.dword 3
def Card.areasz (x : Card) : Nat := ((x.dword 4).extractLsb' 32 32).toNat
/-- Base of a buffer's window in bytes. -/
def Card.winBase (x : Card) (b : Buf) : Nat := ((x.dword 4).extractLsb' (10 * b.num) 10).toNat * 4096
def Card.wdrun (x : Card) : Nat := ((x.dword 5).extractLsb' 0 32).toNat
def Card.repaddr (x : Card) : Dword := x.dword 6
def Card.user (x : Card) : Nat := ((x.dword 7).extractLsb' 32 32).toNat
def Card.camt (x : Card) : BitVec 16 := (x.dword 7).extractLsb' 16 16
def Card.cctr (x : Card) : Nat := ((x.dword 7).extractLsb' 0 10).toNat
def Card.argBytes (x : Card) : List Byte := (List.range 8).flatMap fun i => dwordBytes (x.dword (8 + i))

/-- R355: bits [63:52] of an address are zero. -/
def addrOk (a : Dword) : Bool := decide (a.extractLsb' 52 12 = 0)

/-- R355: no reserved bit or field of the card is broken (R357 check 1). -/
def Card.fieldsOk (x : Card) : Bool :=
  let w := x.dword 0
  decide (w.extractLsb' 48 9 = 0) && decide (w.extractLsb' 28 4 = 0) && decide (w.extractLsb' 0 4 = 0) &&
    decide (x.pclassBits ≠ 3) && decide (x.nread ≤ 8) && decide (x.nwrite ≤ 8) &&
    addrOk x.kernel && decide (x.kernel.toNat % 64 = 0) &&
    addrOk x.fpaddr && decide (x.fpaddr.toNat % 64 = 0) && (decide (x.nread + x.nwrite ≠ 0) || decide (x.fpaddr = 0)) &&
    addrOk x.saveBase && decide (x.saveBase.toNat % 4096 = 0) && (decide (x.pclassBits ≠ 0) || decide (x.saveBase = 0)) &&
    decide ((x.dword 4).extractLsb' 30 2 = 0) && decide (x.areasz % 4096 = 0) && addrOk x.repaddr &&
    decide ((x.dword 7).extractLsb' 10 6 = 0)

/-- A range: base and length (R356). -/
abbrev Range := Nat × Nat
/-- R288: two ranges share a byte. -/
def Range.overlaps (p q : Range) : Bool := decide (p.1 < q.1 + q.2) && decide (q.1 < p.1 + p.2)
/-- The bytes they share. -/
def Range.common (p q : Range) : Range := (max p.1 q.1, min (p.1 + p.2) (q.1 + q.2) - max p.1 q.1)

/-- R356: the ranges of a footprint list; none when one breaks its rules. -/
def footprint (l : List Dword) : Option (List Range) :=
  (pieces 2 l.length l).mapM fun p =>
    let b := dw p 0
    let n := dw p 1
    if addrOk b && addrOk n && decide (b.toNat + n.toNat + 1 ≤ 2 ^ 52) then some (b.toNat, n.toNat + 1) else none

/-! ### The checks (R357) -/

/-- A read of the checks: a fault rejects the card with the status of the check. -/
def Acc.orFail {α β : Type} (x : Acc α) (bad : β) (f : α → Acc β) : Acc β :=
  match x with
  | .ok a => f a
  | .wait d => .wait d
  | _ => .ok bad

/-- R357: the outcomes of checks 5 and 8 for a pair of ASID and KERNEL, from the kernel cache or new. -/
def State.kernelChecks (s : State) (d : Nat) (asid : BitVec 16) (kernel : Dword) : Acc (Bool × Bool) :=
  match (s.die d).disp.kcache.find? fun y => decide (y.1 = asid) && decide (y.2.1 = kernel) with
  | some y => .ok (y.2.2.1, y.2.2.2)
  | none =>
    (s.imageOk d asid kernel).orFail (false, false) fun good =>
      if !good then .ok (false, false)
      else
        (s.hdrRead d asid kernel).orFail (false, false) fun h =>
          (s.codeRead d asid kernel h).orFail (false, false) fun code =>
            .ok (true, Code.ok (code.map nodeOf) (s.die d).disp.ckmax)

/-- R357: the kernel cache keeps the 64 pairs used last. -/
def State.kernelUsed (s : State) (d : Nat) (asid : BitVec 16) (kernel : Dword) (r : Bool × Bool) : State :=
  s.modDisp d fun x =>
    let l := x.kcache.filter (fun y => !(decide (y.1 = asid) && decide (y.2.1 = kernel))) ++ [(asid, kernel, r.1, r.2)]
    { x with kcache := l.drop (l.length - 64) }

/-- R309, R357: the largest SAVESZ of a kernel's checkpoints. -/
def maxSave (l : List (BitVec 256)) : Nat := if l.isEmpty then 18496 else (l.map ckSavesz).foldl max 0

/-- R357 checks 5 to 9, with the header of a card that passes check 5. -/
def State.checkKernel (s : State) (x : Card) : Acc (Nat × BitVec 512) :=
  (s.kernelChecks x.die x.asid x.kernel).orFail (3, 0) fun (good, paths) =>
    if !good then .ok (3, 0)
    else
      (s.hdrRead x.die x.asid x.kernel).orFail (3, 0) fun h =>
        if (bitsOf x.ctxmask 8).length ≠ hdrContexts h ∨ bufs.any fun b => decide (b.size < x.winBase b + hdrBufsz h b) then
          .ok (5, h)
        else if decide (hdrFeat h &&& ~~~s.featAcc ≠ 0) || (decide (({ x with hdr := h } : Card).pclass = 1) && !s.accepted 9) then .ok (6, h)
        else if !paths then .ok (4, h)
        else
          (s.ckRead x.die x.asid x.kernel h).orFail (3, h) fun cks =>
            let p := ({ x with hdr := h } : Card).pclass
            if (p = 2 ∧ x.areasz < maxSave cks) ∨ (p = 1 ∧ x.areasz < maxSave cks + 332544) then .ok (9, h)
            else .ok (0, h)

/-- R357: the card's STATUS, 0 when it passes, with its ranges and its kernel's header (DEDUCED, log entry 33). -/
def State.checkCard (s : State) (x : Card) : Acc (Nat × List Range × BitVec 512) :=
  if !x.fieldsOk then .ok (8, [], 0)
  else if !(s.space x.die x.asid).getLsbD 0 then .ok (7, [], 0)
  else
    (if x.nread + x.nwrite = 0 then .ok [] else s.devRead x.die x.asid x.fpaddr (16 * (x.nread + x.nwrite))).orFail (8, [], 0)
      fun b =>
        match footprint (bytesDwords b) with
        | none => .ok (8, [], 0)
        | some l =>
          if 11 < x.yard ∨ x.cmask = 0 then .ok (5, [], 0)
          else (s.checkKernel x).bind fun (st, h) => .ok (st, l, h)

/-! ### Acceptance (R353, R354, R359) -/

/-- Cards in flight on a die. -/
def State.inFlight (s : State) (d : Nat) : Nat := (s.cards.filter fun (_, x) => decide (x.die = d) && decide (x.st ≠ .done)).length

/-- R353: the Dispatcher may accept the stream's next card. -/
def State.mayAccept (s : State) (d n : Nat) : Bool :=
  let x := s.stream d n
  x.valid && decide (x.spi ≠ x.sci) && decide ((x.sci - x.cci).toNat < 2 ^ x.cqlog.toNat) && decide (s.inFlight d < Config.maxCards)

/-- R353: streams are taken round-robin. -/
def State.nextStream (s : State) (d : Nat) : Option Nat :=
  ((List.range 64).map fun i => ((s.die d).disp.lastStream + 1 + i) % 64).find? (s.mayAccept d)

/-- R288: an edge from `p` to `q`. -/
def Card.edgeTo (p q : Card) : Bool :=
  (p.writes.any fun a => (q.reads ++ q.writes).any fun b => Range.overlaps a b) || p.reads.any fun a => q.writes.any fun b => Range.overlaps a b

/-- R359: the cards from which the new card has an edge. -/
def State.edgesOf (s : State) (q : Card) : List Nat :=
  s.cards.filterMap fun (n, p) => if p.st ≠ .done && !p.cleaned && !p.rejected && p.edgeTo q then some n else none

/-- Checks 5 and 8 of a card have been made. -/
def State.noteKernel (s : State) (x : Card) (st : Nat) : State :=
  if st = 8 ∨ st = 7 ∨ (st = 5 ∧ (11 < x.yard ∨ x.cmask = 0)) then s
  else
    match s.kernelChecks x.die x.asid x.kernel with
    | .ok r => s.kernelUsed x.die x.asid x.kernel r
    | _ => s

/-- R353: a card enters with its sequence number. -/
def State.enterCard (s : State) (d n : Nat) (x : Card) (st : Nat) (l : List Range) (h : BitVec 512) : State :=
  let x := { x with
    hdr := h, reads := l.take x.nread, writes := l.drop x.nread, status := st, rejected := decide (st ≠ 0)
    admAt := s.timebase.toNat }
  let x := if st = 0 then { x with edges := s.edgesOf x } else x
  let y := s.stream d n
  let s := (s.setStream d n { y with sci := y.sci + 1 }).modDisp d fun z => { z with lastStream := n }
  { (s.noteKernel x st).setCard s.seqCtr.toNat x with seqCtr := s.seqCtr + 1 }

/-- R353, R354, R357, R359: the Dispatcher accepts the next card of a stream. -/
def execCardAccept (d : Nat) (s : State) : Host.Outcome State Fault Refusal :=
  .next (if s.siltin ≠ .ready then s
    else
      match s.nextStream d with
      | none => s
      | some n =>
        let y := s.stream d n
        let blank : Card := { die := d, stream := n, dw := [] }
        match s.devRead d 0 (y.sqbase + BitVec.ofNat 64 (128 * (y.sci.toNat % 2 ^ y.sqlog.toNat))) 128 with
        | .wait i => s.awaitDomain d i
        | .ok b =>
          let x := { blank with dw := bytesDwords b }
          (match s.checkCard x with
            | .ok (st, l, h) => s.enterCard d n x st l h
            | .wait i => s.awaitDomain d i
            | _ => s)
        | _ => s.enterCard d n blank 8 [] 0)

/-! ### Admission (R360) and priority (R361) -/

/-- R360: every edge into the card is satisfied. -/
def State.admissible (s : State) (n : Nat) : Bool :=
  let x := s.card n
  (decide (x.st = .waiting) || decide (x.st = .evicted)) && !x.rejected && !x.cleaned && x.edges.all fun p => (s.card p).cleaned

/-- R360: the card is skipped: it has SKIPF, and a card that it has an edge from failed. -/
def State.skipped (s : State) (n : Nat) : Bool :=
  let x := s.card n
  decide (x.st = .waiting) && x.skipf && x.edges.any fun p => decide ((s.card p).status ≠ 0)

/-- When the card became admissible. -/
def State.admissibleSince (s : State) (n : Nat) : Nat :=
  let x := s.card n
  (x.edges.map fun p => (s.card p).doneAt).foldl max x.admAt

/-- R361: levels that an admissible card has aged. -/
def State.age (s : State) (n : Nat) : State :=
  if s.admissible n then
    s.modCard n fun x => { x with boost := (s.timebase.toNat - s.admissibleSince n) / (s.die x.die).disp.dage }
  else s

/-- R361: each DAGE cycles that an admissible card waits, its effective priority rises by one. -/
def execPriorityAgeing (card : Nat) (s : State) : Host.Outcome State Fault Refusal := .next (s.age card)

/-- R361. -/
def Card.effective (x : Card) : Nat := min 7 (x.prio + x.boost)

/-- R360: every placed context is IDLE. -/
def State.idleAll (s : State) (x : Card) : Bool := x.placed.all fun (k, c) => decide ((s.ctx k c).st = .idle)

/-- R360, R379: the other conditions: the yard is ACTIVE, halted contexts on its cores belong to cards of lower PRIO, its hands
are free. -/
def State.placeable (s : State) (x : Card) : Bool :=
  decide ((s.domain (12 * x.die + x.yard)).power = .active) &&
    x.coresOf.all fun k =>
      ((List.range 8).all fun c =>
        let y := s.ctx k c
        !(decide (y.st = .halted) && !y.evicted && !y.restoring) || decide ((s.cardOf k c).prio < x.prio)) &&
        !(x.lhand && (s.core k).loadHand.running) && !(x.shand && (s.core k).storeHand.running)

/-- R360. -/
def State.launchable (s : State) (n : Nat) : Bool :=
  let x := s.card n
  s.admissible n && !s.skipped n && s.idleAll x && s.placeable x

/-- R361: the order of choice: urgent cards, then effective priority, then the streams in turn. -/
def State.choiceKey (s : State) (d n : Nat) : Nat :=
  let x := s.card n
  let last := Tab.get 63 (s.die d).disp.yardStream x.yard
  (if x.urgent then 7 - x.prio
    else (8 + (7 - x.effective)) ) * 64 * 2 ^ 64 + (if x.urgent then 0 else (x.stream + 63 - last) % 64) * 2 ^ 64 + n

/-- R361: the card that yard `y` launches next. -/
def State.chosen (s : State) (d y : Nat) : Option Nat :=
  leastBy (s.choiceKey d)
    ((s.cards.filter fun (n, x) => decide (x.die = d) && decide (x.yard = y) && s.launchable n).map Prod.fst)

/-! ### Cleaning (R289, R365) -/

/-- R289: the physical bytes of the pages of a range, as base and size. -/
def State.rangePieces (s : State) (d : Nat) (asid : BitVec 16) (r : Range) : List (Nat × Nat) :=
  (List.range ((r.1 % 65536 + r.2 + 65535) / 65536)).filterMap fun i =>
    let lo := max r.1 (r.1 / 65536 * 65536 + 65536 * i)
    let hi := min (r.1 + r.2) (r.1 / 65536 * 65536 + 65536 * (i + 1))
    match s.translate (s.asidRoot d none asid) true .read (BitVec.ofNat 64 lo) with
    | .ok pa _ => some (pa, hi - lo)
    | _ => none

/-- The dirty bytes of a range's lines in the L2 of a die. -/
def State.dirtyIn (s : State) (d : Nat) (asid : BitVec 16) (r : Range) : List Nat :=
  if r.2 = 0 then []
  else
    let l := s.rangePieces d asid r
    ((s.die d).l2.filter fun (a, _) =>
      l.any fun p => decide (p.1 / 64 ≤ a / 64) && decide (a / 64 ≤ (p.1 + p.2 - 1) / 64)).map Prod.fst

/-- R289: the dirty bytes of a range's lines in the L2 of a die perform at module scope (DEDUCED, log entry 34). -/
def State.cleanRange (s : State) (d : Nat) (asid : BitVec 16) (r : Range) : State := s.cleanLines d (s.dirtyIn d asid r)

/-- R379, R342: a page of a range whose access must wait, with the domain that it awaits. -/
def State.rangeWait (s : State) (d : Nat) (asid : BitVec 16) (r : Range) : Option (Option Await) :=
  (List.range ((r.1 % 65536 + r.2 + 65535) / 65536)).findSome? fun i =>
    match s.translate (s.asidRoot d none asid) true .read (BitVec.ofNat 64 (max r.1 (r.1 / 65536 * 65536 + 65536 * i))) with
    | .wait dom => some dom
    | .ok pa _ => (s.awaited pa).map some
    | _ => none

/-- R289: stores of a card that have still to perform, to bytes of a range, perform at module scope. -/
def State.drainCard (s : State) (n : Nat) (r : Range) : State :=
  (s.card n).coresOf.foldl (fun s k =>
    s.performWhere k true fun p => decide (p.card = n) && Range.overlaps (p.va.toNat, p.bytes.length) r) s

/-! ### Launch (R362, R18, R226) -/

/-- R309, R364: what an urgent card waits for on a core it shares: the halts of its victims, and the engine commands of those
whose masks meet its own. -/
def State.victimsDone (s : State) (n k : Nat) : Bool :=
  let u := s.card n
  (List.range 8).all fun c =>
    match (s.ctx k c).card with
    | none => true
    | some m =>
      let y := s.ctx k c
      let p := s.card m
      if m = n ∨ u.prio ≤ p.prio ∨ p.pclass = 0 then true
      else
        !(decide (y.st = .running) || decide (y.st = .trapped)) &&
          (!(decide (y.st = .halted) && !y.evicted) || (decide (u.flagmask &&& p.flagmask = 0) && decide (u.ringmask &&& p.ringmask = 0)) ||
            (bitsOf p.ctxmask 8).all fun c' => !s.engineBusy m k (some c'))

/-- R226, R362 step 4: a hand with its images. -/
def launchHand (x : Card) (n k : Nat) (r : Role) (dsz : Nat) (imem dmem : List Byte) : Hand :=
  let d : Mem := Mem.writeList [] 0 dmem
  { running := true, x := [(10, BitVec.ofNat 64 k), (11, BitVec.ofNat 64 (roleNum r))], imem := Mem.writeList [] 0 imem
    isz := imem.length, dmem := if dsz ≤ 32704 then d.writeList 0x7FC0 x.argBytes else d, card := some n, patron := x.patronCtx
    wwin := ⟨x.winBase .wb, x.winBase .wb + hdrBufsz x.hdr .wb⟩
    awin := ⟨x.winBase .ab, x.winBase .ab + hdrBufsz x.hdr .ab⟩
    cwin := ⟨x.winBase .cb, x.winBase .cb + hdrBufsz x.hdr .cb⟩ }

/-- What a launch reads of the kernel image: the VCW table, and the images of the roles, instructions and data. -/
def State.launchRead (s : State) (x : Card) : Acc (List (BitVec 256) × List (List Byte × List Byte)) :=
  (s.vcwRead x.die x.asid x.kernel x.hdr).bind fun vcw =>
    (s.roleRead x.die x.asid x.kernel x.hdr).bind fun roles =>
      (Acc.each (fun (a : List (List Byte × List Byte)) (r : BitVec 128) =>
        (s.imgRead x.die x.asid x.kernel (roleIoff r, roleIsz r)).bind fun i =>
          (s.imgRead x.die x.asid x.kernel (roleDoff r, roleDsz r)).bind fun d => .ok (a ++ [(i, d)])) [] roles).bind fun l =>
        .ok (vcw, l)

/-- R15, R362 step 5: a context as the launch sets it. -/
def launchCtx (x : Card) (n now : Nat) (vcw : List (BitVec 256)) : Ctx :=
  { pc := x.kernel + 64, prio := BitVec.ofNat 3 x.effective, st := .ready, readyAt := now, card := some n
    vcw := (List.range vcw.length).map fun i => (i, vcw.getD i 0)
    wwin := ⟨x.winBase .wb, x.winBase .wb + hdrBufsz x.hdr .wb⟩
    awin := ⟨x.winBase .ab, x.winBase .ab + hdrBufsz x.hdr .ab⟩
    cwin := ⟨x.winBase .cb, x.winBase .cb + hdrBufsz x.hdr .cb⟩ }

/-- R18: the flags and rings of the kernel's masks. -/
def Core.prepare (q : Core) (x : Card) : Core :=
  let q := (bitsOf x.flagmask 32).foldl (fun (q : Core) f => { q with flags := Tab.put q.flags f 0 }) q
  (bitsOf x.ringmask 16).foldl (fun q h => q.setRing (BitVec.ofNat 4 h) { q.ring (BitVec.ofNat 4 h) with valid := false }) q

/-- R362: a first launch on one core. -/
def State.launchCore (s : State) (n : Nat) (x : Card) (vcw : List (BitVec 256)) (imgs : List (List Byte × List Byte)) (k : Nat) : State :=
  let s := if x.urgent then s.claimShared n k else s
  let s := s.modCore k fun q =>
    let q := q.prepare x
    let q := if 4096 ≤ hdrBufsz x.hdr .wb then q.writeBuf .wb (x.winBase .wb) x.argBytes else q
    let img (i : Nat) := imgs.getD i ([], [])
    let q := if x.lhand then { q with loadHand := launchHand x n k .load (img 0).2.length (img 0).1 (img 0).2 } else q
    if x.shand then { q with storeHand := launchHand x n k .store (img 1).2.length (img 1).1 (img 1).2 } else q
  (bitsOf x.ctxmask 8).foldl (fun s c => s.setCtx k c (launchCtx x n s.timebase.toNat vcw)) s

/-- R289: the regions of the card's edges. -/
def State.edgeRegions (s : State) (x : Card) : List Range :=
  x.edges.flatMap fun p =>
    (s.card p).writes.flatMap fun a => ((x.reads ++ x.writes).filter (Range.overlaps a)).map (Range.common a)

/-- R289: the regions of the card's edges in the L2 of its own die. -/
def State.refreshRegions (s : State) (x : Card) : State :=
  (s.edgeRegions x).foldl (fun s r => s.cleanRange x.die x.asid r) s

/-- What a card's launch waits for (R323, R379). -/
def State.refreshWait (s : State) (x : Card) : Option Await := s.busyFor ((s.edgeRegions x).flatMap (s.dirtyIn x.die x.asid))

/-- R362: launches a card for the first time. -/
def State.launchFresh (s : State) (n : Nat) (vcw : List (BitVec 256)) (imgs : List (List Byte × List Byte)) : State :=
  let x := s.card n
  let now := s.timebase.toNat
  let s := s.refreshRegions x
  let s := x.coresOf.foldl (fun s k => s.launchCore n x vcw imgs k) s
  s.setCard n { x with st := .running, launchAt := some now, runSince := now, rowImage := bytesDwords (imgs.getD 2 ([], [])).1 }

/-- R316, R364: an evicted card goes back to its placement; its contexts are HALTED until all of them are restored (DEDUCED,
log entry 36). -/
def State.launchAgain (s : State) (n : Nat) : State :=
  let x := s.card n
  let s := if x.urgent then x.coresOf.foldl (fun s k => s.claimShared n k) s else s
  let s := x.saved.foldl (fun s (k, c) => s.setCtx k c { card := some n, st := .halted, restoring := true }) s
  s.setCard n { x with st := .running, runSince := s.timebase.toNat, saved := [] }

/-- R361, R362, R364: a yard launches the card that is chosen (DESIGN CHOICE, log entry 7). -/
def execCardLaunch (d y : Nat) (s : State) : Host.Outcome State Fault Refusal :=
  .next (if s.siltin ≠ .ready then s
    else
      let s := s.cards.foldl (fun s (n, _) => s.age n) s
      match s.chosen d y with
      | none => s
      | some n =>
        let x := s.card n
        if x.urgent && !x.coresOf.all (s.victimsDone n) then s
        else
          let turn (s : State) : State := s.modDisp d fun z => { z with yardStream := Tab.put z.yardStream y x.stream }
          if x.st = .evicted then (turn s).launchAgain n
          else
            match s.launchRead x with
            | .ok (vcw, imgs) => s.unlessBusy d (s.refreshWait x) ((turn s).launchFresh n vcw imgs)
            | .wait i => s.awaitDomain d i
            | _ => s)

/-! ### Pre-emption by an urgent card (R364) -/

/-- The contexts that a card names and that another card holds. -/
def State.blockers (s : State) (x : Card) : List (Nat × Nat) := x.placed.filter fun (k, c) => decide ((s.ctx k c).st ≠ .idle)

/-- R364 step 1: every context in the way belongs to a card of lower PRIO that can be evicted. -/
def State.mayEvict (s : State) (x : Card) : Bool :=
  s.placeable x && (s.blockers x).all fun (k, c) =>
    match (s.ctx k c).card with
    | some m => decide ((s.card m).prio < x.prio) && decide ((s.card m).pclass = 2)
    | none => false

/-- R311, R312: the eviction request reaches every context that the card holds. -/
def State.askEvict (s : State) (m : Nat) : State :=
  (s.card m).placed.foldl (fun s (k, c) =>
    if s.holdsCtx m k c then s.modCtx k c fun x => if x.evicted || x.restoring then x else { x with evictReq := true } else s) s

/-- R364 step 2: the halt of a card on a core: its RUNNING or TRAPPED context is asked, the others halt. -/
def State.askHalt (s : State) (m k : Nat) : State :=
  (bitsOf (s.card m).ctxmask 8).foldl (fun s c =>
    if !s.holdsCtx m k c then s
    else
      match (s.ctx k c).st with
      | .running | .trapped => s.modCtx k c fun x => { x with haltReq := true }
      | .ready | .waiting => s.haltNow k c
      | _ => s) s

/-- R364 step 2: the cards to halt on a core. -/
def State.victims (s : State) (n k : Nat) : List Nat :=
  ((List.range 8).filterMap fun c =>
    let y := s.ctx k c
    match y.card with
    | none => none
    | some m =>
      if m ≠ n && decide ((s.card m).prio < (s.card n).prio) && decide ((s.card m).pclass ≠ 0) &&
          (decide (y.st = .running) || decide (y.st = .trapped)) then some m
      else none).eraseDups

/-- R364: an admissible urgent card pre-empts. -/
def execUrgentPreempt (card : Nat) (s : State) : Host.Outcome State Fault Refusal :=
  .next (let x := s.card card
    if !x.urgent || !s.admissible card || s.skipped card then s
    else if s.launchable card then
      x.coresOf.foldl (fun s k => (s.victims card k).foldl (fun s m => s.askHalt m k) s) s
    else if s.mayEvict x then
      ((s.blockers x).filterMap fun (k, c) => (s.ctx k c).card).eraseDups.foldl (fun s m => s.askEvict m) s
    else s)

/-! ### Completion (R365, R366) -/

/-- R365: the card has run to its end. -/
def State.finished (s : State) (n : Nat) : Bool :=
  let x := s.card n
  decide (x.st = .running) && x.saved.isEmpty && (x.placed.all fun (k, c) => !s.holdsCtx n k c) &&
    (x.torn || decide (s.failStatus n = 0)) &&
    x.coresOf.all fun k =>
      let q := s.core k
      !(q.loadHand.running && decide (q.loadHand.card = some n)) && !(q.storeHand.running && decide (q.storeHand.card = some n)) &&
        !s.engineBusy n k none && s.recQueue.all fun y => decide (y.1 ≠ n)

/-- What is left of a placed context: as it ended, with the records that came after (R227). -/
def State.leftOf (s : State) (n k c : Nat) : Ctx :=
  let x : Ctx :=
    match (s.card n).kept.find? fun y => decide (y.1 = k) && decide (y.2.1 = c) with
    | some y => y.2.2
    | none => {}
  (Tab.get [] s.cardRecs n).foldl (fun x (y : Nat × Nat × EngRec) => if y.1 = k ∧ y.2.1 = c then x.addRec y.2.2 else x) x

/-- R366: a context's block of the report area. -/
def reportBlock (x : Ctx) : List Dword :=
  let l :=
    [x.cause, x.tval, x.tinfo, x.exitStatus.setWidth 64, x.dcause, x.depc, x.erstat, 0] ++ x.records.flatMap EngRec.dwords
  l ++ List.replicate (72 - l.length) 0

/-- A list of bytes at an address, cut where sectors begin. -/
def cutSectors (a : Nat) (l : List Byte) : List (Nat × List Byte) :=
  (List.range ((a % 64 + l.length + 63) / 64)).map fun i =>
    let lo := max a (a / 64 * 64 + 64 * i)
    let hi := min (a + l.length) (a / 64 * 64 + 64 * (i + 1))
    (lo, (l.drop (lo - a)).take (hi - lo))

/-- How writing the report area goes: to its end, to an error, or to a page or a domain that it awaits. -/
inductive ReportRes where
  | done (s : State)
  | bad (s : State)
  | wait (s : State) (dom : Option Await)

/-- R365 step 3, R334: writes the report area; a fault, or a poisoned sector that it writes only in part, leaves the rest
unwritten. -/
def State.writeReport (s : State) (d : Nat) (asid : BitVec 16) : List (Nat × List Byte) → ReportRes
  | [] => .done s
  | (a, l) :: t =>
    match s.devSpan d asid .write (BitVec.ofNat 64 a) l.length with
    | .wait i => .wait s i
    | .fault _ _ => .bad s
    | .ok at_ _ =>
      if (clearSectors s.poison at_).any fun u => at_.any fun x => decide (x / 64 = u) then .bad s
      else State.writeReport (s.writeModule (at_.zip l)) d asid t

/-- R366: the reported context. -/
def State.reported (s : State) (n : Nat) : Option (Nat × Nat × Ctx) :=
  let x := s.card n
  let l := x.placed.map fun (k, c) => (k, c, s.leftOf n k c)
  if x.status = 1 then l.find? fun y => y.2.2.faultExit
  else if x.status = 2 then l.find? fun y => decide (y.2.2.dcause ≠ 0)
  else none

/-- R366: the dwords of the completion record. -/
def State.completion (s : State) (n : Nat) (j : Word) (repf : Bool) : List Dword :=
  let x := s.card n
  let y := s.stream x.die x.stream
  let l := x.placed.map fun (k, c) => (k, c, s.leftOf n k c)
  let r := s.reported n
  let ex := l.find? fun z => decide (z.2.2.exitStatus ≠ 0)
  let cause := match r with
    | none => 0
    | some z => (if x.status = 2 then z.2.2.dcause else z.2.2.cause).toNat % 256
  let b (v : Bool) (i : Nat) : Nat := if v then 2 ^ i else 0
  [BitVec.ofNat 64 n, (r.map fun z => z.2.2.tval).getD 0, (r.map fun z => z.2.2.tinfo).getD 0,
    BitVec.ofNat 64 ((ex.map fun z => z.2.2.exitStatus.toNat + z.1 * 2 ^ 11 + z.2.1 * 2 ^ 18).getD 0),
    BitVec.ofNat 64 (x.launchAt.getD 0), s.timebase, BitVec.ofNat 64 (x.user * 2 ^ 32 + x.die * 64 + x.stream),
    BitVec.ofNat 64
      (b (!j.getLsbD y.cqlog.toNat) 63 + x.status * 2 ^ 48 + cause * 2 ^ 40 + b x.memerr 39 + b (l.any fun z => decide (z.2.2.lost ≠ 0)) 38 +
        ((r.map fun z => z.1 * 2 ^ 31 + z.2.1 * 2 ^ 28).getD 0) + b repf 27)]

/-- R365 steps 1 and 2. A card that was rejected or skipped has nothing to clean. -/
def State.cleanCard (s : State) (n : Nat) : State :=
  let x := s.card n
  let s := (if x.rejected || decide (x.status = 11) then [] else x.writes).foldl (fun s r => (s.drainCard n r).cleanRange x.die x.asid r) s
  let s := if x.camt = 0 then s
    else (x.coresOf.foldl (fun s k => s.performWhere k true fun p => decide (p.card = n)) s).counterAdd x.die x.cctr (x.camt.setWidth 32)
  s.modCard n fun z => { z with cleaned := true, doneAt := s.timebase.toNat }

/-- R365: the Dispatcher has done with a card. -/
def State.closeCard (s : State) (n : Nat) : State :=
  let x := s.card n
  let s := x.placed.foldl (fun s (k, c) => s.modCtx k c fun z => if z.card = some n then { z with card := none } else z) s
  let clear (h : Hand) : Hand := if h.card = some n then { h with card := none } else h
  let s := x.coresOf.foldl (fun s k => s.modCore k fun q => { q with loadHand := clear q.loadHand, storeHand := clear q.storeHand }) s
  { s.modCard n (fun z => { z with st := .done, kept := [] }) with cardRecs := Tab.erase s.cardRecs n }

/-- R365 steps 3 and 4, R372: the completion record, the queue's index and the interrupt; the record may have to wait
(R379) (DEDUCED, log entry 34). -/
def State.recordCard (s : State) (n : Nat) (repf : Bool) : State :=
  let x := s.card n
  let y := s.stream x.die x.stream
  let l := (s.completion n y.cpi repf).flatMap dwordBytes
  let go (s : State) : State :=
    { s.setStream x.die x.stream { y with cpi := y.cpi + 1 } with irqs := s.irqs ++ [y.vec] }.closeCard n
  match s.devWrite x.die 0 (y.cqbase + BitVec.ofNat 64 (64 * (y.cpi.toNat % 2 ^ y.cqlog.toNat))) l with
  | .ok s => go s
  | .wait i => s.awaitDomain x.die i
  | _ => go s

/-- What cleaning a card waits for (R323, R379). -/
def State.cleanWait (s : State) (n : Nat) : Option Await :=
  let x := s.card n
  (x.coresOf.findSome? fun k => s.storesWait k true fun p => decide (p.card = n)).or
    (s.busyFor (x.writes.flatMap (s.dirtyIn x.die x.asid)))

/-- R365 steps 1 to 4; `lost` says that the report cannot be written (R368). What must wait leaves the steps after it to a later
attempt (DEDUCED, log entry 34). -/
def State.completeCard (s : State) (n : Nat) (lost : Bool) : State :=
  let x := s.card n
  let waits := if x.cleaned || x.rejected || decide (x.status = 11) then none else (x.writes.findSome? (s.rangeWait x.die x.asid)).or ((s.cleanWait n).map some)
  match waits with
  | some dom => s.awaitDomain x.die dom
  | none =>
    let s := if x.cleaned then s else s.cleanCard n
    if x.repaddr = 0 then s.recordCard n false
    else if lost then s.recordCard n true
    else
      match s.writeReport x.die x.asid
          (cutSectors x.repaddr.toNat (x.placed.flatMap fun (k, c) => (reportBlock (s.leftOf n k c)).flatMap dwordBytes)) with
      | .done s => s.recordCard n false
      | .bad s => s.recordCard n true
      | .wait s i => s.awaitDomain x.die i

/-- R360, R365: a card completes: it has ended, was rejected, or is skipped at its admission. -/
def State.cardEnds (s : State) (n : Nat) (lost : Bool) : State :=
  let x := s.card n
  if !Tab.has s.cards n || decide (x.st = .done) then s
  else if x.rejected || x.cleaned then s.completeCard n lost
  else if s.admissible n && s.skipped n then (s.modCard n fun y => { y with status := 11 }).completeCard n lost
  else if s.finished n then s.completeCard n lost
  else s

/-- R360, R365: a card completes. -/
def execCardComplete (card : Nat) (s : State) : Host.Outcome State Fault Refusal := .next (s.cardEnds card false)

/-- R365: a card has run longer than WDRUN; it fails, and TEARDOWN tears it down. -/
def execWdrunExpiry (card : Nat) (s : State) : Host.Outcome State Fault Refusal :=
  .next (let x := s.card card
    if x.st = .running && decide (x.wdrun ≠ 0) && decide (x.status = 0) && decide (s.failStatus card = 0) &&
        decide (x.wdrun * 2 ^ 20 < x.ranFor + (s.timebase.toNat - x.runSince)) then
      s.setCard card { x with status := 10 }
    else s)

end Sys2Proof.Machine
end

