-- ==== Sys2Proof/Machine/Paging.lean ====
section
/-! DEFINITION. The page service: requests (R346, R347), copy-on-write (R348), moves (R349 to R351) and shootdown points
(R344). -/

namespace Sys2Proof.Machine

/-! ### Leaf entries -/

/-- R338: the leaf of a page in a space, as the tables hold it. -/
def State.leafOf (s : State) (asid : BitVec 16) (va : Dword) : Look :=
  if va.toNat / 2 ^ 52 ≠ 0 then .bad
  else
    match s.rootAddr (s.space 0 asid) with
    | none => .bad
    | some root => s.walk noWalkCache root va.toNat

/-- R338: the level-2 entry of a page, valid or not, when its table exists. -/
def State.leafPlace (s : State) (asid : BitVec 16) (va : Nat) : Look :=
  if va / 2 ^ 52 ≠ 0 then .bad
  else
    match s.rootAddr (s.space 0 asid) with
    | none => .bad
    | some root =>
      s.entryFor none (root + 8 * bits va 51 40) fun e0 =>
        match s.pointer e0 with
        | none => .bad
        | some t1 =>
          s.entryFor none (t1 + 8 * bits va 39 28) fun e1 =>
            match s.pointer e1 with
            | none => .bad
            | some t2 =>
              let a := t2 + 8 * bits va 27 16
              s.entryFor none a fun e2 => .leaf ⟨e2, a, false⟩

/-- The page service writes an entry. -/
def State.putEntry (s : State) (a : Nat) (e : Dword) : State :=
  s.writeModule (((List.range 8).map (a + ·)).zip (dwordBytes e))

/-- R344: the page service changes an entry with V = 1, and no translation cache holds its copy. -/
def State.changeEntry (s : State) (a : Nat) (e : Dword) : State := (s.dropEntry a).putEntry a e

/-- 64 KiB pages of a leaf. -/
def leafPages (big : Bool) : Nat := if big then 4096 else 1

/-- An entry with bits set and cleared. -/
def entBits (e set clear : Dword) : Dword := (e &&& ~~~clear) ||| set
def bW : Dword := 0x20
def bCow : Dword := 0x80
def bShr : Dword := 0x100
def bRun : Dword := 0x800
def bMov : Dword := 0x600
def bTier : Dword := 0xC
def movBits (n : Nat) : Dword := BitVec.ofNat 64 (n * 512)
def tierBits (n : Nat) : Dword := BitVec.ofNat 64 (n * 4)

/-! ### Frames (R345) -/

/-- A frame word as the frame table holds it. -/
def Frame.word (f : Frame) : Nat := (if f.pin then 2 ^ 17 else 0) + (if f.table then 2 ^ 16 else 0) + f.refc % 2 ^ 16

/-- R345: the tier and the number in it of a frame. -/
def frameTier (f : Nat) : Nat × Nat :=
  if f < 2 ^ 23 then (0, f) else if f < 2 ^ 36 then (1, f - 2 ^ 23) else (2, f - 2 ^ 36)

/-- R345: writes a frame's word in the frame table of its tier, which the driver reads; where the write must wait, the table
takes the word later (`State.landLate`). -/
def State.showFrame (s : State) (f : Nat) : State :=
  let (tier, i) := frameTier f
  let rest := s.lateFrames.filter fun g => decide (g ≠ f)
  if Tab.has s.frameTab tier then
    match s.devWrite 0 0 (Tab.get 0 s.frameTab tier + BitVec.ofNat 64 (4 * i)) (leBytes 4 (s.frame f).word) with
    | .ok s' => { s' with lateFrames := rest }
    | .wait d => { s.awaitDomain 0 d with lateFrames := rest ++ [f] }
    | _ => { s with lateFrames := rest ++ [f] }
  else { s with lateFrames := rest }

/-- R345: the page service gives a frame its word. -/
def State.putFrame (s : State) (f : Nat) (x : Frame) : State := (s.setFrame f x).showFrame f

/-- R345: the place of a tier's frame table is set: the table takes the words of the tier's frames. -/
def State.setFrameTable (s : State) (tier : Nat) (v : Dword) : State :=
  ((s.frames.map Prod.fst).filter fun f => decide ((frameTier f).1 = tier)).foldl (fun s f => s.showFrame f)
    { s with frameTab := Tab.put s.frameTab tier v }

/-- Sets REFC of the frames of a page at a physical place. -/
def State.setRefs (s : State) (b pages : Nat) (n : Nat) : State :=
  (List.range pages).foldl (fun s i => s.putFrame (frameOf b + i) { s.frame (frameOf b + i) with refc := n }) s

/-- A move in progress brings a page into one of `pages` frames from physical place `b` on. -/
def State.arriving (s : State) (b pages : Nat) : Bool :=
  s.moves.any fun m =>
    match s.frameBase m.dstTier.toNat m.dstFrame.toNat (leafPages m.big) with
    | some nb => decide (frameOf nb < frameOf b + pages) && decide (frameOf b < frameOf nb + leafPages m.big)
    | none => false

/-- R345: a frame of a tier that the service may allocate, as its physical place: free, not the goal of a move, and for a
256 MiB page a multiple of 4,096 (R340) (DESIGN CHOICE, log entry 31). -/
def State.freeFrame (s : State) (tier : Nat) (f : BitVec 36) (pages : Nat) : Option Nat :=
  match s.frameBase tier f.toNat pages with
  | none => none
  | some b =>
    if decide (f.toNat % pages = 0) && (List.range pages).all (fun i =>
        let w := s.frame (frameOf b + i)
        decide (w.refc = 0) && !w.pin && !w.table) && !s.arriving b pages
    then some b else none

/-- No number below `n` passes a test. -/
def noneBelow (p : Nat → Bool) : Nat → Bool
  | 0 => true
  | n + 1 => !p n && noneBelow p n

/-- R347, R348: no frame of a tier is free for a page. -/
def State.tierFull (s : State) (tier pages : Nat) : Bool :=
  noneBelow (fun f => (s.freeFrame tier (BitVec.ofNat 36 f) pages).isSome)
    (match tier with | 0 => 2 ^ 23 | 1 => 2 ^ 25 | 2 => 2 ^ 36 | _ => 0)

/-- R344: the bytes that a test picks of those that transfers have moved and not written: the translation by which they were
moved is no longer in use. -/
def State.forgetMoved (s : State) (p : Transfer → PendByte → Bool) : State :=
  { s with
    cores := s.cores.map fun (k, q) =>
      (k, if q.transfers.all fun t => !t.pending.any (p t) then q
        else { q with
          transfers := q.transfers.map fun t =>
            { t with pending := t.pending.map fun x => if p t x then { x with pa := none } else x } }) }

/-- A byte of a physical range. -/
def inRange (b n a : Nat) : Bool := decide (b ≤ a) && decide (a < b + n)

/-- R344: every access made through the old entries of a physical range has performed at module scope. -/
def State.drainRange (s : State) (b n : Nat) : State :=
  let s := s.cores.foldl (fun s (k, _) => s.performWhere k true fun p => p.bytes.any fun x => inRange b n x.1) s
  ([0, 1].foldl (fun s d => s.cleanLines d (((s.die d).l2.map Prod.fst).filter (inRange b n))) s).forgetMoved fun _ x =>
    (x.pa.map (inRange b n)).getD false

/-- What those accesses wait for (R323, R379). -/
def State.drainWait (s : State) (b n : Nat) : Option Await :=
  (s.cores.findSome? fun (k, _) => s.storesWait k true fun p => p.bytes.any fun x => inRange b n x.1).or
    (([0, 1] : List Nat).findSome? fun d => s.linesWait d (((s.die d).l2.map Prod.fst).filter (inRange b n)))

/-- R344: the accesses that translated through an entry have performed: those to the frame that it names, and to the one
that its run's first entry gave it. -/
def State.drainLeaf (s : State) (l : Leaf) : State :=
  [l.ent, s.runEntry l].foldl (fun s e =>
    match s.frameBase (entTier e) (entFrame e) (leafPages l.big) with
    | some b => s.drainRange b (65536 * leafPages l.big)
    | none => s) s

/-- What a change of the leaf waits for (R323, R379). -/
def State.leafWait (s : State) (l : Leaf) : Option Await :=
  (s.pageWait l.at_ 8).or (([l.ent, s.runEntry l] : List Dword).findSome? fun e =>
    (s.frameBase (entTier e) (entFrame e) (leafPages l.big)).bind fun b => s.drainWait b (65536 * leafPages l.big))

/-- R345: a change of an entry is in progress, or its shootdown point awaited; the next one waits. -/
def State.entryBusy (s : State) (l : Leaf) : Bool := decide (entMov l.ent ≠ 0) || s.moves.any fun m => decide (m.at_ = l.at_)

/-- Copies `n` bytes between physical places, with their poison (R334). -/
def State.copyPage (s : State) (src dst n : Nat) : State :=
  let keep := s.mem.filter fun x => !(decide (dst ≤ x.1) && decide (x.1 < dst + n))
  let moved := (s.mem.filter fun x => decide (src ≤ x.1) && decide (x.1 < src + n)).map fun x => (x.1 - src + dst, x.2)
  let poison := s.poison.filter fun u => !(decide (dst / 64 ≤ u) && decide (u < (dst + n) / 64))
  let bad := (s.poison.filter fun u => decide (src / 64 ≤ u) && decide (u < (src + n) / 64)).map fun u => u - src / 64 + dst / 64
  { s with mem := moved.foldl (fun (m : Mem) (x : Nat × Byte) => m.write x.1 x.2) keep, poison := poison ++ bad }

/-! ### Replay and refusal (R301, R348 step 4) -/

/-- The page service has done with a party. -/
def State.served (s : State) (w : Waits) : State :=
  match w with
  | .ctx k c =>
    let x := s.ctx k c
    if x.server = .pageService then
      if x.st = .trapped then s.eret k c
      else if x.st = .halted then s.modCtx k c fun x => { x with owed := false, server := .none }
      else s
    else s
  | _ => s

/-- The Vault command, the stage or the transfer of a party ends with an error. -/
def State.loseTransfer (s : State) (k ch : Nat) (id : Dword) (c : Cause) (pay : List Dword) : State :=
  let cmd := s.vaults.findSome? fun (v, x) =>
    (x.cmds.find? fun y => decide (y.src = .transfer k ch id)).map fun y => (v, y)
  match cmd with
  | some (v, y) => s.finishCmd v y (some (c, pay))
  | none =>
    match (s.die (dieOf k)).stages.find? fun y =>
        decide (y.k = k) && decide (y.ch = ch) && decide (y.id = id) && y.by_.ctx?.isSome with
    | some st => s.endStage (dieOf k) st c pay
    | none =>
      match (s.core k).findTransfer ch id with
      | some t => s.abortTransfer k t c pay
      | none => s

/-- R276, R301, R348: the page service declines. A context enters its handler; a transfer, a hand, a work entry, or a
command of another module ends with the fault; so does the entry of a parked chunk, which is discarded (DESIGN CHOICE, log entry 31). -/
def State.refused (s : State) (r : PageReq) : State :=
  let cause : Cause := if r.cow then .cowWrite else .pageAbsent
  match r.who with
  | .ctx k c =>
    let x := s.ctx k c
    if x.server = .pageService then
      if x.st = .trapped then
        s.enterTrap k c
          { cause, tval := r.va, epcb := x.epcb, slotres := x.slotres.toNat, baddr := x.epcb, async := false, slot := x.slotres.toNat
            psvc := true }
      else if x.st = .halted then
        s.modCtx k c fun x => { x with owed := false, server := .none, declined := some (cause, r.va) }
      else s
    else s
  | .transfer k ch id => s.loseTransfer k ch id cause [r.va]
  | .hand k h => if (s.hand k h).running then s.handFault k h cause r.va else s
  | .entry d qp eseq =>
    (match (s.die d).stages.find? fun y => decide (y.by_ = .entry d qp eseq) with
      | some st => s.endStage d st cause [r.va]
      | none => s.modEntry d qp eseq fun e => { e with fail := some (failCause cause) })
  | .chunk id c =>
    (match s.parkedChunks.find? fun m => decide (m.id = id) && decide (m.c = c) with
      | some m => { s with parkedChunks := s.parkedChunks.erase m }.ackChunk m 0 (some cause)
      | none => s)
  | .command v order =>
    (match (s.vault v).cmd order with
      | some c => s.finishCmd v c (some (cause, [r.va]))
      | none => s)
  | .device => s

/-- A request leaves the list. -/
def State.dropReq (s : State) (r : PageReq) : State := { s with pageReqs := s.pageReqs.filter fun y => !decide (y = r) }

/-- R351: everyone who waits for a page of a leaf. -/
def State.replay (s : State) (asid : BitVec 16) (va : Dword) (big : Bool) : State :=
  let sz := if big then 2 ^ 28 else 2 ^ 16
  let mine (r : PageReq) : Bool := decide (r.asid = asid) && decide (r.va.toNat / sz = va.toNat / sz)
  let l := s.pageReqs.filter mine
  l.foldl (fun s r => s.served r.who) { s with pageReqs := s.pageReqs.filter fun r => !mine r }

/-! ### Copy-on-write (R348) -/

/-- R348 steps 1 to 3: how a leaf that a write found with COW stands: nothing to do, the frame is the entry's alone, or it
is shared. -/
inductive CowLeaf where
  | settled
  | alone (l : Leaf) (b : Nat)
  | shared (l : Leaf) (b : Nat)
  deriving DecidableEq, Repr

def State.cowLeaf (s : State) (l : Leaf) : CowLeaf :=
  if !entCow l.ent || l.big then .settled
  else
    match s.frameBase (entTier l.ent) (entFrame l.ent) 1 with
    | none => .settled
    | some b => if (s.frame (frameOf b)).refc = 1 then .alone l b else .shared l b

/-- R348: the entry of a page that may be written. -/
def ownEntry (e : Dword) : Dword := entBits e bW (bCow ||| bShr)

/-- R348: the page service handles the n-th request that waits; `pick` is the frame that it allocates. It declines when no
frame is free; a change of the entry that is in progress comes first (R345). -/
def execCowService (n : Nat) (pick : Option (BitVec 36)) (s : State) : Host.Outcome State Fault Refusal :=
  .next (match s.pageReqs[n]? with
    | none => s
    | some r =>
      if !r.cow then s
      else
        let done (s : State) : State := (s.dropReq r).served r.who
        match s.leafOf r.asid r.va with
        | .wait i => s.awaitDomain 0 i
        | .bad => done s
        | .leaf l =>
          if s.entryBusy l then s
          else
            match s.cowLeaf l with
            | .settled => done s
            | .alone l b =>
              s.unlessBusy 0 (s.leafWait l) (done ((s.drainRange b 65536).changeEntry l.at_ (ownEntry l.ent)))
            | .shared l b =>
              match pick with
              | none => if s.tierFull (entTier l.ent) 1 then (s.dropReq r).refused r else s
              | some p =>
                match s.freeFrame (entTier l.ent) p 1 with
                | none => s
                | some nb =>
                  let f := s.frame (frameOf b)
                  let s0 := s
                  let s := ((s.drainRange b 65536).copyPage b nb 65536).changeEntry l.at_ (entSetFrame (ownEntry l.ent) p.toNat)
                  s0.unlessBusy 0 (((s0.leafWait l).or (s0.pageWait b 65536)).or (s0.pageWait nb 65536))
                    (done ((s.putFrame (frameOf b) { f with refc := f.refc - 1 }).setRefs nb 1 1)))

/-! ### Moves (R349 to R351) -/

/-- R351 step 1: a move of a leaf begins; a long one tells the host. -/
def State.beginPageMove (s : State) (d : Nat) (asid : BitVec 16) (va : Dword) (l : Leaf) (tier : Nat) (f : BitVec 36)
    (req : Option Nat) : State :=
  let long := l.big || decide (entTier l.ent = 3) || decide (tier = 3)
  let m : PageMove :=
    { asid, va, long, srcTier := BitVec.ofNat 2 (entTier l.ent), srcFrame := BitVec.ofNat 36 (entFrame l.ent)
      dstTier := BitVec.ofNat 2 tier, dstFrame := f, req, at_ := l.at_, big := l.big, step := 0 }
  let s := s.putEntry l.at_ (entBits l.ent (movBits (if long then 2 else 1)) bMov)
  let s := { s with moves := s.moves ++ [m] }
  if long then s.event d 4 none (some va) none else s

/-- The die whose event queue hears of a move that a request started. -/
def Waits.die (w : Waits) : Nat :=
  match w with
  | .ctx k _ | .transfer k _ _ | .hand k _ => dieOf k
  | .entry d _ _ => d
  | .command v _ => vaultDie v
  | .chunk _ _ | .device => 0

/-- R350: the page service handles the n-th request that waits for an absent page; `pick` is the frame that it allocates. It
declines where the space has no default tier or the tier is full (DESIGN CHOICE, log entry 31). -/
def execPageAbsentService (n : Nat) (pick : Option (BitVec 36)) (s : State) : Host.Outcome State Fault Refusal :=
  .next (match s.pageReqs[n]? with
    | none => s
    | some r =>
      if r.cow then s
      else
        match s.leafOf r.asid r.va with
        | .wait i => s.awaitDomain 0 i
        | .bad => (s.dropReq r).served r.who
        | .leaf l =>
          if s.entryBusy l then s
          else if entTier l.ent ≠ 3 then (s.dropReq r).served r.who
          else
            let tier := (Tab.get 3 s.defaultTier r.asid.toNat).toNat
            if tier = 3 then (s.dropReq r).refused r
            else
              match pick with
              | none => if s.tierFull tier (leafPages l.big) then (s.dropReq r).refused r else s
              | some f =>
                if (s.freeFrame tier f (leafPages l.big)).isNone then s
                else s.unlessBusy 0 (s.pageWait l.at_ 8) (s.beginPageMove r.who.die r.asid r.va l tier f none))

/-- R351 step 3: the entry with its new place and MOV 0b00; its other bits are kept. -/
def PageMove.newEntry (m : PageMove) (e : Dword) : Dword :=
  entSetFrame (entBits e (tierBits m.dstTier.toNat) (bMov ||| bTier)) m.dstFrame.toNat

def PageMove.size (m : PageMove) : Nat := if m.big then 2 ^ 28 else 2 ^ 16
/-- The physical place of the old, or of the new, frame; none in the absent tier. -/
def State.moveSrc (s : State) (m : PageMove) : Option Nat := s.frameBase m.srcTier.toNat m.srcFrame.toNat (leafPages m.big)
def State.moveDst (s : State) (m : PageMove) : Option Nat := s.frameBase m.dstTier.toNat m.dstFrame.toNat (leafPages m.big)

/-! ### Requests (R346, R347) -/

def rqOp (l : List Dword) : Nat := ((dw l 0).extractLsb' 60 4).toNat
def rqDtier (l : List Dword) : Nat := ((dw l 0).extractLsb' 58 2).toNat
def rqDasid (l : List Dword) : BitVec 16 := (dw l 0).extractLsb' 40 16
def rqSasid (l : List Dword) : BitVec 16 := (dw l 0).extractLsb' 24 16
def rqPages (l : List Dword) : Nat := ((dw l 0).extractLsb' 0 24).toNat + 1
def rqSva (l : List Dword) (i : Nat) : Dword := dw l 1 + BitVec.ofNat 64 (65536 * i)
def rqDva (l : List Dword) (i : Nat) : Dword := dw l 2 + BitVec.ofNat 64 (65536 * i)

/-- R346, R376: WHY 1. -/
def State.rqBad (s : State) (l : List Dword) : Bool :=
  let op := rqOp l
  let va (w : Dword) : Bool := decide (w.extractLsb' 52 12 ≠ 0) || decide (w.extractLsb' 0 16 ≠ 0)
  !(decide (1 ≤ op) && decide (op ≤ 4)) || decide ((dw l 0).extractLsb' 56 2 ≠ 0) || (decide (op ≠ 3) && decide (rqDtier l ≠ 0)) ||
    va (dw l 1) || va (dw l 2) || ((decide (op = 3) || decide (op = 4)) && decide (dw l 2 ≠ 0)) ||
    (decide (op = 1) && !s.accepted 6) || (decide (op = 3) && decide (rqDtier l = 2) && !s.accepted 7)

/-- R346: a request ends with its status, which may have to wait (R379). -/
def State.rqEnd (s : State) (d : Nat) (a : Dword) (why n : Nat) : State :=
  let w := (if why = 0 then 2 ^ 63 else 2 ^ 62 + why * 2 ^ 48) + n % 2 ^ 24
  match s.devWrite d 0 (a + 24) (leBytes 8 w) with
  | .wait i => (s.awaitDomain d i).modDie d fun x => { x with pq := { x.pq with ending := some (why, n) } }
  | .ok s => s.modDie d fun x => { x with pq := { x.pq with cur := none, ending := none } }
  | _ => s.modDie d fun x => { x with pq := { x.pq with cur := none, ending := none } }

/-- The request that a die's page service is handling, started if need be (R346); one whose status waits ends first. -/
def State.rqWith (s : State) (d : Nat) (go : State → Dword → List Dword → Nat → State) : State :=
  let q := (s.die d).pq
  match q.cur, q.ending with
  | some (a, _, _), some (why, n) => s.rqEnd d a why n
  | some (a, l, n), none => if s.rqBad l then s.rqEnd d a 1 n else go s a l n
  | none, _ =>
    if q.ppi = q.pci ∨ !(decide (4 ≤ q.pqlog.toNat) && decide (q.pqlog.toNat ≤ 12)) then s
    else
      let a := q.pqbase + BitVec.ofNat 64 (32 * (q.pci.toNat % 2 ^ q.pqlog.toNat))
      match s.devRead d 0 a 24 with
      | .ok b =>
        let l := bytesDwords b
        let s := s.modDie d fun x => { x with pq := { q with pci := q.pci + 1, cur := some (a, l, 0) } }
        if s.rqBad l then s.rqEnd d a 1 0 else go s a l 0
      | .wait i => s.awaitDomain d i
      | _ => s

/-- R347: `n` pages of a request are done. -/
def State.rqStep (s : State) (d : Nat) (a : Dword) (l : List Dword) (n : Nat) : State :=
  if n = rqPages l then s.rqEnd d a 0 n else s.modDie d fun x => { x with pq := { x.pq with cur := some (a, l, n) } }

/-- A page of a request: done, stopped with a WHY code, or not yet. -/
inductive PageRes where
  | done (s : State)
  | why (n : Nat)
  | later (s : State)

/-- R346: one page of the request in hand, when it has the operation; one that breaks a rule ends. -/
def State.request (s : State) (d op : Nat) (f : State → List Dword → Nat → PageRes) : State :=
  s.rqWith d fun s' a l n =>
    if rqOp l ≠ op then s
    else
      match f s' l n with
      | .done s'' => s''.rqStep d a l (n + 1)
      | .why w => s'.rqEnd d a w n
      | .later s'' => s''

/-- R347: what a page of a request does with the valid leaf that it must have. -/
def State.onLeaf (s : State) (d : Nat) (asid : BitVec 16) (va : Dword) (f : Leaf → PageRes) : PageRes :=
  match s.leafOf asid va with
  | .bad => .why 2
  | .wait i => .later (s.awaitDomain d i)
  | .leaf l => if s.entryBusy l then .later s else f l

/-- The physical place of a leaf's frame. -/
def State.leafFrame (s : State) (l : Leaf) : Option Nat := s.frameBase (entTier l.ent) (entFrame l.ent) (leafPages l.big)

/-- R347: clears RUN on the 32 entries of a run. -/
def State.clearRun (s : State) (l : Leaf) : State :=
  if entRun l.ent then
    (List.range 32).foldl (fun s i =>
      let a := l.at_ - l.at_ % 256 + 8 * i
      (s.drainLeaf ⟨s.entryAt a, a, false⟩).changeEntry a (s.entryAt a &&& ~~~bRun)) s
  else s

/-- What that waits for. -/
def State.runWait (s : State) (l : Leaf) : Option Await :=
  if entRun l.ent then
    (List.range 32).findSome? fun i =>
      let a := l.at_ - l.at_ % 256 + 8 * i
      s.leafWait ⟨s.entryAt a, a, false⟩
  else none

/-- A page of a request that must wait is tried again later. -/
def PageRes.unlessBusy (s : State) (d : Nat) (w : Option Await) (go : PageRes) : PageRes :=
  match w with
  | some _ => .later (s.awaitDomain d w)
  | none => go

/-- R347: the entry that SHARE leaves at its source and its destination. -/
def sharedEntry (e : Dword) : Dword := entBits e ((if entW e || entCow e then bCow else 0) ||| bShr) (bW ||| bRun)

/-- R347: SHARE. -/
def execShare (d : Nat) (s : State) : Host.Outcome State Fault Refusal :=
  .next (s.request d 1 fun s r n =>
    s.onLeaf d (rqSasid r) (rqSva r n) fun l =>
      match if l.big then none else s.leafFrame l with
      | none => .why 2
      | some b =>
        let f := s.frame (frameOf b)
        match s.leafPlace (rqDasid r) ((dw r 2).toNat + 65536 * n) with
        | .bad => .why 3
        | .wait i => .later (s.awaitDomain d i)
        | .leaf da =>
          if entV da.ent then .why 3
          else if 65535 ≤ f.refc then .why 4
          else if s.tableFrame (rqSva r n).toNat b || f.pin then .why 5
          else
            PageRes.unlessBusy s d (((s.runWait l).or (s.leafWait l)).or (s.pageWait da.at_ 8)) <|
            let s := (s.clearRun l).drainLeaf l
            .done (((s.changeEntry l.at_ (sharedEntry l.ent)).putEntry da.at_ (sharedEntry l.ent)).putFrame (frameOf b)
              { f with refc := f.refc + 1 }))

/-- R347: UNSHARE; a leaf of the absent tier has no frame. -/
def execUnshare (d : Nat) (s : State) : Host.Outcome State Fault Refusal :=
  .next (s.request d 2 fun s r n =>
    s.onLeaf d (rqDasid r) (rqDva r n) fun l =>
      if l.big then .why 2
      else
        PageRes.unlessBusy s d (s.leafWait l) <|
        let s := (s.drainLeaf l).changeEntry l.at_ 0
        match s.leafFrame l with
        | none => .done s
        | some b =>
          let f := s.frame (frameOf b)
          let s := s.putFrame (frameOf b) { f with refc := f.refc - 1 }
          .done (if f.refc ≤ 1 then s.event d 1 none (some (BitVec.ofNat 64 (entFrame l.ent))) none else s))

/-- R347, R351: MIGRATE; `pick` is the frame that the service allocates, none when the tier is full (WHY 7). -/
def execMigrate (d : Nat) (pick : Option (BitVec 36)) (s : State) : Host.Outcome State Fault Refusal :=
  .next (s.request d 3 fun s r n =>
    if s.moves.any fun m => decide (m.req = some d) then .later s
    else
      s.onLeaf d (rqSasid r) (rqSva r n) fun l =>
        let tier := rqDtier r
        let fs : List Nat := match s.leafFrame l with
          | some b => (List.range (leafPages l.big)).map fun i => b + 65536 * i
          | none => []
        if fs.isEmpty && decide (entTier l.ent ≠ 3) then .why 2
        else if (List.range fs.length).any fun i =>
            s.tableFrame ((rqSva r n).toNat + 65536 * i) (fs.getD i 0) || (s.frame (frameOf (fs.getD i 0))).pin then .why 5
        else if fs.any fun b => decide ((s.frame (frameOf b)).refc ≠ 1) then .why 6
        else
          PageRes.unlessBusy s d (s.pageWait l.at_ 8) <|
          match tier, pick with
          | 3, _ => .later (s.beginPageMove d (rqSasid r) (rqSva r n) l 3 0 (some d))
          | _, none => if s.tierFull tier (leafPages l.big) then .why 7 else .later s
          | _, some f =>
            if (s.freeFrame tier f (leafPages l.big)).isNone then .later s
            else .later (s.beginPageMove d (rqSasid r) (rqSva r n) l tier f (some d)))

/-- R344: a copy of a space's pages, or of an upper-level entry over them, in a range of virtual addresses. -/
def TlbEnt.within (e : TlbEnt) (asid : BitVec 16) (lo hi : Nat) : Bool :=
  decide (e.tag = some asid) && decide (e.region * e.pages * 65536 < hi) && decide (lo < (e.region + 1) * e.pages * 65536)
def WalkEnt.within (e : WalkEnt) (asid : BitVec 16) (lo hi : Nat) : Bool :=
  let sz := if e.level = 0 then 2 ^ 40 else 2 ^ 28
  decide (e.tag = some asid) && decide (e.idx * sz < hi) && decide (lo < (e.idx + 1) * sz)

/-- R347, R357: INVAL: the shootdown of the pages, whose cached kernel headers go too (DESIGN CHOICE, log entry 31). -/
def execInval (d : Nat) (s : State) : Host.Outcome State Fault Refusal :=
  .next (s.rqWith d fun s' a l _ =>
    if rqOp l ≠ 4 then s
    else
      let lo := (dw l 1).toNat
      let hi := lo + 65536 * rqPages l
      let hit (p : PStore) : Bool :=
        decide ((s.card p.card).asid = rqSasid l) && decide (p.va.toNat < hi) && decide (lo < p.va.toNat + p.bytes.length)
      s'.unlessBusy d (s'.cores.findSome? fun (k, _) => s'.storesWait k true hit) <|
      let s' := s'.cores.foldl (fun s (k, _) => s.performWhere k true hit) s'
      let s' := s'.forgetMoved fun t x => decide ((s.card t.card).asid = rqSasid l) && decide (lo ≤ x.va) && decide (x.va < hi)
      let s' := s'.dropCopies (fun e => e.within (rqSasid l) lo hi) fun e => e.within (rqSasid l) lo hi
      let drop (x : Die) : Die :=
        { x with
          disp := { x.disp with
            kcache := x.disp.kcache.filter fun y =>
              !(decide (y.1 = rqSasid l) && decide (lo ≤ y.2.1.toNat) && decide (y.2.1.toNat < hi)) } }
      ((s'.modDie 0 drop).modDie 1 drop).rqEnd d a 0 (rqPages l))

/-- R346, R351: a move ends; the request that asked for it goes on, or ends with WHY 8. -/
def State.moveOver (s : State) (n : Nat) (m : PageMove) (ok : Bool) : State :=
  let s := { s with moves := s.moves.eraseIdx n }
  let s := match m.req with
    | none => s
    | some d =>
      match (s.die d).pq.cur with
      | some (a, l, i) => if ok then s.rqStep d a l (i + 1) else s.rqEnd d a 8 i
      | none => s
  s.replay m.asid m.va m.big

/-- R344, R351: the shootdown point of the n-th change is reached. -/
def execShootdownPoint (n : Nat) (s : State) : Host.Outcome State Fault Refusal :=
  .next (match s.moves[n]? with
    | none => s
    | some m =>
      let src := s.moveSrc m
      match m.step with
      | 0 =>
        let l : Leaf := ⟨s.entryAt m.at_, m.at_, m.big⟩
        let copyWait := if m.long then none else (([src, s.moveDst m] : List (Option Nat)).findSome? fun b => b.bind fun b => s.pageWait b m.size)
        s.unlessBusy 0 ((s.leafWait l).or copyWait) <|
        let s := (s.drainLeaf l).dropEntry m.at_
        if m.long then { s with moves := setAt s.moves n { m with step := 1 } }
        else
          (match src, s.moveDst m with
            | some b, some nb =>
              { (s.copyPage b nb m.size).putEntry m.at_ (m.newEntry (s.entryAt m.at_)) with
                moves := setAt s.moves n { m with step := 2 } }
            | _, _ => s)
      | 2 =>
        let s := s.dropEntry m.at_
        let s := match src with
          | some b => s.setRefs b (leafPages m.big) 0
          | none => s
        let s := match s.moveDst m with
          | some nb => s.setRefs nb (leafPages m.big) 1
          | none => s
        s.moveOver n m true
      | _ => s)

/-- R350, R351: the host has copied the page of a long move, bringing its bytes when it was absent, or its handle when it is
absent from now on (R340), or declines. -/
def execLongMoveHostDone (n : Nat) (ok : Bool) (data : HostPage) (s : State) : Host.Outcome State Fault Refusal :=
  .next (match s.moves[n]? with
    | none => s
    | some m =>
      let e := s.entryAt m.at_
      if m.step ≠ 1 then s
      else
      s.unlessBusy 0 ((s.pageWait m.at_ 8).or
        (if ok then (([s.moveSrc m, s.moveDst m] : List (Option Nat)).findSome? fun b => b.bind fun b => s.pageWait b m.size) else none)) <|
      if !ok then (s.putEntry m.at_ (entBits e 0 bMov)).moveOver n m false
      else
        let m := if m.dstTier = 3 then { m with dstFrame := data.handle } else m
        let s := match s.moveSrc m, s.moveDst m with
          | some b, some nb => s.copyPage b nb m.size
          | none, some nb =>
            let s := { s with
              mem := s.mem.filter fun x => !(decide (nb ≤ x.1) && decide (x.1 < nb + m.size))
              poison := s.poison.filter fun u => !(decide (nb / 64 ≤ u) && decide (u < (nb + m.size) / 64)) }
            s.writeModule ((data.bytes.filter fun (x : Nat × Byte) => decide (x.1 < m.size)).map fun (x : Nat × Byte) => (nb + x.1, x.2))
          | _, none => s
        { s.putEntry m.at_ (m.newEntry e) with moves := setAt s.moves n { m with step := 2 } })

/-- R346, R373: the driver posts requests. -/
def execPageQueuePost (d : Nat) (ppi : Dword) (s : State) : Host.Outcome State Fault Refusal :=
  .next (if s.siltin = .ready then s.modDie d fun x => { x with pq := { x.pq with ppi } } else s)

end Sys2Proof.Machine
end

