-- ==== Sys2Proof/Machine/Fabric.lean ====
section
/-! DEFINITION. The links (R368), module reset and bring-up (R375, R384), power, temperature and wear (R378 to R383), the
host's register and memory writes (R369 to R373). -/

namespace Sys2Proof.Machine

/-! ### Links (R368) -/

/-- R368: a replayed flit is delivered once and in order; nothing that an agent sees changes. -/
def execFlitReplay (_link : Nat) (s : State) : Host.Outcome State Fault Refusal := .next s

/-- The error that a lost packet reports. -/
def lostCause (memErr : Bool) : Cause := if memErr then .memoryError else .remoteError

/-- R334: a committed store is lost: the die's event queue and the card's report say so. -/
def State.storeLost (s : State) (k : Nat) (p : PStore) : State :=
  let s := s.modCore k fun q => { q with stores := q.stores.filter fun x => !decide (x.ord = p.ord) }
  (s.event (dieOf k) 5 (some ((p.bytes.head?.map fun x => physSource x.1).getD 0)) (some p.va) none).modCard p.card fun c =>
    { c with memerr := true }

/-- R334: a line that the L2 of die `d` writes back is lost: the stores in it are, or the event queue alone says so. -/
def State.lineLost (s : State) (d a : Nat) : State :=
  let mine (u : Nat) : Bool := decide (u / 64 = a / 64)
  let l := s.cores.flatMap fun (k, q) =>
    if dieOf k = d then (q.stores.filter fun p => decide (p.level = .die) && p.bytes.any fun x => mine x.1).map fun p => (k, p) else []
  if !(s.die d).l2.any fun x => mine x.1 then s
  else
    let s := s.modDie d fun x => { x with l2 := x.l2.filter fun y => !mine y.1 }
    if l.isEmpty then s.event d 5 (some (physSource a)) none none else l.foldl (fun s x => s.storeLost x.1 x.2) s

/-- R357: the card that the Dispatcher of die `d` reads next cannot be read. -/
def State.cardLost (s : State) (d : Nat) : State :=
  if s.siltin ≠ .ready then s
  else
    match s.nextStream d with
    | some n => s.enterCard d n { die := d, stream := n, dw := [] } 8 [] 0
    | none => s

/-- R315, R316: the save or the restore of a context fails; no reason and no address is given for it. -/
def State.saveLost (s : State) (k c : Nat) : State :=
  let x := s.ctx k c
  match x.card with
  | none => s
  | some n =>
    if x.restoring && !x.restored then s.event (dieOf k) 3 (some k) none none
    else if x.st = .halted && x.evicted && !x.saveFailed && s.saveReady n k c then
      (match s.saveBegun n k c with
        | .ok s => s.saveFails k c none
        | _ => s.saveFails k c none)
    else s

/-- R368: what the loss of a message ends: the stage, or the work entry, that awaits it or its answer; a notification's transfer
is over, and its record tells its issuer. -/
def State.messageLost (s : State) (m : Msg) : State :=
  let stage (s : State) (d uid : Nat) : State :=
    match (s.die d).stages.find? fun y => decide (y.uid = uid) with
    | some st => s.endStage d st .remoteError []
    | none => s
  let entry (s : State) (id : EntryId) : State :=
    s.modEntry id.die id.qp id.eseq fun e => { e with fail := some .remoteError }
  match m with
  | .notify _ _ _ _ k c ch id src card baddr =>
    s.sendRecord card k c { cause := .remoteError, trap := true, src := BitVec.ofNat 3 src, ch, id, baddr, pay := [] }
  | .bagPart q => stage s q.die q.stage
  | .bagDone q => stage s q.die q.stage
  | .count q => stage s q.die q.stage
  | .ack q => stage s q.die q.stage
  | .chunk q => entry s q.id
  | .chunkAck id _ _ _ _ => entry s id
  | .counter _ _ _ _ _ _ reply _ => (match reply with | some id => entry s id | none => s)
  | .counterAck id _ => entry s id

/-- R368: a packet that a failed link held is reported to its agent; the spec gives the error of a context's access no trap
value (DEDUCED, log entry 38). -/
def State.dropPacket (s : State) (p : HeldPacket) : State :=
  let pay (memErr : Bool) : List Dword := if memErr then [Config.freeDword (s.freeCtr * 2 ^ 64)] else []
  match p with
  | .transfer k ch id memErr => s.fresh.loseTransfer k ch.toNat id (lostCause memErr) (pay memErr)
  | .row v n memErr =>
    (match (s.vault v).cmds[n]? with
      | some c => s.fresh.finishCmd v c (some (lostCause memErr, pay memErr))
      | none => s)
  | .line d a => s.lineLost d a
  | .card d => s.cardLost d
  | .report n => if (s.card n).repaddr = 0 then s else s.cardEnds n true
  | .save k c => s.saveLost k c
  | .pageService _ => s
  | .access k =>
    (match s.issuer k with
      | some c =>
        if (s.core k).hold = some .global then
          (s.fresh.modCore k fun q => { q with hold := none }).raise k c
            (Trap.atIssue .memoryError (Config.freeDword (s.freeCtr * 2 ^ 64)) (s.ctx k c).pc 0)
        else s
      | none => s)
  | .store k ord =>
    (match (s.core k).stores.find? fun x => decide (x.ord = ord) with
      | some x => s.storeLost k x
      | none => s)
  | .entry d qp eseq memErr => s.modEntry d qp eseq fun e => { e with fail := some (lostCause memErr) }
  | .stage d uid memErr =>
    (match (s.die d).stages.find? fun y => decide (y.uid = uid) with
      | some st => s.fresh.endStage d st (lostCause memErr) (pay memErr)
      | none => s)
  | .message n =>
    match s.inbox[n]? with
    | some m => { s with inbox := s.inbox.eraseIdx n }.messageLost m
    | none => s

/-- R368: a link has failed 64 replays: an event, and errors for the packets that it held. -/
def execLinkReplayFailure (_link : Nat) (held : List HeldPacket) (s : State) : Host.Outcome State Fault Refusal :=
  .next (held.foldl State.dropPacket (s.event 0 11 none none none))

/-! ### Reset and bring-up (R375, R384) -/

/-- R384: module reset, into the device's own step 1, which a later cycle ends (`State.tick`). What lies outside the module
stays: host memory, the pool of the host port, interrupts and messages already sent, and what the outside world is going to
do. TRIPLOG survives (R381) (DEDUCED, log entry 38). -/
def State.moduleReset (s : State) : State :=
  { State.reset with
    mem := s.mem.filter fun (x : Nat × Byte) => decide (2 ^ 52 ≤ x.1)
    hostMem := s.hostMem, outbox := s.outbox, irqs := s.irqs, schedule := s.schedule, focus := s.focus, freeCtr := s.freeCtr
    tripValid := s.tripValid, tripLo := s.tripLo, tripTime := s.tripTime
    siltin := .training }

/-- R384: PERST# or a function-level reset. -/
def execModuleReset (s : State) : Host.Outcome State Fault Refusal := .next s.moduleReset

/-- R373: a write of the reset register. -/
def State.resetWrite (s : State) (v : Dword) : State := if v = 0x52455345 then s.moduleReset else s
def execModuleResetWrite (v : Dword) (s : State) : Host.Outcome State Fault Refusal := .next (s.resetWrite v)

/-- R375: WHY of a FEATACC value; 0 when it is accepted. -/
def featWhy (pub v : Dword) : BitVec 8 :=
  if !v.getLsbD 0 then 1
  else if v &&& 0xFFFFFFFFFFFFFC00 ≠ 0 then 3
  else if v &&& 0x3FE &&& ~~~pub ≠ 0 then 2
  else 0

/-- R375: a write of FEATACC. -/
def State.featWrite (s : State) (v : Dword) : State :=
  if s.siltin ≠ .published then s
  else
    let w := featWhy s.featPub v
    if w = 0 then { s with featAcc := v, siltin := .ready, why := 0 } else { s with siltin := .failed, why := w }
def execFeatAccWrite (v : Dword) (s : State) : Host.Outcome State Fault Refusal := .next (s.featWrite v)

/-! ### Power (R378, R379) -/

def Power.code : Power → BitVec 2
  | .active => 0 | .gated => 1 | .retention => 2 | .off => 3
def Power.ofCode (c : BitVec 2) : Power :=
  if c = 0 then .active else if c = 1 then .gated else if c = 2 then .retention else .off

/-- R378: the fields of a command. -/
def pwClass (w : Dword) : Nat := (w.extractLsb' 24 4).toNat
def pwIndex (w : Dword) : Nat := (w.extractLsb' 16 8).toNat
def pwState (w : Dword) : Power := Power.ofCode (w.extractLsb' 0 2)
/-- R378: the domain that a command names; none when a field is reserved. -/
def pwDomain (w : Dword) : Option Nat :=
  if w.extractLsb' 28 36 = 0 ∧ w.extractLsb' 2 14 = 0 ∧ pwClass w < 4 ∧ pwIndex w < (pwRange (pwClass w)).2 then
    some ((pwRange (pwClass w)).1 + pwIndex w)
  else none

/-- R378: a command is queued, and its domain shows it in progress. -/
def State.powerCommand (s : State) (w : Dword) : State :=
  let s := { s with pwrQueue := s.pwrQueue ++ [w] }
  match pwDomain w with
  | some i => s.setDomain i { s.domain i with target := some (pwState w) }
  | none => s

def execPowerActive (cmd : BitVec 62) (s : State) : Host.Outcome State Fault Refusal :=
  .next (s.powerCommand (cmd ++ Power.active.code))
def execPowerGated (cmd : BitVec 62) (s : State) : Host.Outcome State Fault Refusal :=
  .next (s.powerCommand (cmd ++ Power.gated.code))
def execPowerRetention (cmd : BitVec 62) (s : State) : Host.Outcome State Fault Refusal :=
  .next (s.powerCommand (cmd ++ Power.retention.code))
def execPowerOff (cmd : BitVec 62) (s : State) : Host.Outcome State Fault Refusal :=
  .next (s.powerCommand (cmd ++ Power.off.code))

/-- R379: the states that a class has. -/
def powerAllowed (cls : Nat) (p : Power) : Bool :=
  match p with
  | .active | .off => true
  | .gated => decide (cls = 0) || decide (cls = 3)
  | .retention => decide (cls < 3)

/-- A frame in use among `n` frames from `f`. -/
def State.framesUsed (s : State) (f n : Nat) : Bool :=
  s.frames.any fun (a, x) => decide (f ≤ a) && decide (a < f + n) && decide (x.refc ≠ 0)

/-- R379: a domain that is busy for a command to state `p`. -/
def State.powerBusy (s : State) (i : Nat) (p : Power) : Bool :=
  let n := domainIndex i
  match domainClass i with
  | 0 =>
    p ≠ .active && (List.range 4).any fun j =>
      let q := s.core (4 * n + j)
      q.ctxs.any (fun (_, x) => decide (x.st ≠ .idle)) || q.loadHand.running || q.storeHand.running
  | 1 => p = .off && ((s.vault n).registry.any (fun (_, e) => descValid e) || s.framesUsed (frameOf (vaultAddr n 0)) (2 ^ 22))
  | 2 => p = .off && (decide (s.carveGB ≠ 0) || s.framesUsed (frameOf (hbmAddr n 0)) (2 ^ 20))
  | _ => false

/-- The contents of `n` bytes from physical address `a` are lost: they are as memory that nothing has written. -/
def State.loseBytes (s : State) (a n : Nat) : State :=
  { s with
    mem := s.mem.filter fun (x : Nat × Byte) => !(decide (a ≤ x.1) && decide (x.1 < a + n))
    poison := s.poison.filter fun u => !(decide (a / 64 ≤ u) && decide (u < (a + n) / 64)) }

/-- R379: what a domain loses when it is turned OFF. -/
def State.powerLoss (s : State) (i : Nat) : State :=
  let n := domainIndex i
  match domainClass i with
  | 0 => { (List.range 4).foldl (fun s j => s.setCore (4 * n + j) {}) s with yardTlb := Tab.put s.yardTlb n [] }
  | 1 => s.loseBytes (vaultAddr n 0) (2 ^ 38)
  | 2 => s.loseBytes (hbmAddr n 0) (2 ^ 36)
  | _ => s

/-- R378, R379: result of the command `w`, and the state after it (DEDUCED, log entry 38). -/
def State.powerDo (s : State) (w : Dword) : State × Nat :=
  match pwDomain w with
  | none => (s, 3)
  | some i =>
    let p := pwState w
    let x := s.domain i
    let s := s.setDomain i { x with target := none }
    if !powerAllowed (domainClass i) p then (s, 1)
    else if s.powerBusy i p then (s, 2)
    else
      let s := if p = .off && x.power ≠ .off then s.powerLoss i else s
      (s.setDomain i { x with power := p, target := none, event9 := if p = .active then false else x.event9 }, 0)

/-- R378, R379: the oldest command completes, with event 8. -/
def execPowerCommandDone (s : State) : Host.Outcome State Fault Refusal :=
  .next (match s.pwrQueue with
    | [] => s
    | w :: t =>
      let (s', r) := { s with pwrQueue := t }.powerDo w
      let i := (pwDomain w).getD 0
      let s' := match t.find? fun y => decide (pwDomain y = pwDomain w) with
        | some y => if (pwDomain w).isSome then s'.setDomain i { s'.domain i with target := some (pwState y) } else s'
        | none => s'
      s'.event (domainDie i) 8 (some (pwIndex w)) none (some (BitVec.ofNat 64 r)))

/-! ### Temperature (R380, R381) -/

/-- R380: whether a reading crosses a threshold upwards, or falls 3 °C below it; the flag says that it was above. -/
def crossing (above : Bool) (reading limit : Half) : Bool × Bool :=
  if !above && decide (limit.toInt ≤ reading.toInt) then (true, true)
  else if above && decide (reading.toInt ≤ limit.toInt - 24) then (true, false)
  else (false, above)

/-- R380: a new reading of a sensor. -/
def State.newReading (s : State) (dom : Nat) (reading : Half) : State :=
  let x := s.domain dom
  let (e1, a1) := crossing x.aboveWarn reading x.warn
  let (e2, a2) := crossing x.aboveCrit reading x.crit
  let s := s.setDomain dom { x with therm := reading, aboveWarn := a1, aboveCrit := a2 }
  let raise (s : State) (b : Bool) : State := if b then s.event (domainDie dom) 7 (some (domainIndex dom)) none none else s
  raise (raise s e1) e2

/-- R381: 115 °C in units of 0.125 °C. -/
def tripPoint : Int := 920

/-- R381: the module trips at a reading. -/
def State.trip (s : State) (dom : Nat) (reading : Half) : State :=
  let s := (List.range 16).foldl (fun s i => s.setDomain (40 + i) { s.domain (40 + i) with power := .off }) s
  { s with
    tripped := true, tripValid := true, tripLo := BitVec.ofNat 64 (reading.toNat * 65536 + dom), tripTime := s.timebase }

/-- R380, R381: a sensor reads; at 115 °C the module trips. -/
def State.sense (s : State) (dom : Nat) (reading : Half) : State :=
  let s := s.newReading dom reading
  if tripPoint ≤ reading.toInt then s.trip dom reading else s

/-- R380: a reading crosses a threshold. -/
def execThermalThreshold (dom : Nat) (reading : Half) (s : State) : Host.Outcome State Fault Refusal :=
  .next (s.sense dom reading)

/-- R381: a sensor has reached 115 °C; below that nothing happens. -/
def execThermalTrip (dom : Nat) (reading : Half) (s : State) : Host.Outcome State Fault Refusal :=
  .next (if s.tripped || decide (reading.toInt < tripPoint) then s else s.sense dom reading)

/-- R373: dword 0 of TRIPLOG. -/
def State.tripWord (s : State) : Dword := s.tripLo ||| if s.tripValid then 0x8000000000000000 else 0

/-- R6, R373: the host reads dword 0 of TRIPLOG, which then clears VALID. -/
def State.readTrip (s : State) : State := { s with hostRead := s.tripWord, tripValid := false }
def execTriplogRead (s : State) : Host.Outcome State Fault Refusal := .next s.readTrip

/-! ### Wear (R382, R383) -/

/-- R382: a ratio of 65,535 parts, at most all of them; a ratio over nothing is none. -/
def parts (r : Nat × Nat) : Nat := min 65535 (65535 * r.1 / r.2)

/-- R382: exp((Ea / k) × (1/358.15 − 1/T)) at a reading, between two bounds in units of 2^-P: T is reading / 8 + 273.15, and
Ea / k is 0.7 eV over the SI's Boltzmann constant, 0.7 × 16021766340 / 1380649 kelvin (PRESUMED, log entry 47). -/
def ageFactor (p : Nat) (t : Half) : Encl :=
  let n : Int := 5 * t.toInt + 10926
  let e : Int := t.toInt - 680
  if n ≤ 0 then ⟨0, 0⟩
  else if e = 0 then ⟨2 ^ p, 2 ^ p⟩
  else
    let a := 1121523643800 * e.natAbs
    let b := 1380649 * 7163 * n.toNat
    let r := expOf p (decide (e < 0)) ⟨a * 2 ^ p / b, ceilDiv (a * 2 ^ p) b⟩
    if 0 ≤ r.e2 then ⟨r.encl.lo * 2 ^ r.e2.toNat, r.encl.hi * 2 ^ r.e2.toNat⟩
    else ⟨r.encl.lo / 2 ^ (-r.e2).toNat, ceilDiv r.encl.hi (2 ^ (-r.e2).toNat)⟩

/-- R382: the sum of the hours of accelerated ageing, between two bounds in units of 2^-P. -/
def Domain.ageEncl (x : Domain) (p : Nat) : Encl :=
  x.aged.foldl (fun a (k, v) =>
    let f := ageFactor p (BitVec.ofNat 16 k)
    let n := (k / 65536) ^ 3
    ⟨a.lo + v * f.lo / n, a.hi + ceilDiv (v * f.hi) n⟩) ⟨0, 0⟩

/-- R382: Ag in parts, the precision doubled until both bounds have one value. -/
def Domain.ageParts (x : Domain) : Nat → Nat → Nat
  | 0, p => parts ((x.ageEncl p).lo, 61362 * 2 ^ p)
  | n + 1, p =>
    let e := x.ageEncl p
    if parts (e.lo, 61362 * 2 ^ p) = parts (e.hi, 61362 * 2 ^ p) then parts (e.lo, 61362 * 2 ^ p) else Domain.ageParts x n (2 * p)

/-- R382: the hour's term joins the sum; an hour with no nominal voltage adds nothing. -/
def Domain.ageHour (x : Domain) (y : WearSensors) : Domain :=
  let k := y.volt.2 * 65536 + y.temp.toNat
  if y.volt.2 = 0 then x else { x with aged := Tab.put x.aged k (Tab.get 0 x.aged k + y.volt.1 ^ 3) }

/-- R382: Er is a memory domain's, Ey a port's. -/
def isMemory (i : Nat) : Bool := decide (domainClass i = 1) || decide (domainClass i = 2)

/-- R382: W := floor(65,535 × min(1, max(Dr, Ag, Er, Ey))). -/
def Domain.wearIndex (x : Domain) (dom : Nat) (y : WearSensors) : Nat :=
  [parts y.drift, x.ageParts 6 64,
    (if isMemory dom then parts (x.errors - x.errDays.headD 0, Config.ratedErrors dom) else 0),
    (if domainClass dom = 3 then parts (y.eye.2 - y.eye.1, y.eye.2) else 0)].foldl max 0

/-- R382: firmware computes a domain's index from its sensors, once an hour. -/
def execWearUpdate (dom : Nat) (w : WearSensors) (s : State) : Host.Outcome State Fault Refusal :=
  .next (let x := s.domain dom
    let x := x.ageHour w
    s.setDomain dom { x with w := BitVec.ofNat 16 (x.wearIndex dom w) })

/-- R383: DAYS by the least-squares line through samples (t, W), exact; none below 7 samples or without a rise
(DESIGN CHOICE, log entry 39). -/
def wearDays (l : List (Nat × Nat)) : Option Int :=
  let n : Int := l.length
  let sum (f : Nat × Nat → Int) : Int := (l.map f).foldl (· + ·) 0
  let st := sum fun p => p.1
  let sw := sum fun p => p.2
  let num := n * sum (fun p => p.1 * p.2) - st * sw
  let den := n * sum (fun p => p.1 * p.1) - st * st
  let last : Int := ((l.getLast?.map Prod.fst).getD 0 : Nat)
  if l.length < 7 ∨ num ≤ 0 then none
  else some ((65535 * n * den - sw * den - num * (last * n - st)) / (n * num))

/-- R383: a domain's daily sample; a DAYS that its field cannot hold is open. -/
def Domain.sample (x : Domain) (t : Nat) (epoch free : Word) : Domain :=
  let l := x.samples ++ [(t, x.w.toNat)]
  let l := l.drop (l.length - 90)
  { x with
    samples := l, errDays := (x.errDays ++ [x.errors]).drop (x.errDays.length + 1 - 30), day := (epoch + BitVec.ofNat 32 t).setWidth 16
    days := match wearDays l with
      | none => 0xFFFFFFFF
      | some v => if 0 ≤ v ∧ v < 2 ^ 32 then BitVec.ofInt 32 v else free }

/-- R383: firmware samples every domain and raises event 10. -/
def execWearSample (s : State) : Host.Outcome State Fault Refusal :=
  .next (let s' := (List.range 56).foldl (fun (a : State) i =>
      a.setDomain i ((a.domain i).sample s.sampleDays s.epoch (Config.freeWord (s.freeCtr * 2 ^ 64 + i)))) s
    { s' with sampleDays := s.sampleDays + 1, freeCtr := s.freeCtr + 1 }.event 0 10 none none none)

/-! ### BAR0 (R370 to R373) -/

/-- A register record with its dword `i` written; only the bits of `mask` change (R6). -/
def putDword (w mask : BitVec 256) (i : Nat) (v : Dword) : BitVec 256 :=
  let m := mask &&& ((0xFFFFFFFFFFFFFFFF : BitVec 256) <<< (64 * i))
  (w &&& ~~~m) ||| ((v.setWidth 256 <<< (64 * i)) &&& m)

/-- Bits `lo` up to `lo + len − 1`. -/
def maskOf (lo len : Nat) : BitVec 256 := BitVec.ofNat 256 ((2 ^ len - 1) * 2 ^ lo)

/-- R352: a stream context. -/
def Stream.pack (x : Stream) : BitVec 256 :=
  x.sqbase.setWidth 52 ++ x.cqbase.setWidth 52 ++ x.vec ++ x.sqlog ++ x.cqlog ++ (0 : BitVec 7) ++ bit1 x.valid ++ x.spi ++ x.sci ++
    x.cpi ++ x.cci
def Stream.unpack (w : BitVec 256) : Stream :=
  { sqbase := (w.extractLsb' 204 52).setWidth 64, cqbase := (w.extractLsb' 152 52).setWidth 64, vec := w.extractLsb' 144 8
    sqlog := w.extractLsb' 140 4, cqlog := w.extractLsb' 136 4, valid := w.getLsbD 128, spi := w.extractLsb' 96 32
    sci := w.extractLsb' 64 32, cpi := w.extractLsb' 32 32, cci := w.extractLsb' 0 32 }
def streamMask : BitVec 256 := maskOf 136 120 ||| maskOf 128 1 ||| maskOf 96 32 ||| maskOf 0 32

/-- R268: a queue pair's context. -/
def Qp.pack (x : Qp) : BitVec 256 :=
  (0 : BitVec 64) ++ x.pi ++ x.ci ++ x.qbase ++ (0 : BitVec 8) ++ x.qlog ++ (0 : BitVec 11) ++ bit1 x.valid
def qpMask : BitVec 256 := maskOf 24 40 ||| maskOf 12 4 ||| maskOf 0 1
def Qp.write (x : Qp) (w : BitVec 256) : Qp := { x with qbase := w.extractLsb' 24 40, qlog := w.extractLsb' 12 4, valid := w.getLsbD 0 }

def handlerMask : BitVec 256 := maskOf 96 32 ||| maskOf 5 47 ||| maskOf 0 1
def spaceMask : BitVec 256 := maskOf 16 36 ||| maskOf 0 1
def groupMask : BitVec 256 := maskOf 32 32 ||| maskOf 8 12 ||| maskOf 0 1
def descMask : BitVec 256 := maskOf 192 52 ||| maskOf 128 40 ||| maskOf 64 52 ||| maskOf 32 32 ||| maskOf 0 20
def tillMask : BitVec 256 := maskOf 140 52 ||| maskOf 40 88 ||| maskOf 0 1
def peerMask : BitVec 256 := maskOf 0 81

/-- R374: the event queue context. -/
def EvQueue.write (x : EvQueue) (i : Nat) (v : Dword) : EvQueue :=
  match i with
  | 0 => { x with eqbase := v &&& 0xFFFFFFFFFFFFF }
  | 1 => { x with eqlog := v.extractLsb' 0 4, vec := v.extractLsb' 8 8 }
  | 3 => { x with eci := v.extractLsb' 0 32 }
  | _ => x

/-- R371: DOORBELL. -/
def State.doorbell (s : State) (d : Nat) (v : Dword) : State :=
  let n : BitVec 6 := v.extractLsb' 0 6
  let x : Word := v.extractLsb' 32 32
  match (if v.getLsbD 7 then execDoorbellCci d n x s else execDoorbellSpi d n x s) with
  | .next s => s
  | _ => s

/-- R384: the writes of steps 4 to 6 count only once STATE is READY. -/
def State.whenReady (s : State) (f : State → State) : State := if s.siltin = .ready then f s else s

/-- R370, R373: a write in a die's region (DEDUCED, log entry 40). -/
def State.dieWrite (s : State) (d o : Nat) (v : Dword) : State :=
  let i := o / 8
  if o < 0x800 then
    s.setStream d (o / 32) (Stream.unpack (putDword (s.stream d (o / 32)).pack streamMask (i % 4) v))
  else if o = 0x1000 then s.doorbell d v
  else if 0x1100 ≤ o ∧ o < 0x1120 then s.whenReady fun s => s.modDie d fun x => { x with evq := x.evq.write (i % 4) v }
  else if o = 0x1200 then
    s.whenReady fun s => s.modDie d fun x => { x with pq := { x.pq with pqbase := v &&& 0xFFFFFFFFFFFFF } }
  else if o = 0x1208 then s.whenReady fun s => s.modDie d fun x => { x with pq := { x.pq with pqlog := v.extractLsb' 0 4 } }
  else if o = 0x1210 then s.whenReady fun s => s.modDie d fun x => { x with pq := { x.pq with ppi := v } }
  else if 0x2000 ≤ o ∧ o < 0x3000 then
    let n := (o - 0x2000) / 16
    s.whenReady fun s => s.modDie d fun x =>
      { x with handlers := Tab.put x.handlers n ((putDword ((Tab.get 0 x.handlers n).setWidth 256) handlerMask (i % 2) v).setWidth 128) }
  else if 0x4000 ≤ o ∧ o < 0x6000 then
    let n := (o - 0x4000) / 32
    s.whenReady fun s => s.modDie d fun x =>
      let q := Tab.get {} x.qps n
      { x with qps := Tab.put x.qps n (q.write (putDword q.pack qpMask (i % 4) v)) }
  else if 0xC000 ≤ o ∧ o < 0xD000 then s.counterSet d ((o - 0xC000) / 4) (v.setWidth 32)
  else if 0x100000 ≤ o ∧ o < 0x180000 then
    let n := (o - 0x100000) / 8
    s.whenReady fun s =>
      let put (x : Die) : Die := { x with spaces := Tab.put x.spaces n ((putDword 0 spaceMask 0 v).setWidth 64) }
      (s.modDie 0 put).modDie 1 put
  else s

/-- R329, R376: a write of a Till entry; one that the rules refuse is ignored. Setting EN begins an empty sketch and Till. -/
def State.tillWrite (s : State) (v slot i : Nat) (w : Dword) : State :=
  let x := s.vault v
  let old := x.tillEntry slot
  let e : BitVec 192 := (putDword (old.setWidth 256) tillMask i w).setWidth 192
  if tillEn e && !s.accepted 5 then s
  else
    let fresh := tillEn e && !tillEn old
    let key (n : Nat) : Bool := decide (n / 262144 = slot)
    let s := if tillEn e then { s with tillSeen := true } else s
    s.setVault v { x with
      till := Tab.put x.till slot e
      sketch := if fresh then x.sketch.filter fun y => !key y.1 else x.sketch
      lcnt := if fresh then Tab.erase x.lcnt slot else x.lcnt
      ways := if fresh then x.ways.filter fun y => !decide (y.1 / 2 ^ 27 = slot) else x.ways }

/-- R380: thresholds of a domain. -/
def State.limitWrite (s : State) (i r : Nat) (v : Dword) : State :=
  if 56 ≤ i then s
  else if r = 1 then s.setDomain i { s.domain i with warn := v.setWidth 16 }
  else if r = 2 then s.setDomain i { s.domain i with crit := v.setWidth 16 }
  else s

/-- R370, R373: a write in the module's registers (DEDUCED, log entry 40). -/
def State.moduleWrite (s : State) (o : Nat) (v : Dword) : State :=
  if o = 0x2000010 then s.featWrite v
  else if 0x2000100 ≤ o ∧ o < 0x2000200 then
    let d := (o - 0x2000100) / 0x80
    let r := (o - 0x2000100) % 0x80 / 8
    s.whenReady fun s =>
      if r = 0 then
        (let n := (v.extractLsb' 0 17).toNat
        if 1 ≤ n ∧ n ≤ 65536 then s.modDisp d fun x => { x with ckmax := n } else s)
      else if r = 1 then s.modDisp d fun x => { x with dage := (v.extractLsb' 0 24).toNat }
      else if r < 14 then s.modDisp d fun x => { x with yage := Tab.put x.yage (r - 2) (v.extractLsb' 0 20).toNat }
      else s
  else if o = 0x2000F00 then s.resetWrite v
  else if o = 0x2001000 then s.powerCommand v
  else if o = 0x2002010 then s.whenReady fun s => { s with epoch := v.setWidth 32 }
  else if 0x2002080 ≤ o ∧ o < 0x2002100 then
    s.whenReady fun s =>
      let n := (v.extractLsb' 0 8).toNat
      if 1 ≤ n ∧ n ≤ 168 then { s with scrub := Tab.put s.scrub ((o - 0x2002080) / 8) (v.setWidth 8) } else s
  else if 0x2002100 ≤ o ∧ o < 0x2002800 then s.whenReady fun s => s.limitWrite ((o - 0x2002100) / 0x20) (o % 0x20 / 8) v
  else if 0x2010000 ≤ o ∧ o < 0x2010800 then
    s.whenReady fun s => { s with groups := Tab.put s.groups ((o - 0x2010000) / 8) ((putDword 0 groupMask 0 v).setWidth 64) }
  else if 0x2100000 ≤ o ∧ o < 0x2900000 then
    let w := (o - 0x2100000) / 0x100000
    let r := (o - 0x2100000) % 0x100000
    let slot := r % 0x40000 / 32
    s.whenReady fun s =>
      if r < 0x40000 then
        s.modVault w fun x => { x with registry := Tab.put x.registry slot (putDword (x.desc slot) descMask (o / 8 % 4) v) }
      else if r < 0x80000 then s.tillWrite w slot (o / 8 % 4) v
      else s
  else if o = 0x2900000 then
    s.whenReady fun s => if v.toNat ≤ 32 && !s.tillSeen && (decide (v = 0) || s.accepted 5) then { s with carveGB := v.toNat } else s
  else if 0x3000000 ≤ o ∧ o < 0x4000000 then
    let n := (o - 0x3000000) / 16
    s.whenReady fun s =>
      { s with peers := Tab.put s.peers n ((putDword ((Tab.get 0 s.peers n).setWidth 256) peerMask (o / 8 % 2) v).setWidth 128) }
  else s

/-- R370: a write to BAR0: an aligned dword, or an aligned word among the counters. An offset without a register is
ignored (DEDUCED, log entry 40). -/
def State.bar0Write (s : State) (off : Nat) (v : Dword) : State :=
  let o := off % 0x1000000
  let ctr := decide (off < 0x2000000) && decide (0xC000 ≤ o) && decide (o < 0xD000)
  if off % (if ctr then 4 else 8) ≠ 0 then s
  else if off < 0x2000000 then s.dieWrite (off / 0x1000000) o v
  else s.moduleWrite off v

/-! ### Reads of BAR0 (R6, R7, R370, R373) -/

/-- Dword `i` of a register record. -/
def dwordOf (w : BitVec 256) (i : Nat) : Dword := w.extractLsb' (64 * i) 64

/-- R374: a dword of the event queue context. -/
def EvQueue.read (x : EvQueue) (i : Nat) : Dword :=
  match i with
  | 0 => x.eqbase
  | 1 => x.eqlog.setWidth 64 ||| (x.vec.setWidth 64 <<< 8)
  | 2 => x.dropped ++ x.epi
  | _ => x.eci.setWidth 64

/-- R375: the code of STATE. -/
def Siltin.code : Siltin → Nat
  | .reset => 0 | .training => 1 | .published => 2 | .ready => 3 | .failed => 4

/-- R375: the SILTIN word: VERSION 1, WHY, STATE. -/
def State.siltinWord (s : State) : Dword := BitVec.ofNat 64 (65536 + s.why.toNat * 256 + s.siltin.code)

/-- R378: a PWRSTAT byte. -/
def Domain.stat (x : Domain) : Byte := x.power.code.setWidth 8 ||| if x.target.isSome then 4 else 0

/-- R383: a WEAR dword. -/
def Domain.wearWord (x : Domain) : Dword := x.days ++ x.day ++ x.w

/-- R370, R373: a read in a die's region; what the table does not name reads zero, as do write-only registers. -/
def State.dieRead (s : State) (d o : Nat) : Dword :=
  let i := o / 8
  let x := s.die d
  if o < 0x800 then dwordOf (s.stream d (o / 32)).pack (i % 4)
  else if 0x1100 ≤ o ∧ o < 0x1120 then x.evq.read (i % 4)
  else if o = 0x1200 then x.pq.pqbase
  else if o = 0x1208 then x.pq.pqlog.setWidth 64
  else if o = 0x1210 then x.pq.ppi
  else if o = 0x1218 then x.pq.pci
  else if 0x2000 ≤ o ∧ o < 0x3000 then dwordOf ((Tab.get 0 x.handlers ((o - 0x2000) / 16)).setWidth 256) (i % 2)
  else if 0x4000 ≤ o ∧ o < 0x6000 then dwordOf (Tab.get {} x.qps ((o - 0x4000) / 32)).pack (i % 4)
  else if 0xC000 ≤ o ∧ o < 0xD000 then (Tab.get (0 : Word) x.counters ((o - 0xC000) / 4)).setWidth 64
  else if 0x100000 ≤ o ∧ o < 0x180000 then Tab.get 0 x.spaces ((o - 0x100000) / 8)
  else 0

/-- R373, R380, R383: the four registers of a domain. -/
def Domain.read (x : Domain) (r : Nat) : Dword :=
  match r with
  | 0 => x.therm.setWidth 64
  | 1 => x.warn.setWidth 64
  | 2 => x.crit.setWidth 64
  | _ => x.wearWord

/-- R370, R373: a read among the module's registers. -/
def State.moduleRead (s : State) (o : Nat) : Dword :=
  if o = 0x2000000 then s.siltinWord
  else if o = 0x2000008 then s.featPub
  else if o = 0x2000010 then s.featAcc
  else if 0x2000100 ≤ o ∧ o < 0x2000200 then
    let x := (s.die ((o - 0x2000100) / 0x80)).disp
    let r := (o - 0x2000100) % 0x80 / 8
    if r = 0 then BitVec.ofNat 64 x.ckmax
    else if r = 1 then BitVec.ofNat 64 x.dage
    else if r < 14 then BitVec.ofNat 64 (Tab.get 0x1000 x.yage (r - 2))
    else 0
  else if 0x2001010 ≤ o ∧ o < 0x2001048 then
    leDword ((List.range 8).map fun j => (s.domain (o - 0x2001010 + j)).stat)
  else if o = 0x2002000 then s.tripWord
  else if o = 0x2002008 then s.tripTime
  else if o = 0x2002010 then s.epoch.setWidth 64
  else if 0x2002080 ≤ o ∧ o < 0x2002100 then (Tab.get 24 s.scrub ((o - 0x2002080) / 8)).setWidth 64
  else if 0x2002100 ≤ o ∧ o < 0x2002800 then (s.domain ((o - 0x2002100) / 0x20)).read (o % 0x20 / 8)
  else if 0x2010000 ≤ o ∧ o < 0x2010800 then s.group ((o - 0x2010000) / 8)
  else if 0x2100000 ≤ o ∧ o < 0x2900000 then
    let x := s.vault ((o - 0x2100000) / 0x100000)
    let r := (o - 0x2100000) % 0x100000
    if r < 0x40000 then dwordOf (x.desc (r / 32)) (o / 8 % 4)
    else if r < 0x80000 then dwordOf ((x.tillEntry (r % 0x40000 / 32)).setWidth 256) (o / 8 % 4)
    else 0
  else if o = 0x2900000 then BitVec.ofNat 64 s.carveGB
  else if 0x3000000 ≤ o ∧ o < 0x4000000 then dwordOf ((Tab.get 0 s.peers ((o - 0x3000000) / 16)).setWidth 256) (o / 8 % 2)
  else 0

/-- R6, R370: what a read of BAR0 returns: an aligned dword, an aligned word among the counters, or one byte of PWRSTAT (R373). -/
def State.bar0Read (s : State) (off : Nat) : Dword :=
  let o := off % 0x1000000
  let ctr := decide (off < 0x2000000) && decide (0xC000 ≤ o) && decide (o < 0xD000)
  if 0x2001010 ≤ off ∧ off < 0x2001048 ∧ off % 8 ≠ 0 then ((s.domain (off - 0x2001010)).stat).setWidth 64
  else if off % (if ctr then 4 else 8) ≠ 0 then 0
  else if off < 0x2000000 then s.dieRead (off / 0x1000000) o
  else s.moduleRead off

/-- R345: a frame word. -/
def frameOfWord (v : Dword) : Frame := { pin := v.getLsbD 17, table := v.getLsbD 16, refc := (v.extractLsb' 0 16).toNat }

/-- R298, R336, R345, R350, R370: a host access, or what the driver or firmware sets beside the registers (DESIGN CHOICE, log
entry 12). -/
def execRegisterWrite (off : HostAccess) (v : Dword) (s : State) : Host.Outcome State Fault Refusal :=
  .next (match off with
    | .write o => s.bar0Write o v
    | .read o => if o = 0x2002000 then s.readTrip else { s with hostRead := s.bar0Read o }
    | .qpSpace d n =>
      s.modDie d fun x => { x with qps := Tab.put x.qps n { (Tab.get ({} : Qp) x.qps n) with asid := v.extractLsb' 0 16 } }
    | .groupSpace g => { s with groupAsid := Tab.put s.groupAsid g (v.extractLsb' 0 16) }
    | .defaultTier a => { s with defaultTier := Tab.put s.defaultTier a.toNat (v.extractLsb' 0 2) }
    | .supervisorRoot d => s.modDie d fun x => { x with supRoot := v }
    | .frameTable tier => s.setFrameTable tier v
    | .frame f => s.putFrame f (frameOfWord v))

/-! ### BAR2 (R369) -/

/-- R369: writes memory in ASID 0 for the host; none where the write must wait. -/
def State.hostWrite (s : State) (va : Nat) (data : List Byte) : Option State :=
  match s.devWrite 0 0 (BitVec.ofNat 64 va) data with
  | .ok s => some (s.devFill 0 (BitVec.ofNat 64 va) data.length)
  | .wait _ => none
  | _ => some s

/-- R369: a host write of memory in ASID 0, through its window; the spec does not say where in the space the window lies
(DEDUCED, log entry 40). A write that must wait (R379) performs later, and those after it after it. -/
def execBar2Write (va : Nat) (data : List Byte) (s : State) : Host.Outcome State Fault Refusal :=
  .next (if 2 ^ 52 < va + data.length then s
    else
      let late : State := { s with lateWrites := s.lateWrites ++ [(va, data)] }
      if !s.lateWrites.isEmpty then late
      else
        match s.hostWrite va data with
        | some s => s
        | none =>
          match s.devSpan 0 0 .write (BitVec.ofNat 64 va) data.length with
          | .wait i => late.awaitDomain 0 i
          | _ => late)

/-- R379: the first host writes that waited and need wait no longer perform. -/
def State.landWrites (s : State) : List (Nat × List Byte) → State
  | [] => { s with lateWrites := [] }
  | (va, data) :: l =>
    match s.hostWrite va data with
    | some s => State.landWrites s l
    | none => { s with lateWrites := (va, data) :: l }

/-- R345, R379: what waited for memory and need wait no longer. -/
def State.landLate (s : State) : State :=
  if s.lateWrites.isEmpty && s.lateFrames.isEmpty then s
  else (s.landWrites s.lateWrites).lateFrames.foldl (fun s f => s.showFrame f) (s.landWrites s.lateWrites)

end Sys2Proof.Machine
end

