-- ==== Sys2Proof/Machine/Dispatch.lean ====
section
/-! DEFINITION. One arm for each constructor of `Instr`, each a direct call of that instruction's or event's meaning. -/

namespace Sys2Proof.Machine

def exec (i : Instr) (s : State) : Host.Outcome State Fault Refusal :=
  match i with
  | .nop => Sys2Proof.Machine.execNop s
  | .add g rd ra rb => Sys2Proof.Machine.execAdd g rd ra rb s
  | .sub g rd ra rb => Sys2Proof.Machine.execSub g rd ra rb s
  | .andR g rd ra rb => Sys2Proof.Machine.execAndR g rd ra rb s
  | .orR g rd ra rb => Sys2Proof.Machine.execOrR g rd ra rb s
  | .xor g rd ra rb => Sys2Proof.Machine.execXor g rd ra rb s
  | .sll g rd ra rb => Sys2Proof.Machine.execSll g rd ra rb s
  | .srl g rd ra rb => Sys2Proof.Machine.execSrl g rd ra rb s
  | .sra g rd ra rb => Sys2Proof.Machine.execSra g rd ra rb s
  | .slt g rd ra rb => Sys2Proof.Machine.execSlt g rd ra rb s
  | .sltu g rd ra rb => Sys2Proof.Machine.execSltu g rd ra rb s
  | .min g rd ra rb => Sys2Proof.Machine.execMin g rd ra rb s
  | .max g rd ra rb => Sys2Proof.Machine.execMax g rd ra rb s
  | .minu g rd ra rb => Sys2Proof.Machine.execMinu g rd ra rb s
  | .maxu g rd ra rb => Sys2Proof.Machine.execMaxu g rd ra rb s
  | .addi g rd ra imm => Sys2Proof.Machine.execAddi g rd ra imm s
  | .andi g rd ra imm => Sys2Proof.Machine.execAndi g rd ra imm s
  | .ori g rd ra imm => Sys2Proof.Machine.execOri g rd ra imm s
  | .xori g rd ra imm => Sys2Proof.Machine.execXori g rd ra imm s
  | .slli g rd ra sh => Sys2Proof.Machine.execSlli g rd ra sh s
  | .srli g rd ra sh => Sys2Proof.Machine.execSrli g rd ra sh s
  | .srai g rd ra sh => Sys2Proof.Machine.execSrai g rd ra sh s
  | .li g rd imm => Sys2Proof.Machine.execLi g rd imm s
  | .lih g rd imm => Sys2Proof.Machine.execLih g rd imm s
  | .mul g rd ra rb => Sys2Proof.Machine.execMul g rd ra rb s
  | .mulh g rd ra rb => Sys2Proof.Machine.execMulh g rd ra rb s
  | .mulhu g rd ra rb => Sys2Proof.Machine.execMulhu g rd ra rb s
  | .div g rd ra rb => Sys2Proof.Machine.execDiv g rd ra rb s
  | .divu g rd ra rb => Sys2Proof.Machine.execDivu g rd ra rb s
  | .rem g rd ra rb => Sys2Proof.Machine.execRem g rd ra rb s
  | .remu g rd ra rb => Sys2Proof.Machine.execRemu g rd ra rb s
  | .clz g rd ra => Sys2Proof.Machine.execClz g rd ra s
  | .ctz g rd ra => Sys2Proof.Machine.execCtz g rd ra s
  | .popc g rd ra => Sys2Proof.Machine.execPopc g rd ra s
  | .sextB g rd ra => Sys2Proof.Machine.execSextB g rd ra s
  | .sextH g rd ra => Sys2Proof.Machine.execSextH g rd ra s
  | .sextW g rd ra => Sys2Proof.Machine.execSextW g rd ra s
  | .zextB g rd ra => Sys2Proof.Machine.execZextB g rd ra s
  | .zextH g rd ra => Sys2Proof.Machine.execZextH g rd ra s
  | .zextW g rd ra => Sys2Proof.Machine.execZextW g rd ra s
  | .cmpEq g pd ra rb => Sys2Proof.Machine.execCmpEq g pd ra rb s
  | .cmpNe g pd ra rb => Sys2Proof.Machine.execCmpNe g pd ra rb s
  | .cmpLt g pd ra rb => Sys2Proof.Machine.execCmpLt g pd ra rb s
  | .cmpLtu g pd ra rb => Sys2Proof.Machine.execCmpLtu g pd ra rb s
  | .cmpGe g pd ra rb => Sys2Proof.Machine.execCmpGe g pd ra rb s
  | .cmpGeu g pd ra rb => Sys2Proof.Machine.execCmpGeu g pd ra rb s
  | .cmpiEq g pd ra imm => Sys2Proof.Machine.execCmpiEq g pd ra imm s
  | .cmpiNe g pd ra imm => Sys2Proof.Machine.execCmpiNe g pd ra imm s
  | .cmpiLt g pd ra imm => Sys2Proof.Machine.execCmpiLt g pd ra imm s
  | .cmpiLtu g pd ra imm => Sys2Proof.Machine.execCmpiLtu g pd ra imm s
  | .cmpiGe g pd ra imm => Sys2Proof.Machine.execCmpiGe g pd ra imm s
  | .cmpiGeu g pd ra imm => Sys2Proof.Machine.execCmpiGeu g pd ra imm s
  | .pand g pd pa pb => Sys2Proof.Machine.execPand g pd pa pb s
  | .por g pd pa pb => Sys2Proof.Machine.execPor g pd pa pb s
  | .pxor g pd pa pb => Sys2Proof.Machine.execPxor g pd pa pb s
  | .pnot g pd pa => Sys2Proof.Machine.execPnot g pd pa s
  | .ldB g rd ra sp imm => Sys2Proof.Machine.execLdB g rd ra sp imm s
  | .ldBs g rd ra sp imm => Sys2Proof.Machine.execLdBs g rd ra sp imm s
  | .ldH g rd ra sp imm => Sys2Proof.Machine.execLdH g rd ra sp imm s
  | .ldHs g rd ra sp imm => Sys2Proof.Machine.execLdHs g rd ra sp imm s
  | .ldW g rd ra sp imm => Sys2Proof.Machine.execLdW g rd ra sp imm s
  | .ldWs g rd ra sp imm => Sys2Proof.Machine.execLdWs g rd ra sp imm s
  | .ldD g rd ra sp imm => Sys2Proof.Machine.execLdD g rd ra sp imm s
  | .stB g rs ra sp imm => Sys2Proof.Machine.execStB g rs ra sp imm s
  | .stH g rs ra sp imm => Sys2Proof.Machine.execStH g rs ra sp imm s
  | .stW g rs ra sp imm => Sys2Proof.Machine.execStW g rs ra sp imm s
  | .stD g rs ra sp imm => Sys2Proof.Machine.execStD g rs ra sp imm s
  | .amoAdd g rd ra rb sc => Sys2Proof.Machine.execAmoAdd g rd ra rb sc s
  | .amoAnd g rd ra rb sc => Sys2Proof.Machine.execAmoAnd g rd ra rb sc s
  | .amoOr g rd ra rb sc => Sys2Proof.Machine.execAmoOr g rd ra rb sc s
  | .amoXor g rd ra rb sc => Sys2Proof.Machine.execAmoXor g rd ra rb sc s
  | .amoMin g rd ra rb sc => Sys2Proof.Machine.execAmoMin g rd ra rb sc s
  | .amoMax g rd ra rb sc => Sys2Proof.Machine.execAmoMax g rd ra rb sc s
  | .amoSwap g rd ra rb sc => Sys2Proof.Machine.execAmoSwap g rd ra rb sc s
  | .amoCas g rd ra rb rc sc => Sys2Proof.Machine.execAmoCas g rd ra rb rc sc s
  | .amoAddW g rd ra rb sc => Sys2Proof.Machine.execAmoAddW g rd ra rb sc s
  | .amoAndW g rd ra rb sc => Sys2Proof.Machine.execAmoAndW g rd ra rb sc s
  | .amoOrW g rd ra rb sc => Sys2Proof.Machine.execAmoOrW g rd ra rb sc s
  | .amoXorW g rd ra rb sc => Sys2Proof.Machine.execAmoXorW g rd ra rb sc s
  | .amoMinW g rd ra rb sc => Sys2Proof.Machine.execAmoMinW g rd ra rb sc s
  | .amoMaxW g rd ra rb sc => Sys2Proof.Machine.execAmoMaxW g rd ra rb sc s
  | .amoSwapW g rd ra rb sc => Sys2Proof.Machine.execAmoSwapW g rd ra rb sc s
  | .amoCasW g rd ra rb rc sc => Sys2Proof.Machine.execAmoCasW g rd ra rb rc sc s
  | .br g off => Sys2Proof.Machine.execBr g off s
  | .call g rd off => Sys2Proof.Machine.execCall g rd off s
  | .jr g ra => Sys2Proof.Machine.execJr g ra s
  | .jalr g rd ra => Sys2Proof.Machine.execJalr g rd ra s
  | .loop g lv ra imm => Sys2Proof.Machine.execLoop g lv ra imm s
  | .lctlRd g rd lv => Sys2Proof.Machine.execLctlRd g rd lv s
  | .lctlBnd g rd lv => Sys2Proof.Machine.execLctlBnd g rd lv s
  | .lctlBrk g lv => Sys2Proof.Machine.execLctlBrk g lv s
  | .csrr g rd csr => Sys2Proof.Machine.execCsrr g rd csr s
  | .csrw g rd ra csr => Sys2Proof.Machine.execCsrw g rd ra csr s
  | .csrs g rd ra csr => Sys2Proof.Machine.execCsrs g rd ra csr s
  | .csrc g rd ra csr => Sys2Proof.Machine.execCsrc g rd ra csr s
  | .erpop g op rd ra => Sys2Proof.Machine.execErpop g op rd ra s
  | .fence g sc => Sys2Proof.Machine.execFence g sc s
  | .drain g sc => Sys2Proof.Machine.execDrain g sc s
  | .trap g imm => Sys2Proof.Machine.execTrap g imm s
  | .brk g imm => Sys2Proof.Machine.execBrk g imm s
  | .eret g => Sys2Proof.Machine.execEret g s
  | .exit g imm => Sys2Proof.Machine.execExit g imm s
  | .rdtime g rd => Sys2Proof.Machine.execRdtime g rd s
  | .rdfeat g rd sel => Sys2Proof.Machine.execRdfeat g rd sel s
  | .vadd a => Sys2Proof.Machine.execVadd a s
  | .vsub a => Sys2Proof.Machine.execVsub a s
  | .vmul a => Sys2Proof.Machine.execVmul a s
  | .vfma a => Sys2Proof.Machine.execVfma a s
  | .vfnma a => Sys2Proof.Machine.execVfnma a s
  | .vmin a => Sys2Proof.Machine.execVmin a s
  | .vmax a => Sys2Proof.Machine.execVmax a s
  | .vabs a => Sys2Proof.Machine.execVabs a s
  | .vneg a => Sys2Proof.Machine.execVneg a s
  | .vaddi a => Sys2Proof.Machine.execVaddi a s
  | .vmuli a => Sys2Proof.Machine.execVmuli a s
  | .vand a => Sys2Proof.Machine.execVand a s
  | .vor a => Sys2Proof.Machine.execVor a s
  | .vxor a => Sys2Proof.Machine.execVxor a s
  | .vshl a => Sys2Proof.Machine.execVshl a s
  | .vshr a => Sys2Proof.Machine.execVshr a s
  | .vsra a => Sys2Proof.Machine.execVsra a s
  | .vcmpEq a => Sys2Proof.Machine.execVcmpEq a s
  | .vcmpNe a => Sys2Proof.Machine.execVcmpNe a s
  | .vcmpLt a => Sys2Proof.Machine.execVcmpLt a s
  | .vcmpLe a => Sys2Proof.Machine.execVcmpLe a s
  | .vcmpGt a => Sys2Proof.Machine.execVcmpGt a s
  | .vcmpGe a => Sys2Proof.Machine.execVcmpGe a s
  | .vcmpUn a => Sys2Proof.Machine.execVcmpUn a s
  | .vsel a => Sys2Proof.Machine.execVsel a s
  | .vcvt a => Sys2Proof.Machine.execVcvt a s
  | .vbscl a => Sys2Proof.Machine.execVbscl a s
  | .vshuf a => Sys2Proof.Machine.execVshuf a s
  | .vbcast a => Sys2Proof.Machine.execVbcast a s
  | .vxmov a => Sys2Proof.Machine.execVxmov a s
  | .vgredAdd a => Sys2Proof.Machine.execVgredAdd a s
  | .vgredMax a => Sys2Proof.Machine.execVgredMax a s
  | .vgredMin a => Sys2Proof.Machine.execVgredMin a s
  | .vrcp a => Sys2Proof.Machine.execVrcp a s
  | .vrsqrt a => Sys2Proof.Machine.execVrsqrt a s
  | .vsqrt a => Sys2Proof.Machine.execVsqrt a s
  | .vexp2 a => Sys2Proof.Machine.execVexp2 a s
  | .vlog2 a => Sys2Proof.Machine.execVlog2 a s
  | .vexp a => Sys2Proof.Machine.execVexp a s
  | .vlog a => Sys2Proof.Machine.execVlog a s
  | .vtanh a => Sys2Proof.Machine.execVtanh a s
  | .vsigm a => Sys2Proof.Machine.execVsigm a s
  | .vdiv a => Sys2Proof.Machine.execVdiv a s
  | .vld a => Sys2Proof.Machine.execVld a s
  | .vst a => Sys2Proof.Machine.execVst a s
  | .vldx a => Sys2Proof.Machine.execVldx a s
  | .vstx a => Sys2Proof.Machine.execVstx a s
  | .vrd a => Sys2Proof.Machine.execVrd a s
  | .vwr a => Sys2Proof.Machine.execVwr a s
  | .qclr a => Sys2Proof.Machine.execQclr a s
  | .qupd a => Sys2Proof.Machine.execQupd a s
  | .qupdW a => Sys2Proof.Machine.execQupdW a s
  | .qmrg a => Sys2Proof.Machine.execQmrg a s
  | .qmrgV a => Sys2Proof.Machine.execQmrgV a s
  | .qred a => Sys2Proof.Machine.execQred a s
  | .qxm a => Sys2Proof.Machine.execQxm a s
  | .qext a => Sys2Proof.Machine.execQext a s
  | .qraw a => Sys2Proof.Machine.execQraw a s
  | .qnorm a => Sys2Proof.Machine.execQnorm a s
  | .qnormA a => Sys2Proof.Machine.execQnormA a s
  | .qld a => Sys2Proof.Machine.execQld a s
  | .qst a => Sys2Proof.Machine.execQst a s
  | .vfclr a => Sys2Proof.Machine.execVfclr a s
  | .vfevclr a => Sys2Proof.Machine.execVfevclr a s
  | .mmodeWs g => Sys2Proof.Machine.execMmodeWs g s
  | .mmodeRs g => Sys2Proof.Machine.execMmodeRs g s
  | .mlatch g fb l mp => Sys2Proof.Machine.execMlatch g fb l mp s
  | .mlatchT g fb l mp => Sys2Proof.Machine.execMlatchT g fb l mp s
  | .mstream g fa fb l mp h => Sys2Proof.Machine.execMstream g fa fb l mp h s
  | .mstreamD g fa fb l mp => Sys2Proof.Machine.execMstreamD g fa fb l mp s
  | .mouter g fa fb mp h => Sys2Proof.Machine.execMouter g fa fb mp h s
  | .mouterD g fa fb mp => Sys2Proof.Machine.execMouterD g fa fb mp s
  | .mscale g mp idx => Sys2Proof.Machine.execMscale g mp idx s
  | .mdrain g fa fb mp => Sys2Proof.Machine.execMdrain g fa fb mp s
  | .msig g fa mp h => Sys2Proof.Machine.execMsig g fa mp h s
  | .msigD g fa mp => Sys2Proof.Machine.execMsigD g fa mp s
  | .msigS g fa fb l mp h => Sys2Proof.Machine.execMsigS g fa fb l mp h s
  | .msigSD g fa fb l mp => Sys2Proof.Machine.execMsigSD g fa fb l mp s
  | .mexpand g fa fb mp => Sys2Proof.Machine.execMexpand g fa fb mp s
  | .mfold g fa fb mp => Sys2Proof.Machine.execMfold g fa fb mp s
  | .mspillSt g mp => Sys2Proof.Machine.execMspillSt g mp s
  | .mspillLd g mp => Sys2Proof.Machine.execMspillLd g mp s
  | .mclearAcc g => Sys2Proof.Machine.execMclearAcc g s
  | .mclearLatch g l => Sys2Proof.Machine.execMclearLatch g l s
  | .wset g c1 fld w xa => Sys2Proof.Machine.execWset g c1 fld w xa s
  | .wchk g c1 w xd => Sys2Proof.Machine.execWchk g c1 w xd s
  | .dcopyRd g c1 ch w xa => Sys2Proof.Machine.execDcopyRd g c1 ch w xa s
  | .dcopyWr g c1 ch w xa => Sys2Proof.Machine.execDcopyWr g c1 ch w xa s
  | .dtcopyRd g c1 ch w xa xb => Sys2Proof.Machine.execDtcopyRd g c1 ch w xa xb s
  | .dtcopyWr g c1 ch w xa xb => Sys2Proof.Machine.execDtcopyWr g c1 ch w xa xb s
  | .dpush g c1 ch w h xa => Sys2Proof.Machine.execDpush g c1 ch w h xa s
  | .dpushEos g c1 ch h xb => Sys2Proof.Machine.execDpushEos g c1 ch h xb s
  | .dpop g c1 ch w h xa => Sys2Proof.Machine.execDpop g c1 ch w h xa s
  | .dstashRd g c1 ch w xa => Sys2Proof.Machine.execDstashRd g c1 ch w xa s
  | .dstashWr g c1 ch w xa => Sys2Proof.Machine.execDstashWr g c1 ch w xa s
  | .dgather g c1 ch w xa xb => Sys2Proof.Machine.execDgather g c1 ch w xa xb s
  | .dscatter g c1 ch w xa xb => Sys2Proof.Machine.execDscatter g c1 ch w xa xb s
  | .dscatterComb g c1 ch w xa xb => Sys2Proof.Machine.execDscatterComb g c1 ch w xa xb s
  | .tgather g c1 ch h xa xb im => Sys2Proof.Machine.execTgather g c1 ch h xa xb im s
  | .tupdate g c1 ch xa xb im => Sys2Proof.Machine.execTupdate g c1 ch xa xb im s
  | .tprefetch g c1 ch xa xb => Sys2Proof.Machine.execTprefetch g c1 ch xa xb s
  | .xsub g c1 ch xa xb => Sys2Proof.Machine.execXsub g c1 ch xa xb s
  | .rdesc g c1 h xa xb => Sys2Proof.Machine.execRdesc g c1 h xa xb s
  | .rget g c1 xd h half => Sys2Proof.Machine.execRget g c1 xd h half s
  | .dlow g c1 xd ch sel => Sys2Proof.Machine.execDlow g c1 xd ch sel s
  | .fwait f c sc => Sys2Proof.Machine.execFwait f c sc s
  | .fpost f c sc => Sys2Proof.Machine.execFpost f c sc s
  | .rwaitC xd h c => Sys2Proof.Machine.execRwaitC xd h c s
  | .rwaitP h c => Sys2Proof.Machine.execRwaitP h c s
  | .radvC h c => Sys2Proof.Machine.execRadvC h c s
  | .radvP h c => Sys2Proof.Machine.execRadvP h c s
  | .radvEos h => Sys2Proof.Machine.execRadvEos h s
  | .dwait ch c sc => Sys2Proof.Machine.execDwait ch c sc s
  | .handRvInstruction rv form => Sys2Proof.Machine.execHandRvInstruction rv form s
  | .handEcall => Sys2Proof.Machine.execHandEcall s
  | .handEbreak form => Sys2Proof.Machine.execHandEbreak form s
  | .handPrivileged op => Sys2Proof.Machine.execHandPrivileged op s
  | .handRvFence imm rs1 rd => Sys2Proof.Machine.execHandRvFence imm rs1 rd s
  | .hDcmd rd rs1 => Sys2Proof.Machine.execHDcmd rd rs1 s
  | .hTcmd rd rs1 => Sys2Proof.Machine.execHTcmd rd rs1 s
  | .hWset w fld rs1 => Sys2Proof.Machine.execHWset w fld rs1 s
  | .hWchk rd w => Sys2Proof.Machine.execHWchk rd w s
  | .hDlow rd ch sel => Sys2Proof.Machine.execHDlow rd ch sel s
  | .hDwait ch rs1 sc => Sys2Proof.Machine.execHDwait ch rs1 sc s
  | .hDwaitId ch rs1 sc => Sys2Proof.Machine.execHDwaitId ch rs1 sc s
  | .hRwaitC rd h rs1 => Sys2Proof.Machine.execHRwaitC rd h rs1 s
  | .hRwaitP h rs1 => Sys2Proof.Machine.execHRwaitP h rs1 s
  | .hRadvC h rs1 => Sys2Proof.Machine.execHRadvC h rs1 s
  | .hRadvP h rs1 => Sys2Proof.Machine.execHRadvP h rs1 s
  | .hRadvEos h => Sys2Proof.Machine.execHRadvEos h s
  | .hFwait f rs1 sc => Sys2Proof.Machine.execHFwait f rs1 sc s
  | .hFpost f rs1 sc => Sys2Proof.Machine.execHFpost f rs1 sc s
  | .hFence sc => Sys2Proof.Machine.execHFence sc s
  | .hRget rd h half => Sys2Proof.Machine.execHRget rd h half s
  | .hExit status => Sys2Proof.Machine.execHExit status s
  | .bundleIssue k => Sys2Proof.Machine.execBundleIssue k s
  | .yield k => Sys2Proof.Machine.execYield k s
  | .contextSelect k => Sys2Proof.Machine.execContextSelect k s
  | .waitSatisfied k c => Sys2Proof.Machine.execWaitSatisfied k c s
  | .resultLands k => Sys2Proof.Machine.execResultLands k s
  | .syncTimeout who => Sys2Proof.Machine.execSyncTimeout who s
  | .syncWaitComplete k => Sys2Proof.Machine.execSyncWaitComplete k s
  | .ringAccessResume k => Sys2Proof.Machine.execRingAccessResume k s
  | .globalAccessComplete k => Sys2Proof.Machine.execGlobalAccessComplete k s
  | .globalStorePerform sel sc => Sys2Proof.Machine.execGlobalStorePerform sel sc s
  | .engineRecordDelivery n => Sys2Proof.Machine.execEngineRecordDelivery n s
  | .contextHalt k c => Sys2Proof.Machine.execContextHalt k c s
  | .contextResume k c => Sys2Proof.Machine.execContextResume k c s
  | .mintClaim k => Sys2Proof.Machine.execMintClaim k s
  | .eviction k => Sys2Proof.Machine.execEviction k s
  | .save k c => Sys2Proof.Machine.execSave k c s
  | .restore k c => Sys2Proof.Machine.execRestore k c s
  | .teardown card => Sys2Proof.Machine.execTeardown card s
  | .mintQueueEntryFree k => Sys2Proof.Machine.execMintQueueEntryFree k s
  | .mintCommandStart k id => Sys2Proof.Machine.execMintCommandStart k id s
  | .mintCommandRetire k id => Sys2Proof.Machine.execMintCommandRetire k id s
  | .transferPoolFree who => Sys2Proof.Machine.execTransferPoolFree who s
  | .transferStart k ch n => Sys2Proof.Machine.execTransferStart k ch n s
  | .dtcopyTimeReached k ch id => Sys2Proof.Machine.execDtcopyTimeReached k ch id s
  | .transferComplete k ch id => Sys2Proof.Machine.execTransferComplete k ch id s
  | .transferFaultEnd k ch id cause va => Sys2Proof.Machine.execTransferFaultEnd k ch id cause va s
  | .remoteNotifyArrival m => Sys2Proof.Machine.execRemoteNotifyArrival m s
  | .tableCommandArrival k ch id => Sys2Proof.Machine.execTableCommandArrival k ch id s
  | .tableCommandStart v n => Sys2Proof.Machine.execTableCommandStart v n s
  | .rowItemStart v n it => Sys2Proof.Machine.execRowItemStart v n it s
  | .itemWordLimit u => Sys2Proof.Machine.execItemWordLimit u s
  | .rowSectorReadDone u => Sys2Proof.Machine.execRowSectorReadDone u s
  | .poolCombine v n b => Sys2Proof.Machine.execPoolCombine v n b s
  | .bagSlotWrite src n => Sys2Proof.Machine.execBagSlotWrite src n s
  | .tableCommandComplete v n => Sys2Proof.Machine.execTableCommandComplete v n s
  | .ordinaryRequestArrival c => Sys2Proof.Machine.execOrdinaryRequestArrival c s
  | .ordinaryTurnStart c => Sys2Proof.Machine.execOrdinaryTurnStart c s
  | .serviceSwitchDone c => Sys2Proof.Machine.execServiceSwitchDone c s
  | .ordinaryRequestDone c => Sys2Proof.Machine.execOrdinaryRequestDone c s
  | .rowServiceReturn c => Sys2Proof.Machine.execRowServiceReturn c s
  | .tillPromotion v n => Sys2Proof.Machine.execTillPromotion v n s
  | .tillMoveDone v n => Sys2Proof.Machine.execTillMoveDone v n s
  | .tillFlush tid => Sys2Proof.Machine.execTillFlush tid s
  | .scrubStep key res => Sys2Proof.Machine.execScrubStep key res s
  | .exchangeBucket d n => Sys2Proof.Machine.execExchangeBucket d n s
  | .exchangeGather d n => Sys2Proof.Machine.execExchangeGather d n s
  | .exchangeUpdate d n => Sys2Proof.Machine.execExchangeUpdate d n s
  | .cpostStage d n => Sys2Proof.Machine.execCpostStage d n s
  | .caddStage d n => Sys2Proof.Machine.execCaddStage d n s
  | .gatherPartArrival m => Sys2Proof.Machine.execGatherPartArrival m s
  | .gatherPartialReturn m => Sys2Proof.Machine.execGatherPartialReturn m s
  | .updateCountArrival m => Sys2Proof.Machine.execUpdateCountArrival m s
  | .xtmoExpiry d n => Sys2Proof.Machine.execXtmoExpiry d n s
  | .updateAck m => Sys2Proof.Machine.execUpdateAck m s
  | .entryArm d qp => Sys2Proof.Machine.execEntryArm d qp s
  | .entryNop d n => Sys2Proof.Machine.execEntryNop d n s
  | .entryWriteCopy d n => Sys2Proof.Machine.execEntryWriteCopy d n s
  | .entryWriteNarrow d n => Sys2Proof.Machine.execEntryWriteNarrow d n s
  | .entryReduceSum d n => Sys2Proof.Machine.execEntryReduceSum d n s
  | .entryReduceMax d n => Sys2Proof.Machine.execEntryReduceMax d n s
  | .entryReduceMin d n => Sys2Proof.Machine.execEntryReduceMin d n s
  | .entryTripleMerge d n => Sys2Proof.Machine.execEntryTripleMerge d n s
  | .entryBxexp d n => Sys2Proof.Machine.execEntryBxexp d n s
  | .entryBxsum d n => Sys2Proof.Machine.execEntryBxsum d n s
  | .entryBxsumAcc d n => Sys2Proof.Machine.execEntryBxsumAcc d n s
  | .entryBxfin d n => Sys2Proof.Machine.execEntryBxfin d n s
  | .entryCadd d n => Sys2Proof.Machine.execEntryCadd d n s
  | .entryXstage d n => Sys2Proof.Machine.execEntryXstage d n s
  | .chunkArrival m => Sys2Proof.Machine.execChunkArrival m s
  | .parkedChunkApply n => Sys2Proof.Machine.execParkedChunkApply n s
  | .chunkResend d n c => Sys2Proof.Machine.execChunkResend d n c s
  | .entryComplete d n => Sys2Proof.Machine.execEntryComplete d n s
  | .cowService n pick => Sys2Proof.Machine.execCowService n pick s
  | .pageAbsentService n pick => Sys2Proof.Machine.execPageAbsentService n pick s
  | .pageQueuePost d ppi => Sys2Proof.Machine.execPageQueuePost d ppi s
  | .share d => Sys2Proof.Machine.execShare d s
  | .unshare d => Sys2Proof.Machine.execUnshare d s
  | .migrate d pick => Sys2Proof.Machine.execMigrate d pick s
  | .inval d => Sys2Proof.Machine.execInval d s
  | .shootdownPoint n => Sys2Proof.Machine.execShootdownPoint n s
  | .longMoveHostDone n ok data => Sys2Proof.Machine.execLongMoveHostDone n ok data s
  | .doorbellSpi d stream v => Sys2Proof.Machine.execDoorbellSpi d stream v s
  | .doorbellCci d stream v => Sys2Proof.Machine.execDoorbellCci d stream v s
  | .cardAccept d => Sys2Proof.Machine.execCardAccept d s
  | .priorityAgeing card => Sys2Proof.Machine.execPriorityAgeing card s
  | .cardLaunch d y => Sys2Proof.Machine.execCardLaunch d y s
  | .urgentPreempt card => Sys2Proof.Machine.execUrgentPreempt card s
  | .cardComplete card => Sys2Proof.Machine.execCardComplete card s
  | .wdrunExpiry card => Sys2Proof.Machine.execWdrunExpiry card s
  | .flitReplay link => Sys2Proof.Machine.execFlitReplay link s
  | .linkReplayFailure link held => Sys2Proof.Machine.execLinkReplayFailure link held s
  | .moduleReset => Sys2Proof.Machine.execModuleReset s
  | .moduleResetWrite v => Sys2Proof.Machine.execModuleResetWrite v s
  | .featAccWrite v => Sys2Proof.Machine.execFeatAccWrite v s
  | .powerActive cmd => Sys2Proof.Machine.execPowerActive cmd s
  | .powerGated cmd => Sys2Proof.Machine.execPowerGated cmd s
  | .powerRetention cmd => Sys2Proof.Machine.execPowerRetention cmd s
  | .powerOff cmd => Sys2Proof.Machine.execPowerOff cmd s
  | .powerCommandDone => Sys2Proof.Machine.execPowerCommandDone s
  | .thermalThreshold dom reading => Sys2Proof.Machine.execThermalThreshold dom reading s
  | .thermalTrip dom reading => Sys2Proof.Machine.execThermalTrip dom reading s
  | .triplogRead => Sys2Proof.Machine.execTriplogRead s
  | .wearUpdate dom w => Sys2Proof.Machine.execWearUpdate dom w s
  | .wearSample => Sys2Proof.Machine.execWearSample s
  | .registerWrite off v => Sys2Proof.Machine.execRegisterWrite off v s
  | .saveRetry k c resume => Sys2Proof.Machine.execSaveRetry k c resume s
  | .bar2Write va data => Sys2Proof.Machine.execBar2Write va data s
  | .rowNop => Sys2Proof.Machine.execRowNop s
  | .rowNext lbl => Sys2Proof.Machine.execRowNext lbl s
  | .rowBr lbl => Sys2Proof.Machine.execRowBr lbl s
  | .rowLoop sa lbl => Sys2Proof.Machine.execRowLoop sa lbl s
  | .rowHalt => Sys2Proof.Machine.execRowHalt s
  | .rowLdt gd => Sys2Proof.Machine.execRowLdt gd s
  | .rowLdg gd => Sys2Proof.Machine.execRowLdg gd s
  | .rowLds gd p => Sys2Proof.Machine.execRowLds gd p s
  | .rowLdss sd q => Sys2Proof.Machine.execRowLdss sd q s
  | .rowLdc sd c => Sys2Proof.Machine.execRowLdc sd c s
  | .rowMovi sd imm => Sys2Proof.Machine.execRowMovi sd imm s
  | .rowAdd gd ga gb => Sys2Proof.Machine.execRowAdd gd ga gb s
  | .rowSub gd ga gb => Sys2Proof.Machine.execRowSub gd ga gb s
  | .rowMul gd ga gb => Sys2Proof.Machine.execRowMul gd ga gb s
  | .rowMac gd ga gb => Sys2Proof.Machine.execRowMac gd ga gb s
  | .rowSmul gd ga sb => Sys2Proof.Machine.execRowSmul gd ga sb s
  | .rowSmac gd ga sb => Sys2Proof.Machine.execRowSmac gd ga sb s
  | .rowSq gd ga => Sys2Proof.Machine.execRowSq gd ga s
  | .rowMax gd ga gb => Sys2Proof.Machine.execRowMax gd ga gb s
  | .rowHsum sd ga => Sys2Proof.Machine.execRowHsum sd ga s
  | .rowRsq gd ga sb => Sys2Proof.Machine.execRowRsq gd ga sb s
  | .rowSopAdd sd sa sb => Sys2Proof.Machine.execRowSopAdd sd sa sb s
  | .rowSopSub sd sa sb => Sys2Proof.Machine.execRowSopSub sd sa sb s
  | .rowSopMul sd sa sb => Sys2Proof.Machine.execRowSopMul sd sa sb s
  | .rowSopDiv sd sa sb => Sys2Proof.Machine.execRowSopDiv sd sa sb s
  | .rowSopMac sd sa sb => Sys2Proof.Machine.execRowSopMac sd sa sb s
  | .rowSopRsqe sd sa sb => Sys2Proof.Machine.execRowSopRsqe sd sa sb s
  | .rowSopMax sd sa sb => Sys2Proof.Machine.execRowSopMax sd sa sb s
  | .rowSopMov sd sa => Sys2Proof.Machine.execRowSopMov sd sa s
  | .rowQacc t ga sb => Sys2Proof.Machine.execRowQacc t ga sb s
  | .rowQmix t u => Sys2Proof.Machine.execRowQmix t u s
  | .rowQnew t => Sys2Proof.Machine.execRowQnew t s
  | .rowStq ga => Sys2Proof.Machine.execRowStq ga s
  | .rowStqRq ga => Sys2Proof.Machine.execRowStqRq ga s
  | .rowSts ga p => Sys2Proof.Machine.execRowSts ga p s
  | .rowStss sa q => Sys2Proof.Machine.execRowStss sa q s
  | .rowEmit ga => Sys2Proof.Machine.execRowEmit ga s
  | .rowEmitq t => Sys2Proof.Machine.execRowEmitq t s

end Sys2Proof.Machine
end

