-- ==== Sys2Proof/WellFormed.lean ====
section
/-! DEFINITION. Well-formed instructions: those that an encoding stands for, and events that name agents the module has. -/

namespace Sys2Proof

/-! ### Fields of instructions -/

/-- R83: p0 with inverted sense is reserved. -/
def Guard.ok (g : Guard) : Bool := !g.bad

/-- R127: one of the six loop levels. -/
def levelOk (lv : BitVec 3) : Bool := decide (lv.toNat < 6)

/-- R205, R229: a selector of `dlow`; DSHC has no channel. -/
def lowOk (ch : BitVec 4) (sel : BitVec 2) : Bool := decide (sel ≠ 3) && (decide (sel ≠ 2) || decide (ch = 0))

/-- R223: a 32-bit form has its shift amount in range; a compressed form stands for its expansion. -/
def rvOk (i : RvOp) (form : RvForm) : Bool :=
  match form with
  | .full =>
    (match i with
      | .shImm o _ _ sh => !o.short || decide (sh.toNat < 32)
      | _ => true)
  | .compressed h => decide (h.extractLsb' 0 2 ≠ 3) && decide (expandC h = some i)

/-- R227: the codes of `ebreak`. -/
def ebreakOk (form : RvForm) : Bool :=
  match form with
  | .full => true
  | .compressed h => decide (h = 0x9002)

/-- R144: a field that names a statistics register holds 0 to 15. -/
def tripleOk (used : Bool) (f : Fmt) (r : BitVec 6) : Bool := !used || decide (f ≠ .triple) || decide (r.toNat < 16)

/-- R90, R91, R147, R148: a syllable and the control word it names. -/
def VOp.ok (o : VOp) (a : VArgs) : Bool :=
  let w := a.w
  let f := o.fam
  let (fa, fb, fd) := f.usesFmt
  let (ra, rb, rd) := f.usesReg
  let u := f.uses w.fa w.fd w.exsel
  a.g.ok && decide (a.idx ≠ 0) && decide (VOp.ofCode o.code (w.imm0.extractLsb' 0 2) = some (some o)) &&
    f.accepts (some w.fa) (some w.fb) (some w.fd) &&
    (fa || decide (w.fa = .fp32)) && (fb || decide (w.fb = .fp32)) && (fd || decide (w.fd = .fp32)) &&
    tripleOk fa w.fa a.va && tripleOk fb w.fb a.vb && tripleOk fd w.fd a.vd &&
    (ra || decide (a.va = 0)) && (rb || decide (a.vb = 0)) && (rd || decide (a.vd = 0)) &&
    (decide (o ≠ .qmrgV) || decide (a.va.toNat ≤ 61)) && (decide (f ≠ .memx) || decide (w.fd ≠ .int4)) &&
    (decide (f ≠ .mem) || decide (w.fd ≠ .int4) || decide (w.imm1 = 0)) &&
    (u.rm || decide (w.rm = .rne)) && (u.fli || decide (w.fli = .fpcr)) && (u.flo || decide (w.flo = .fpcr)) &&
    (u.sat || !w.sat) && (u.buf || decide (w.buf = .wb)) && (u.xb || decide (w.xb = 0)) && (u.ring || decide (w.ring = 0)) &&
    (u.exsel || decide (w.exsel = 0)) && decide (w.exsel.toNat < 6) && (u.enan || !w.emptynan) &&
    (u.imm0 || decide (w.imm0 = 0)) && decide (w.imm0 &&& ~~~o.imm0Bits = 0) && (decide (o ≠ .qraw) || decide (w.imm0 ≠ 3)) &&
    (u.imm1 || decide (w.imm1 = 0)) && (u.shuf || decide (w.shuf = 0)) && (u.sfp || decide (w.sfp = 0)) && sfpOk w.sfp

/-! ### Agents (R1, R14) -/

def coreOk (k : Nat) : Bool := decide (k < Config.nCores)
def ctxOk (c : Nat) : Bool := decide (c < Config.nCtx)
def dieOk (d : Nat) : Bool := decide (d < 2)
def yardOk (y : Nat) : Bool := decide (y < 12)
def vaultOk (v : Nat) : Bool := decide (v < 8)
/-- R373. -/
def domainOk (i : Nat) : Bool := decide (i < 56)
/-- R237. -/
def UnitId.ok : UnitId → Bool
  | .vault v u => vaultOk v && decide (u < 16)
  | .base st u => decide (st < 8) && decide (u < 8)
/-- R322, R323. -/
def ChanId.ok : ChanId → Bool
  | .vault v ch => vaultOk v && decide (ch < 16)
  | .stack st g => decide (st < 8) && decide (g < 8)
def ErrSite.ok : ErrSite → Bool
  | .scrub _ | .sector _ => true
  | .unit k _ _ => coreOk k
  | .line d y _ => decide (d < 2) && decide (y / 12 = d)
  | .other i => domainOk i
def Waiter.ok : Waiter → Bool
  | .core k => coreOk k
  | .parked k c => coreOk k && ctxOk c
  | .hand k _ => coreOk k
def StoreSel.ok : StoreSel → Bool
  | .pending k _ => coreOk k
  | .dirty d _ => dieOk d
def BagSrc.ok : BagSrc → Bool
  | .vault v => vaultOk v
  | .exchange d => dieOk d

/-- A die, queue pair, group or tier of the module; a read brings no value (R336, R345, R350). -/
def HostAccess.ok (a : HostAccess) (v : Dword) : Bool :=
  match a with
  | .write _ => true
  | .read _ => decide (v = 0)
  | .qpSpace d qp => dieOk d && decide (qp < 256) && decide (v.toNat < 2 ^ 16)
  | .groupSpace g => decide (g < 256) && decide (v.toNat < 2 ^ 16)
  | .defaultTier _ => decide (v.toNat < 4)
  | .supervisorRoot d => dieOk d
  | .frameTable tier => decide (tier < 3) && decide (v.toNat < 2 ^ 52)
  | .frame _ => decide (v.toNat < 2 ^ 18)

/-- Well-formed: every field in the range that an encoding or the module gives it. -/
def Instr.ok : Instr → Bool
  | .nop => true
  | .add g _ _ _ => g.ok
  | .sub g _ _ _ => g.ok
  | .andR g _ _ _ => g.ok
  | .orR g _ _ _ => g.ok
  | .xor g _ _ _ => g.ok
  | .sll g _ _ _ => g.ok
  | .srl g _ _ _ => g.ok
  | .sra g _ _ _ => g.ok
  | .slt g _ _ _ => g.ok
  | .sltu g _ _ _ => g.ok
  | .min g _ _ _ => g.ok
  | .max g _ _ _ => g.ok
  | .minu g _ _ _ => g.ok
  | .maxu g _ _ _ => g.ok
  | .addi g _ _ _ => g.ok
  | .andi g _ _ _ => g.ok
  | .ori g _ _ _ => g.ok
  | .xori g _ _ _ => g.ok
  | .slli g _ _ _ => g.ok
  | .srli g _ _ _ => g.ok
  | .srai g _ _ _ => g.ok
  | .li g _ _ => g.ok
  | .lih g _ _ => g.ok
  | .mul g _ _ _ => g.ok
  | .mulh g _ _ _ => g.ok
  | .mulhu g _ _ _ => g.ok
  | .div g _ _ _ => g.ok
  | .divu g _ _ _ => g.ok
  | .rem g _ _ _ => g.ok
  | .remu g _ _ _ => g.ok
  | .clz g _ _ => g.ok
  | .ctz g _ _ => g.ok
  | .popc g _ _ => g.ok
  | .sextB g _ _ => g.ok
  | .sextH g _ _ => g.ok
  | .sextW g _ _ => g.ok
  | .zextB g _ _ => g.ok
  | .zextH g _ _ => g.ok
  | .zextW g _ _ => g.ok
  | .cmpEq g _ _ _ => g.ok
  | .cmpNe g _ _ _ => g.ok
  | .cmpLt g _ _ _ => g.ok
  | .cmpLtu g _ _ _ => g.ok
  | .cmpGe g _ _ _ => g.ok
  | .cmpGeu g _ _ _ => g.ok
  | .cmpiEq g _ _ _ => g.ok
  | .cmpiNe g _ _ _ => g.ok
  | .cmpiLt g _ _ _ => g.ok
  | .cmpiLtu g _ _ _ => g.ok
  | .cmpiGe g _ _ _ => g.ok
  | .cmpiGeu g _ _ _ => g.ok
  | .pand g _ _ _ => g.ok
  | .por g _ _ _ => g.ok
  | .pxor g _ _ _ => g.ok
  | .pnot g _ _ => g.ok
  | .ldB g _ _ _ _ => g.ok
  | .ldBs g _ _ _ _ => g.ok
  | .ldH g _ _ _ _ => g.ok
  | .ldHs g _ _ _ _ => g.ok
  | .ldW g _ _ _ _ => g.ok
  | .ldWs g _ _ _ _ => g.ok
  | .ldD g _ _ _ _ => g.ok
  | .stB g _ _ _ _ => g.ok
  | .stH g _ _ _ _ => g.ok
  | .stW g _ _ _ _ => g.ok
  | .stD g _ _ _ _ => g.ok
  | .amoAdd g _ _ _ _ => g.ok
  | .amoAnd g _ _ _ _ => g.ok
  | .amoOr g _ _ _ _ => g.ok
  | .amoXor g _ _ _ _ => g.ok
  | .amoMin g _ _ _ _ => g.ok
  | .amoMax g _ _ _ _ => g.ok
  | .amoSwap g _ _ _ _ => g.ok
  | .amoCas g _ _ _ _ _ => g.ok
  | .amoAddW g _ _ _ _ => g.ok
  | .amoAndW g _ _ _ _ => g.ok
  | .amoOrW g _ _ _ _ => g.ok
  | .amoXorW g _ _ _ _ => g.ok
  | .amoMinW g _ _ _ _ => g.ok
  | .amoMaxW g _ _ _ _ => g.ok
  | .amoSwapW g _ _ _ _ => g.ok
  | .amoCasW g _ _ _ _ _ => g.ok
  | .br g _ => g.ok
  | .call g _ _ => g.ok
  | .jr g _ => g.ok
  | .jalr g _ _ => g.ok
  | .loop g lv ra imm => g.ok && levelOk lv && (decide (ra = 0) || decide (imm = 0))
  | .lctlRd g _ lv => g.ok && levelOk lv
  | .lctlBnd g _ lv => g.ok && levelOk lv
  | .lctlBrk g lv => g.ok && levelOk lv
  | .csrr g _ _ => g.ok
  | .csrw g _ _ csr => g.ok && decide (csr ≠ .erpop)
  | .csrs g _ _ csr => g.ok && decide (csr ≠ .erpop)
  | .csrc g _ _ csr => g.ok && decide (csr ≠ .erpop)
  | .erpop g _ _ _ => g.ok
  | .fence g _ => g.ok
  | .drain g _ => g.ok
  | .trap g _ => g.ok
  | .brk g _ => g.ok
  | .eret g => g.ok
  | .exit g _ => g.ok
  | .rdtime g _ => g.ok
  | .rdfeat g _ _ => g.ok
  | .vadd a => VOp.ok .vadd a
  | .vsub a => VOp.ok .vsub a
  | .vmul a => VOp.ok .vmul a
  | .vfma a => VOp.ok .vfma a
  | .vfnma a => VOp.ok .vfnma a
  | .vmin a => VOp.ok .vmin a
  | .vmax a => VOp.ok .vmax a
  | .vabs a => VOp.ok .vabs a
  | .vneg a => VOp.ok .vneg a
  | .vaddi a => VOp.ok .vaddi a
  | .vmuli a => VOp.ok .vmuli a
  | .vand a => VOp.ok .vand a
  | .vor a => VOp.ok .vor a
  | .vxor a => VOp.ok .vxor a
  | .vshl a => VOp.ok .vshl a
  | .vshr a => VOp.ok .vshr a
  | .vsra a => VOp.ok .vsra a
  | .vcmpEq a => VOp.ok .vcmpEq a
  | .vcmpNe a => VOp.ok .vcmpNe a
  | .vcmpLt a => VOp.ok .vcmpLt a
  | .vcmpLe a => VOp.ok .vcmpLe a
  | .vcmpGt a => VOp.ok .vcmpGt a
  | .vcmpGe a => VOp.ok .vcmpGe a
  | .vcmpUn a => VOp.ok .vcmpUn a
  | .vsel a => VOp.ok .vsel a
  | .vcvt a => VOp.ok .vcvt a
  | .vbscl a => VOp.ok .vbscl a
  | .vshuf a => VOp.ok .vshuf a
  | .vbcast a => VOp.ok .vbcast a
  | .vxmov a => VOp.ok .vxmov a
  | .vgredAdd a => VOp.ok .vgredAdd a
  | .vgredMax a => VOp.ok .vgredMax a
  | .vgredMin a => VOp.ok .vgredMin a
  | .vrcp a => VOp.ok .vrcp a
  | .vrsqrt a => VOp.ok .vrsqrt a
  | .vsqrt a => VOp.ok .vsqrt a
  | .vexp2 a => VOp.ok .vexp2 a
  | .vlog2 a => VOp.ok .vlog2 a
  | .vexp a => VOp.ok .vexp a
  | .vlog a => VOp.ok .vlog a
  | .vtanh a => VOp.ok .vtanh a
  | .vsigm a => VOp.ok .vsigm a
  | .vdiv a => VOp.ok .vdiv a
  | .vld a => VOp.ok .vld a
  | .vst a => VOp.ok .vst a
  | .vldx a => VOp.ok .vldx a
  | .vstx a => VOp.ok .vstx a
  | .vrd a => VOp.ok .vrd a
  | .vwr a => VOp.ok .vwr a
  | .qclr a => VOp.ok .qclr a
  | .qupd a => VOp.ok .qupd a
  | .qupdW a => VOp.ok .qupdW a
  | .qmrg a => VOp.ok .qmrg a
  | .qmrgV a => VOp.ok .qmrgV a
  | .qred a => VOp.ok .qred a
  | .qxm a => VOp.ok .qxm a
  | .qext a => VOp.ok .qext a
  | .qraw a => VOp.ok .qraw a
  | .qnorm a => VOp.ok .qnorm a
  | .qnormA a => VOp.ok .qnormA a
  | .qld a => VOp.ok .qld a
  | .qst a => VOp.ok .qst a
  | .vfclr a => VOp.ok .vfclr a
  | .vfevclr a => VOp.ok .vfevclr a
  | .mmodeWs g => g.ok
  | .mmodeRs g => g.ok
  | .mlatch g fb l mp => g.ok && mintOne fb && latchOk fb l && mpOk mp 2
  | .mlatchT g fb l mp => g.ok && mintOne fb && latchOk fb l && mpOk mp 2
  | .mstream g fa fb l mp _ => g.ok && mintPair fa fb && latchOk fb l && mpOk mp 3
  | .mstreamD g fa fb l mp => g.ok && mintPair fa fb && latchOk fb l && mpOk mp 3
  | .mouter g fa fb mp _ => g.ok && mintPair fa fb && mpOk mp 5
  | .mouterD g fa fb mp => g.ok && mintPair fa fb && mpOk mp 5
  | .mscale g _ _ => g.ok
  | .mdrain g fa fb mp => g.ok && drainFmt fa && drainFmt fb && mpOk mp 4
  | .msig g fa mp _ => g.ok && mintOne fa && mpOk mp 5
  | .msigD g fa mp => g.ok && mintOne fa && mpOk mp 5
  | .msigS g fa fb l mp _ => g.ok && mintPair fa fb && latchOk fb l && mpOk mp 5
  | .msigSD g fa fb l mp => g.ok && mintPair fa fb && latchOk fb l && mpOk mp 5
  | .mexpand g fa fb mp => g.ok && drainFmt fa && drainFmt fb && mpOk mp 5
  | .mfold g fa fb mp => g.ok && mintOne fa && foldFmt fb && mpOk mp 4
  | .mspillSt g _ => g.ok
  | .mspillLd g _ => g.ok
  | .mclearAcc g => g.ok
  | .mclearLatch g _ => g.ok
  | .wset g _ fld _ _ => g.ok && decide (fld ≠ 15)
  | .wchk g _ _ _ => g.ok
  | .dcopyRd g _ _ _ _ => g.ok
  | .dcopyWr g _ _ _ _ => g.ok
  | .dtcopyRd g _ _ _ _ _ => g.ok
  | .dtcopyWr g _ _ _ _ _ => g.ok
  | .dpush g _ _ _ _ _ => g.ok
  | .dpushEos g _ _ _ _ => g.ok
  | .dpop g _ _ _ _ _ => g.ok
  | .dstashRd g _ _ _ _ => g.ok
  | .dstashWr g _ _ _ _ => g.ok
  | .dgather g _ _ _ _ _ => g.ok
  | .dscatter g _ _ _ _ _ => g.ok
  | .dscatterComb g _ _ _ _ _ => g.ok
  | .tgather g _ _ _ _ _ _ => g.ok
  | .tupdate g _ _ _ _ _ => g.ok
  | .tprefetch g _ _ _ _ => g.ok
  | .xsub g _ _ _ _ => g.ok
  | .rdesc g _ _ _ _ => g.ok
  | .rget g _ _ _ _ => g.ok
  | .dlow g _ _ ch sel => g.ok && lowOk ch sel
  | .fwait _ _ _ => true
  | .fpost _ _ _ => true
  | .rwaitC _ _ _ => true
  | .rwaitP _ _ => true
  | .radvC _ _ => true
  | .radvP _ _ => true
  | .radvEos _ => true
  | .dwait _ _ _ => true
  | .handRvInstruction i form => rvOk i form
  | .handEcall => true
  | .handEbreak form => ebreakOk form
  | .handPrivileged _ => true
  | .handRvFence _ _ _ => true
  | .hDcmd _ _ => true
  | .hTcmd _ _ => true
  | .hWset _ fld _ => decide (fld ≠ 15)
  | .hWchk _ _ => true
  | .hDlow _ ch sel => lowOk ch sel
  | .hDwait _ _ _ => true
  | .hDwaitId _ _ _ => true
  | .hRwaitC _ _ _ => true
  | .hRwaitP _ _ => true
  | .hRadvC _ _ => true
  | .hRadvP _ _ => true
  | .hRadvEos _ => true
  | .hFwait _ _ _ => true
  | .hFpost _ _ _ => true
  | .hFence _ => true
  | .hRget _ _ _ => true
  | .hExit _ => true
  | .bundleIssue k => coreOk k
  | .yield k => coreOk k
  | .contextSelect k => coreOk k
  | .waitSatisfied k c => coreOk k && ctxOk c
  | .resultLands k => coreOk k
  | .syncTimeout who => who.ok
  | .syncWaitComplete k => coreOk k
  | .ringAccessResume k => coreOk k
  | .globalAccessComplete k => coreOk k
  | .globalStorePerform sel _ => sel.ok
  | .engineRecordDelivery _ => true
  | .contextHalt k c => coreOk k && ctxOk c
  | .contextResume k c => coreOk k && ctxOk c
  | .mintClaim k => coreOk k
  | .eviction k => coreOk k
  | .save k c => coreOk k && ctxOk c
  | .restore k c => coreOk k && ctxOk c
  | .teardown _ => true
  | .mintQueueEntryFree k => coreOk k
  | .mintCommandStart k _ => coreOk k
  | .mintCommandRetire k _ => coreOk k
  | .transferPoolFree who => who.ok
  | .transferStart k ch _ => coreOk k && decide (ch < 16)
  | .dtcopyTimeReached k ch _ => coreOk k && decide (ch < 16)
  | .transferComplete k ch _ => coreOk k && decide (ch < 16)
  | .transferFaultEnd k ch _ _ _ => coreOk k && decide (ch < 16)
  | .remoteNotifyArrival _ => true
  | .tableCommandArrival k ch _ => coreOk k && decide (ch < 16)
  | .tableCommandStart v _ => vaultOk v
  | .rowItemStart v _ _ => vaultOk v
  | .itemWordLimit u => u.ok
  | .rowSectorReadDone u => u.ok
  | .poolCombine v _ _ => vaultOk v
  | .bagSlotWrite src _ => src.ok
  | .tableCommandComplete v _ => vaultOk v
  | .ordinaryRequestArrival c => c.ok
  | .ordinaryTurnStart c => c.ok
  | .serviceSwitchDone c => c.ok
  | .ordinaryRequestDone c => c.ok
  | .rowServiceReturn c => c.ok
  | .tillPromotion v _ => vaultOk v
  | .tillMoveDone v _ => vaultOk v
  | .tillFlush _ => true
  | .scrubStep e _ => e.ok
  | .exchangeBucket d _ => dieOk d
  | .exchangeGather d _ => dieOk d
  | .exchangeUpdate d _ => dieOk d
  | .cpostStage d _ => dieOk d
  | .caddStage d _ => dieOk d
  | .gatherPartArrival _ => true
  | .gatherPartialReturn _ => true
  | .updateCountArrival _ => true
  | .xtmoExpiry d _ => dieOk d
  | .updateAck _ => true
  | .entryArm d qp => dieOk d && decide (qp < 256)
  | .entryNop d _ => dieOk d
  | .entryWriteCopy d _ => dieOk d
  | .entryWriteNarrow d _ => dieOk d
  | .entryReduceSum d _ => dieOk d
  | .entryReduceMax d _ => dieOk d
  | .entryReduceMin d _ => dieOk d
  | .entryTripleMerge d _ => dieOk d
  | .entryBxexp d _ => dieOk d
  | .entryBxsum d _ => dieOk d
  | .entryBxsumAcc d _ => dieOk d
  | .entryBxfin d _ => dieOk d
  | .entryCadd d _ => dieOk d
  | .entryXstage d _ => dieOk d
  | .chunkArrival _ => true
  | .parkedChunkApply _ => true
  | .chunkResend d _ _ => dieOk d
  | .entryComplete d _ => dieOk d
  | .cowService _ _ => true
  | .pageAbsentService _ _ => true
  | .pageQueuePost d _ => dieOk d
  | .share d => dieOk d
  | .unshare d => dieOk d
  | .migrate d _ => dieOk d
  | .inval d => dieOk d
  | .shootdownPoint _ => true
  | .longMoveHostDone _ _ _ => true
  | .doorbellSpi d _ _ => dieOk d
  | .doorbellCci d _ _ => dieOk d
  | .cardAccept d => dieOk d
  | .priorityAgeing _ => true
  | .cardLaunch d y => dieOk d && yardOk y
  | .urgentPreempt _ => true
  | .cardComplete _ => true
  | .wdrunExpiry _ => true
  | .flitReplay _ => true
  | .linkReplayFailure _ _ => true
  | .moduleReset => true
  | .moduleResetWrite _ => true
  | .featAccWrite _ => true
  | .powerActive _ => true
  | .powerGated _ => true
  | .powerRetention _ => true
  | .powerOff _ => true
  | .powerCommandDone => true
  | .thermalThreshold dom _ => domainOk dom
  | .thermalTrip dom _ => domainOk dom
  | .triplogRead => true
  | .wearUpdate dom _ => domainOk dom
  | .wearSample => true
  | .registerWrite a v => a.ok v
  | .saveRetry k c _ => coreOk k && ctxOk c
  | .bar2Write _ _ => true
  | .rowNop => true
  | .rowNext _ => true
  | .rowBr _ => true
  | .rowLoop _ _ => true
  | .rowHalt => true
  | .rowLdt _ => true
  | .rowLdg _ => true
  | .rowLds _ _ => true
  | .rowLdss _ _ => true
  | .rowLdc _ c => decide (c.toNat < 6)
  | .rowMovi _ _ => true
  | .rowAdd _ _ _ => true
  | .rowSub _ _ _ => true
  | .rowMul _ _ _ => true
  | .rowMac _ _ _ => true
  | .rowSmul _ _ _ => true
  | .rowSmac _ _ _ => true
  | .rowSq _ _ => true
  | .rowMax _ _ _ => true
  | .rowHsum _ _ => true
  | .rowRsq _ _ _ => true
  | .rowSopAdd _ _ _ => true
  | .rowSopSub _ _ _ => true
  | .rowSopMul _ _ _ => true
  | .rowSopDiv _ _ _ => true
  | .rowSopMac _ _ _ => true
  | .rowSopRsqe _ _ _ => true
  | .rowSopMax _ _ _ => true
  | .rowSopMov _ _ => true
  | .rowQacc _ _ _ => true
  | .rowQmix _ _ => true
  | .rowQnew _ => true
  | .rowStq _ => true
  | .rowStqRq _ => true
  | .rowSts _ _ => true
  | .rowStss _ _ => true
  | .rowEmit _ => true
  | .rowEmitq _ => true

end Sys2Proof
end

