-- ==== Sys2Proof/Machine/Agents.lean ====
section
/-! DEFINITION. What an agent does next when it is left to itself: a core issues the bundle at its program counter, a hand
executes the instruction at its, a row unit the micro-word at its micro-PC; what may still happen when the module has
tripped; and the placing of an instruction where the next step fetches it. -/

namespace Sys2Proof

/-- R381, R384: what still has an effect when the module has tripped: a reset, and a read of the trip log. -/
def Instr.afterTrip (i : Instr) : Bool :=
  match i with
  | .moduleReset => true
  | .triplogRead => true
  | .registerWrite (.read _) _ => true
  | _ => false

end Sys2Proof

namespace Sys2Proof.Machine

/-- R384: the device's self-test and training have ended, and FEATPUB is written (step 2). -/
def State.trained (s : State) : State :=
  if s.siltin = .training then { s with siltin := .published, featPub := Config.featPublished } else s

/-- `n` cycles of TIMEBASE, of which the module has one: R5 and R142 let those of the dies and Vaults differ by up to 2 cycles,
which the model does not show. Training ends in the first cycle that passes (DESIGN CHOICE, log entry 11). -/
def State.tick (s : State) (n : Nat) : State :=
  if n = 0 then s
  else
    let s := { s with timebase := s.timebase + BitVec.ofNat 64 n, cycleTop := [], cycleTook := [] }
    if s.tripped then s else s.trained.landLate

/-! ### The order within one cycle (R29, R32, R233) -/

/-- The Dray channel's place among what acts on its own core and on the core of a yard neighbour's ring (R211). -/
def State.channelPlaces (s : State) (k ch : Nat) : List (Nat × Nat) :=
  (k, 3 + ch) :: (s.core k).transfers.filterMap fun t =>
    match t.ring with
    | some (j, _) => if t.ch = ch ∧ j ≠ k then some (j, 64 + 16 * (k % 4) + ch) else none
    | none => none

/-- A hand's place on its core. -/
def handPlace (r : Role) : Nat := match r with | .load => 128 | .store => 129

/-- The place of who waited and goes on. -/
def waiterPlaces (w : Waiter) : List (Nat × Nat) :=
  match w with
  | .core k => [(k, 1)]
  | .hand k r => [(k, handPlace r)]
  | .parked k c => [(k, 1024 + c)]

/-- The channel of the transfer that a stage came with, and its core. -/
def Stage.places (st : Stage) : List (Nat × Nat) :=
  match st.by_ with
  | .entry .. => []
  | _ => [(st.k, 3 + st.ch)]
def State.stagePlaces (s : State) (d n : Nat) : List (Nat × Nat) := ((s.die d).stages[n]?.map Stage.places).getD []

/-- A message as it arrives. -/
def State.arrival (s : State) (m : MsgSrc) : Option Msg :=
  match m with
  | .inFlight n => s.inbox[n]?
  | .fromPeer x => some x

/-- The core whose flag a completing entry posts (R274): as a remote increment. -/
def Entry.places (e : Entry) : List (Nat × Nat) :=
  let w := e.dword 6
  if noteEn w then [(if noteRemote w then noteCore w else 48 * e.d, 512)] else []

/-- The cores on which an instruction or event acts, each with its place among the operations of one cycle there: the bundle
and its further attempts, the Mint, the core's Dray channels, those of yard neighbours, the load hand, the store hand, the
Vaults, the Exchanges, remote increments, flag waits of the hands and of parked contexts. What ends an engine command makes
its notification in its channel's place (DESIGN CHOICE, log entry 10). -/
def State.places (s : State) (i : Instr) : List (Nat × Nat) :=
  match i with
  | .bundleIssue k | .yield k | .syncWaitComplete k | .ringAccessResume k | .globalAccessComplete k | .mintQueueEntryFree k =>
    [(k, 1)]
  | .transferPoolFree w | .syncTimeout w => waiterPlaces w
  | .waitSatisfied k c => [(k, 1024 + c)]
  | .mintCommandRetire k _ => [(k, 2)]
  | .transferStart k ch _ | .dtcopyTimeReached k ch _ | .transferComplete k ch _ | .transferFaultEnd k ch _ _ _ =>
    s.channelPlaces k ch
  | .bagSlotWrite (.vault v) n =>
    (match (s.vault v).cmds[n]?.bind (·.ring) with
      | some (j, _) => [(j, 256 + v)]
      | none => [])
  | .tableCommandComplete v n =>
    (match (s.vault v).cmds[n]? with
      | some c => (match c.src with | .transfer k ch _ => [(k, 3 + ch)] | _ => [])
      | none => [])
  | .bagSlotWrite (.exchange d) n =>
    (match (s.die d).stages[n]? with
      | some st => [(st.k, 264 + d)]
      | none => [])
  | .exchangeBucket d n | .exchangeGather d n | .exchangeUpdate d n | .cpostStage d n | .caddStage d n => s.stagePlaces d n
  | .gatherPartialReturn m | .updateAck m =>
    (match s.arrival m with
      | some (.bagDone q) => ((s.findStage q.die q.stage 2).map Stage.places).getD []
      | some (.ack q) => ((s.findStage q.die q.stage 3).map Stage.places).getD []
      | _ => [])
  | .remoteNotifyArrival m =>
    (match s.arrival m with
      | some (.notify k ..) => [(k, 512)]
      | _ => [])
  | .entryComplete d n => ((s.entries[n]?.filter fun e => decide (e.d = d)).map Entry.places).getD []
  | .hFwait .. =>
    (match s.focus with
      | .hand k .load => [(k, 1022)]
      | .hand k .store => [(k, 1023)]
      | _ => [])
  | _ =>
    match (encode i).isSome, s.focus with
    | true, .core k => [(k, 1)]
    | true, .hand k r => [(k, handPlace r)]
    | _, _ => []

/-- A scheduled turn passes its cycles, and one more where an operation that comes after it in a cycle has already been made in
this one (DESIGN CHOICE, log entry 10). -/
def State.begin (s : State) (t : Turn) : State :=
  let p := s.places t.ev
  let late := p.any fun x => decide (x.2 < Tab.get 0 s.cycleTop x.1)
  let s := s.tick (if t.dt = 0 && late then 1 else t.dt)
  { s with cycleTop := p.foldl (fun m x => Tab.put m x.1 x.2) s.cycleTop }

/-! ### A core -/

/-- The instruction of a normal bundle that has at most one slot that is not all zero. -/
def soleInstr (w : BitVec 256) (x : Ctx) : Option Instr :=
  if bundleHead w ≠ 0 then none
  else
    match (List.range 7).filterMap fun n => slotWord w x n with
    | [] => some .nop
    | [.ok i] => some i
    | _ => none

/-- The instruction or event by which the bundle that context `c` of core `k` fetches issues. -/
def State.coreInstr (s : State) (k c : Nat) : Instr :=
  match s.fetch k c (s.ctx k c).pc with
  | .ok w =>
    (match soleInstr w (s.ctx k c) with
      | some i => i
      | none => if (fld (bundleHead w) 0 2).toNat = 1 then .yield k else .bundleIssue k)
  | _ => .bundleIssue k

/-- R37, R82: what core `k` does next: a selection when it runs no context, else its next bundle. -/
def State.coreNext (s : State) (k : Nat) : Instr :=
  match s.issuer k with
  | none => .contextSelect k
  | some c => s.coreInstr k c

/-! ### A hand -/

/-- R223, R227: the next instruction of a hand, or the fault of its fetch. -/
def handNext (k : Nat) (r : Role) (s : State) : Host.Outcome State Fault Refusal :=
  let h := s.hand k r
  if !h.running then .next s
  else
    match h.fetch with
    | .error a => .next (s.handFault k r .fetchOutsideCode a)
    | .ok w =>
      match decodeH w with
      | .error c => .next (s.handFault k r (h.decodeFault w c) 0)
      | .ok i => exec i s

/-! ### A row unit -/

/-- The meaning of a micro-word. -/
def rowExec (op : RowOp) (s : State) : Host.Outcome State Fault Refusal :=
  match op with
  | .rowNop => execRowNop s
  | .rowNext lbl => execRowNext lbl s
  | .rowBr lbl => execRowBr lbl s
  | .rowLoop sa lbl => execRowLoop sa lbl s
  | .rowHalt => execRowHalt s
  | .rowLdt gd => execRowLdt gd s
  | .rowLdg gd => execRowLdg gd s
  | .rowLds gd p => execRowLds gd p s
  | .rowLdss sd q => execRowLdss sd q s
  | .rowLdc sd c => execRowLdc sd c s
  | .rowMovi sd imm => execRowMovi sd imm s
  | .rowAdd gd ga gb => execRowAdd gd ga gb s
  | .rowSub gd ga gb => execRowSub gd ga gb s
  | .rowMul gd ga gb => execRowMul gd ga gb s
  | .rowMac gd ga gb => execRowMac gd ga gb s
  | .rowSmul gd ga sb => execRowSmul gd ga sb s
  | .rowSmac gd ga sb => execRowSmac gd ga sb s
  | .rowSq gd ga => execRowSq gd ga s
  | .rowMax gd ga gb => execRowMax gd ga gb s
  | .rowHsum sd ga => execRowHsum sd ga s
  | .rowRsq gd ga sb => execRowRsq gd ga sb s
  | .rowSopAdd sd sa sb => execRowSopAdd sd sa sb s
  | .rowSopSub sd sa sb => execRowSopSub sd sa sb s
  | .rowSopMul sd sa sb => execRowSopMul sd sa sb s
  | .rowSopDiv sd sa sb => execRowSopDiv sd sa sb s
  | .rowSopMac sd sa sb => execRowSopMac sd sa sb s
  | .rowSopRsqe sd sa sb => execRowSopRsqe sd sa sb s
  | .rowSopMax sd sa sb => execRowSopMax sd sa sb s
  | .rowSopMov sd sa => execRowSopMov sd sa s
  | .rowQacc t ga sb => execRowQacc t ga sb s
  | .rowQmix t u => execRowQmix t u s
  | .rowQnew t => execRowQnew t s
  | .rowStq ga => execRowStq ga s
  | .rowStqRq ga => execRowStqRq ga s
  | .rowSts ga p => execRowSts ga p s
  | .rowStss sa q => execRowStss sa q s
  | .rowEmit ga => execRowEmit ga s
  | .rowEmitq t => execRowEmitq t s

/-- R244, R246: what a row unit does next: its awaited sectors arrive, its item ends at the word limit, or it executes a
micro-word. A row image is checked when its card is accepted (R241), so that every word decodes. -/
def unitNext (u : UnitId) (s : State) : Host.Outcome State Fault Refusal :=
  let r := s.unit u
  if r.item.isNone then .next s
  else if r.shipped || ((r.rowDue.or r.stateDue).isSome && r.present s.now) then execRowSectorReadDone u s
  else if Config.itemWords ≤ r.words then execItemWordLimit u s
  else
    match decodeRow r.word with
    | .ok op => rowExec op s
    | .error _ => .next s

/-! ### The agent in focus -/

/-- The module has the agent (R1, R14). -/
def Focus.ok (f : Focus) : Bool :=
  match f with
  | .core k => decide (k < Config.nCores)
  | .hand k _ => decide (k < Config.nCores)
  | .unit u => u.ok

/-- The move of the agent in focus. -/
def State.focusMove (s : State) : Host.Outcome State Fault Refusal :=
  match s.focus with
  | .core k => exec (s.coreNext k) s
  | .hand k r => handNext k r s
  | .unit u => unitNext u s

/-! ### Placing an instruction -/

/-- Where a word of the opcode table is placed. -/
inductive Spot where
  | slot (lo : Nat)
  | hand
  deriving DecidableEq, Repr

/-- The decoder that reads a word of the table, in the order of `decodeTableWord` (log entry 4). -/
def tableSpot (nbits w : Nat) : Spot :=
  let b := BitVec.ofNat 32 w
  if nbits = 48 then .slot 48
  else if (decodeM b).toOption.isSome then .slot 160
  else if (decodeC false b).toOption.isSome then .slot 192
  else if (decodeY b).toOption.isSome then .slot 16
  else if (decodeH b).toOption.isSome then .hand
  else .slot 96

/-- The code address at which an instruction is placed. -/
def placePc : Dword := 0x1040

/-- The bytes of the page tables that map the page of `placePc`, executable at user level, in frames 0 to 3 of HBM stack
0, and of a bundle there. -/
def placeBytes (bundle : Nat) : List (Nat × Byte) :=
  let entry (a v : Nat) : List (Nat × Byte) := (List.range 8).zip (leBytes 8 v) |>.map fun x => (a + x.1, x.2)
  entry 0 (1 * 65536 + 1) ++ entry 65536 (2 * 65536 + 1) ++ entry 131072 (3 * 65536 + 2 ^ 14 + 2 ^ 6 + 3) ++
    ((List.range 32).zip (leBytes 32 bundle)).map fun x => (3 * 65536 + 0x1040 + x.1, x.2)

/-- A running context of core 0 whose next bundle has the word `w` from bit `lo` on and is otherwise all zero. -/
def State.placeSlot (s : State) (lo w : Nat) : State :=
  let l := placeBytes (w * 2 ^ lo)
  let idx : BitVec 9 := fld (BitVec.ofNat 32 w) 23 9
  let s := { s with frames := Tab.put (Tab.put s.frames 3 {}) 0 {} }
  let s := s.setDomain 32 { s.domain 32 with power := .active }
  let s := s.writeModule l
  let s := s.modDie 0 fun d => { d with spaces := Tab.put d.spaces 0 1 }
  let s := s.setCard 0 { die := 0, stream := 0, dw := [0, 0x1000], hdr := 32 <<< 64, st := .running }
  let s := s.modCtx 0 0 fun x =>
    { x with
      st := .running, server := .none, pc := placePc, start := 0, phase := .normal, ckFill := false, haltReq := false
      drain := none, fpPend := none, pend := false, flights := [], card := some 0
      vcw := if lo = 96 then Tab.put x.vcw idx.toNat (tableVcw idx) else x.vcw }
  let s := s.modCore 0 fun q => { q with run := some 0, hold := none, stores := q.stores.filter fun p => !p.meets l }
  { s with focus := .core 0 }

/-- The running load hand of core 0 with the word at its program counter. -/
def State.placeHand (s : State) (w : Nat) : State :=
  let n := if hShort (BitVec.ofNat 32 w) then 2 else 4
  let s := s.modHand 0 .load fun h =>
    { h with running := true, pc := 0, isz := n, imem := h.imem.writeList 0 (leBytes n w), waitAt := none }
  { s with focus := .hand 0 .load }

/-- A module that has been brought up, with nothing scheduled and the instruction where its next step fetches it
(DEDUCED, log entry 5). -/
def State.place (s : State) (nbits w : Nat) : State :=
  let s := { s with schedule := [], tripped := false, siltin := .ready }
  match tableSpot nbits w with
  | .slot lo => s.placeSlot lo w
  | .hand => s.placeHand w

end Sys2Proof.Machine
end

