-- ==== Sys2Proof/Machine/Step.lean ====
section
/-! DEFINITION. One step of the module: the next scheduled move, or a move of the agent in focus; and the placing of an
instruction where the next step fetches it. -/

namespace Sys2Proof.Machine

/-- One step. The first scheduled turn passes its cycles and then happens; with nothing scheduled the module leaves reset
(R384), or one cycle passes and the agent in focus moves. A tripped module only passes time, but for a reset and a read of
its trip log (R381, R384). -/
def step (s : State) : Host.Outcome State Fault Refusal :=
  match s.schedule with
  | t :: rest =>
    let s' := State.begin { s with schedule := rest } t
    if !t.ev.ok then .fault .noSuchAgent
    else if s.tripped && !t.ev.afterTrip then .next s'
    else exec t.ev s'
  | [] =>
    if !s.focus.ok then .fault .noSuchAgent
    else if s.tripped then .next (s.tick 1)
    else if s.siltin = .reset then execModuleReset s
    else (s.tick 1).focusMove

/-- The state with an instruction of the opcode table where the next step fetches and runs it (log entry 4). -/
def State.withFetchWord (s : State) (nbits w : Nat) : State := s.place nbits w

end Sys2Proof.Machine
end

