-- ==== Sys2Proof/Safety.lean ====
section
/-! DEFINITION. What counts as a safe run, and the words in which the statements about slot instructions are put: a core
that issues its next bundle, and the state after a bundle that falls through to the next one. -/

namespace Sys2Proof

/-- `n` steps from `s` all give a next state. -/
def SafeFor : Nat → Machine.State → Prop
  | 0, _ => True
  | n + 1, s => ∃ s', Machine.step s = .next s' ∧ SafeFor n s'

end Sys2Proof

namespace Sys2Proof.Machine

/-- R305: core `k` is in focus and runs context `c`, and nothing of the boundary's order (a halt request, a handler's
return, a loop scan, an FP-Trap, a pending record, the fill bundles of a checkpoint or an exit) comes before its next
bundle, which issues from its first slot; no `drain` holds it any longer (R138). `t` is the module once the results due have
landed (R39) and the bundle has been fetched (R343): what the slots of the bundle see. -/
structure Issuing (s : State) (k c : Nat) (t : State) : Prop where
  focus : s.focus = .core k
  runs : s.issuer k = some c
  go : ∃ u, s.boundary k c = .go u ∧ u.undrained k c = false ∧ t = (u.modCtx k c fun x => { x with drain := none }).fetchFill k c
  first : (t.ctx k c).start = 0

/-- The results in flight of a context, one bundle nearer (R39). -/
def Ctx.aged (x : Ctx) : Ctx := { x with flights := x.flights.map fun f => { f with r := f.r - 1 } }

/-- The module after a normal bundle of context `c` of core `k` whose slots left only the results `fl`, and whose next
bundle lies at `pc`: the bundle counts, every result in flight on the core is one bundle nearer, the new ones are in
flight. -/
def State.after (t : State) (k c : Nat) (fl : List Flight) (pc : Dword) : State :=
  t.fresh.setCore k (((t.core k).counted c).unheld.setCtx c
    ((((t.ctx k c).aged.leave fl ((t.core k).seq + 1)).keepSplit none).goOn pc {} .normal))

/-- The same, falling through to the bundle that follows (R85). -/
def State.fallThrough (t : State) (k c : Nat) (fl : List Flight) : State := t.after k c fl ((t.ctx k c).pc + 32)

/-- What a slot of a bundle issued by itself sees. -/
def State.slotView (t : State) (k c slot : Nat) : Bx :=
  { s := t, k, c, pc := (t.ctx k c).pc, slot, fpcr := (t.ctx k c).fpcr, alone := true, late := (t.ctx k c).timedOut
    chans := (t.core k).chans, dshc := (t.core k).dshc, ord0 := (t.core k).storeCtr }

/-- The module once a bundle whose first slots are all zero has committed those slots alone. -/
def State.counted (t : State) (k c : Nat) : State :=
  t.fresh.setCore k (((t.core k).counted c).setCtx c ((t.ctx k c).aged.leave [] ((t.core k).seq + 1)))

/-- R82, R297: the only slot of a bundle, slot `slot`, faults: the (empty) slots before it commit, it and the later ones do
not, and the context takes the fault; the rest of the bundle keeps the FPCR that it sampled (R57). -/
def State.slotFault (t : State) (k c slot : Nat) (e : Cause) (v : Dword) : State :=
  ((if slot = 0 then t.fresh else t.counted k c).keepSplit k c
    (if slot = 0 then none else some { pc := (t.ctx k c).pc, slot, fpcr := (t.ctx k c).fpcr })).raise k c
      (Trap.atIssue e v (t.ctx k c).pc slot)

/-- A result of slot `slot` that lands before the bundle `lat` bundles on. -/
def State.result (t : State) (k c slot lat : Nat) (dest : Dest) (val : Val) (flags traps : BitVec 5 := 0) : Flight :=
  { dest, val, r := lat, flags, traps, baddr := (t.ctx k c).pc, slot, seq := 0 }

end Sys2Proof.Machine
end

