-- ==== Sys2Proof/Certificates/Slice0/Obligations.lean ====
section
/-! DEFINITION. The statements for the provers. Each says in its docstring which rules of the spec it formalises; the
words they share (`Issuing`, `State.after`, …) stand in Safety.lean, and what an instruction's rule computes in the
definitions before each statement. -/

namespace Sys2Proof.Claims

open Sys2Proof Sys2Proof.Machine

/-! ### The step, the encodings and the machine as a whole -/

/-- Nothing is scheduled, the module has been brought up and has not tripped: the agent in focus moves. -/
structure Left (s : State) : Prop where
  none : s.schedule = []
  up : s.siltin ≠ .reset
  cool : s.tripped = false
  there : s.focus.ok = true

/-- R79, R81: a bundle whose header and slots are all zero but for one slot, whose word decodes to `i`; or a bundle that is
all zero, which stands for `nop`. -/
def OnlyInstr (w : BitVec 256) (x : Ctx) (i : Instr) : Prop :=
  bundleHead w = 0 ∧
    ((i = .nop ∧ ∀ n, slotWord w x n = none) ∨
      ∃ n, slotWord w x n = some (.ok i) ∧ ∀ m, m ≠ n → slotWord w x m = none)

/-- The bundle as the core issues it whole: it holds no single instruction. -/
def ManySlots (w : BitVec 256) (x : Ctx) : Prop := ∀ i, ¬ OnlyInstr w x i

/-- A micro-word's operation as a row of the opcode table. -/
def IsRow (op : RowOp) (i : Instr) : Prop := op.instr = i

/-- The rows of the opcode table that are no instruction but an event of the machine: they have no encoding. -/
def isEvent : Instr → Bool
  | .bundleIssue _ => true
  | .yield _ => true
  | .contextSelect _ => true
  | .waitSatisfied _ _ => true
  | .resultLands _ => true
  | .syncTimeout _ => true
  | .syncWaitComplete _ => true
  | .ringAccessResume _ => true
  | .globalAccessComplete _ => true
  | .globalStorePerform _ _ => true
  | .engineRecordDelivery _ => true
  | .contextHalt _ _ => true
  | .contextResume _ _ => true
  | .mintClaim _ => true
  | .eviction _ => true
  | .save _ _ => true
  | .restore _ _ => true
  | .teardown _ => true
  | .mintQueueEntryFree _ => true
  | .mintCommandStart _ _ => true
  | .mintCommandRetire _ _ => true
  | .transferPoolFree _ => true
  | .transferStart _ _ _ => true
  | .dtcopyTimeReached _ _ _ => true
  | .transferComplete _ _ _ => true
  | .transferFaultEnd _ _ _ _ _ => true
  | .remoteNotifyArrival _ => true
  | .tableCommandArrival _ _ _ => true
  | .tableCommandStart _ _ => true
  | .rowItemStart _ _ _ => true
  | .itemWordLimit _ => true
  | .rowSectorReadDone _ => true
  | .poolCombine _ _ _ => true
  | .bagSlotWrite _ _ => true
  | .tableCommandComplete _ _ => true
  | .ordinaryRequestArrival _ => true
  | .ordinaryTurnStart _ => true
  | .serviceSwitchDone _ => true
  | .ordinaryRequestDone _ => true
  | .rowServiceReturn _ => true
  | .tillPromotion _ _ => true
  | .tillMoveDone _ _ => true
  | .tillFlush _ => true
  | .scrubStep _ _ => true
  | .exchangeBucket _ _ => true
  | .exchangeGather _ _ => true
  | .exchangeUpdate _ _ => true
  | .cpostStage _ _ => true
  | .caddStage _ _ => true
  | .gatherPartArrival _ => true
  | .gatherPartialReturn _ => true
  | .updateCountArrival _ => true
  | .xtmoExpiry _ _ => true
  | .updateAck _ => true
  | .entryArm _ _ => true
  | .entryNop _ _ => true
  | .entryWriteCopy _ _ => true
  | .entryWriteNarrow _ _ => true
  | .entryReduceSum _ _ => true
  | .entryReduceMax _ _ => true
  | .entryReduceMin _ _ => true
  | .entryTripleMerge _ _ => true
  | .entryBxexp _ _ => true
  | .entryBxsum _ _ => true
  | .entryBxsumAcc _ _ => true
  | .entryBxfin _ _ => true
  | .entryCadd _ _ => true
  | .entryXstage _ _ => true
  | .chunkArrival _ => true
  | .parkedChunkApply _ => true
  | .chunkResend _ _ _ => true
  | .entryComplete _ _ => true
  | .cowService _ _ => true
  | .pageAbsentService _ _ => true
  | .pageQueuePost _ _ => true
  | .share _ => true
  | .unshare _ => true
  | .migrate _ _ => true
  | .inval _ => true
  | .shootdownPoint _ => true
  | .longMoveHostDone _ _ _ => true
  | .doorbellSpi _ _ _ => true
  | .doorbellCci _ _ _ => true
  | .cardAccept _ => true
  | .priorityAgeing _ => true
  | .cardLaunch _ _ => true
  | .urgentPreempt _ => true
  | .cardComplete _ => true
  | .wdrunExpiry _ => true
  | .flitReplay _ => true
  | .linkReplayFailure _ _ => true
  | .moduleReset => true
  | .moduleResetWrite _ => true
  | .featAccWrite _ => true
  | .powerActive _ => true
  | .powerGated _ => true
  | .powerRetention _ => true
  | .powerOff _ => true
  | .powerCommandDone => true
  | .thermalThreshold _ _ => true
  | .thermalTrip _ _ => true
  | .triplogRead => true
  | .wearUpdate _ _ => true
  | .wearSample => true
  | .registerWrite _ _ => true
  | .saveRetry _ _ _ => true
  | .bar2Write _ _ => true
  | _ => false

/-- The words of the spec's examples for the slots of a bundle, and what they stand for (R88, R89, R97, R139). -/
def ScalarWords : Prop :=
  decodeS 0x401447000000 = .ok (.ldD ⟨0, false⟩ 10 4 (.buf .ab) 0) ∧
  decodeS 0x6C0000000004 = .ok (.loop ⟨0, false⟩ 0 0 4) ∧
  decodeS 0x088A50000040 = .ok (.addi ⟨1, false⟩ 5 5 64) ∧
  decodeS 0x880000000007 = .ok (.trap ⟨0, false⟩ 7) ∧
  decodeS 0x880000001000 = .ok (.eret ⟨0, false⟩) ∧
  decodeY 0x08100001 = .ok (.fpost 4 (.imm 1) .core)

/-- The vector syllable of R80's example with its control word. -/
def VectorWords : Prop :=
  decodeV false 0x00860840 ((0x0100080FF0000000 : BitVec 64) ++ (0 : BitVec 192)) =
    .ok (.vadd { v1 := false, idx := 1, vd := 3, va := 1, vb := 2, g := ⟨0, false⟩,
                 w := { fa := .fp32, fb := .fp32, fd := .fp32, rm := .dyn, fli := .fpcr, flo := .fpcr, sat := false, gmask := 0xFF,
                        buf := .wb, xb := 0, ring := 0, exsel := 0, emptynan := false, imm0 := 0, imm1 := 0, shuf := 0, sfp := 0 } })

/-- The words of the examples of Mint and Dray (R92, R96). -/
def EngineWords : Prop :=
  decodeM 0x18004040 = .ok (.mscale ⟨0, false⟩ 2 2) ∧
  decodeM 0x10CD0400 = .ok (.mstream ⟨0, false⟩ .e4m3 .e4m3 1 0 2) ∧
  decodeC false 0x05428000 = .ok (.wset ⟨0, false⟩ false 5 0 5) ∧
  decodeC false 0x0CC48000 = .ok (.dcopyRd ⟨0, false⟩ false 3 0 9) ∧
  decodeC false 0x34821400 = .ok (.xsub ⟨0, false⟩ false 2 4 5) ∧
  decodeC false 0x14000000 = .ok (.dpush ⟨0, false⟩ false 0 0 0 0) ∧
  decodeC false 0x14000002 = .ok (.dpushEos ⟨0, false⟩ false 0 0 0)

/-- The words of the examples of the hands and of row programs (R229, R239). -/
def HandAndRowWords : Prop :=
  decodeH 0x0033100B = .ok (.hWset 0 3 6) ∧
  decodeH 0x0003848B = .ok (.hDcmd 9 7) ∧
  decodeH 0x0012D02B = .ok (.hFwait 1 5 .core) ∧
  decodeRow 0x0400000000000010 = .ok (.rowNext 16) ∧
  decodeRow 0x69400A4800000000 = .ok (.rowSopRsqe 5 2 4) ∧
  decodeRow 0x5401000A00000000 = .ok (.rowSmac 0 1 5) ∧
  decodeRow 0x3000020000000000 = .ok (.rowLdc 1 0)

/-- The invariant of the two memories: canonical, so that memories that read alike are the same data. -/
def Canon (s : State) : Prop := s.mem.wf = true ∧ s.hostMem.wf = true

/-! ### The scalar slot -/

/-- R113 to R117, R131, R142: the register result of a scalar instruction: its guard, its register, the bundles after
which it lands and its value, from what its context reads at issue. -/
def scalarResult (t : State) (x : Ctx) : Instr → Option (Guard × Reg × Nat × Dword)
  | .add g rd ra rb => some (g, rd, 1, x.readX ra + x.readX rb)
  | .sub g rd ra rb => some (g, rd, 1, x.readX ra - x.readX rb)
  | .andR g rd ra rb => some (g, rd, 1, x.readX ra &&& x.readX rb)
  | .orR g rd ra rb => some (g, rd, 1, x.readX ra ||| x.readX rb)
  | .xor g rd ra rb => some (g, rd, 1, x.readX ra ^^^ x.readX rb)
  | .sll g rd ra rb => some (g, rd, 1, x.readX ra <<< ((x.readX rb).extractLsb' 0 6).toNat)
  | .srl g rd ra rb => some (g, rd, 1, x.readX ra >>> ((x.readX rb).extractLsb' 0 6).toNat)
  | .sra g rd ra rb => some (g, rd, 1, (x.readX ra).sshiftRight ((x.readX rb).extractLsb' 0 6).toNat)
  | .slt g rd ra rb => some (g, rd, 1, if (x.readX ra).toInt < (x.readX rb).toInt then 1 else 0)
  | .sltu g rd ra rb => some (g, rd, 1, if (x.readX ra).toNat < (x.readX rb).toNat then 1 else 0)
  | .min g rd ra rb => some (g, rd, 1, if (x.readX ra).toInt ≤ (x.readX rb).toInt then x.readX ra else x.readX rb)
  | .max g rd ra rb => some (g, rd, 1, if (x.readX rb).toInt ≤ (x.readX ra).toInt then x.readX ra else x.readX rb)
  | .minu g rd ra rb => some (g, rd, 1, if (x.readX ra).toNat ≤ (x.readX rb).toNat then x.readX ra else x.readX rb)
  | .maxu g rd ra rb => some (g, rd, 1, if (x.readX rb).toNat ≤ (x.readX ra).toNat then x.readX ra else x.readX rb)
  | .addi g rd ra imm => some (g, rd, 1, x.readX ra + imm.signExtend 64)
  | .andi g rd ra imm => some (g, rd, 1, x.readX ra &&& imm.signExtend 64)
  | .ori g rd ra imm => some (g, rd, 1, x.readX ra ||| imm.signExtend 64)
  | .xori g rd ra imm => some (g, rd, 1, x.readX ra ^^^ imm.signExtend 64)
  | .slli g rd ra sh => some (g, rd, 1, x.readX ra <<< sh.toNat)
  | .srli g rd ra sh => some (g, rd, 1, x.readX ra >>> sh.toNat)
  | .srai g rd ra sh => some (g, rd, 1, (x.readX ra).sshiftRight sh.toNat)
  | .li g rd imm => some (g, rd, 1, imm.signExtend 64)
  | .lih g rd imm =>
    some (g, rd, 1, BitVec.ofNat 64
      ((imm.toNat + (x.readX rd).toNat / 2 ^ 30 % 2) % 2 ^ 33 * 2 ^ 31 + (x.readX rd).toNat % 2 ^ 31))
  | .mul g rd ra rb => some (g, rd, 3, x.readX ra * x.readX rb)
  | .mulh g rd ra rb => some (g, rd, 3, BitVec.ofInt 64 ((x.readX ra).toInt * (x.readX rb).toInt / 2 ^ 64))
  | .mulhu g rd ra rb => some (g, rd, 3, BitVec.ofNat 64 ((x.readX ra).toNat * (x.readX rb).toNat / 2 ^ 64))
  | .div g rd ra rb =>
    some (g, rd, 20, if x.readX rb = 0 then -1 else BitVec.ofInt 64 ((x.readX ra).toInt.tdiv (x.readX rb).toInt))
  | .divu g rd ra rb => some (g, rd, 20, if x.readX rb = 0 then -1 else x.readX ra / x.readX rb)
  | .rem g rd ra rb =>
    some (g, rd, 20, if x.readX rb = 0 then x.readX ra else BitVec.ofInt 64 ((x.readX ra).toInt.tmod (x.readX rb).toInt))
  | .remu g rd ra rb => some (g, rd, 20, if x.readX rb = 0 then x.readX ra else x.readX ra % x.readX rb)
  | .clz g rd ra => some (g, rd, 1, BitVec.ofNat 64 (countLead (x.readX ra).toNat 64))
  | .ctz g rd ra => some (g, rd, 1, BitVec.ofNat 64 (countTrail (x.readX ra).toNat 64))
  | .popc g rd ra => some (g, rd, 1, BitVec.ofNat 64 (countOnes (x.readX ra).toNat 64))
  | .sextB g rd ra => some (g, rd, 1, ((x.readX ra).extractLsb' 0 8).signExtend 64)
  | .sextH g rd ra => some (g, rd, 1, ((x.readX ra).extractLsb' 0 16).signExtend 64)
  | .sextW g rd ra => some (g, rd, 1, ((x.readX ra).extractLsb' 0 32).signExtend 64)
  | .zextB g rd ra => some (g, rd, 1, x.readX ra &&& 0xFF)
  | .zextH g rd ra => some (g, rd, 1, x.readX ra &&& 0xFFFF)
  | .zextW g rd ra => some (g, rd, 1, x.readX ra &&& 0xFFFFFFFF)
  | .lctlRd g rd lv => some (g, rd, 1, (x.loop lv).count.setWidth 64)
  | .lctlBnd g rd lv => some (g, rd, 1, (x.loop lv).bound.setWidth 64)
  | .rdtime g rd => some (g, rd, 1, t.timebase)
  | .rdfeat g rd sel => some (g, rd, 1, if sel then t.featPub else t.featAcc)
  | _ => none

/-- R118, R119: the predicate result of a compare or of predicate logic: its guard, its predicate and its value. -/
def predicateResult (x : Ctx) : Instr → Option (Guard × PReg × Bool)
  | .cmpEq g pd ra rb => some (g, pd, decide (x.readX ra = x.readX rb))
  | .cmpNe g pd ra rb => some (g, pd, decide (x.readX ra ≠ x.readX rb))
  | .cmpLt g pd ra rb => some (g, pd, decide ((x.readX ra).toInt < (x.readX rb).toInt))
  | .cmpLtu g pd ra rb => some (g, pd, decide ((x.readX ra).toNat < (x.readX rb).toNat))
  | .cmpGe g pd ra rb => some (g, pd, decide ((x.readX rb).toInt ≤ (x.readX ra).toInt))
  | .cmpGeu g pd ra rb => some (g, pd, decide ((x.readX rb).toNat ≤ (x.readX ra).toNat))
  | .cmpiEq g pd ra imm => some (g, pd, decide (x.readX ra = imm.signExtend 64))
  | .cmpiNe g pd ra imm => some (g, pd, decide (x.readX ra ≠ imm.signExtend 64))
  | .cmpiLt g pd ra imm => some (g, pd, decide ((x.readX ra).toInt < imm.toInt))
  | .cmpiLtu g pd ra imm => some (g, pd, decide ((x.readX ra).toNat < (imm.signExtend 64 : Dword).toNat))
  | .cmpiGe g pd ra imm => some (g, pd, decide (imm.toInt ≤ (x.readX ra).toInt))
  | .cmpiGeu g pd ra imm => some (g, pd, decide ((imm.signExtend 64 : Dword).toNat ≤ (x.readX ra).toNat))
  | .pand g pd pa pb => some (g, pd, x.readP pa && x.readP pb)
  | .por g pd pa pb => some (g, pd, x.readP pa || x.readP pb)
  | .pxor g pd pa pb => some (g, pd, x.readP pa != x.readP pb)
  | .pnot g pd pa => some (g, pd, !x.readP pa)
  | _ => none

/-! ### Loads, stores and atomics -/

/-- R120: a load: its guard, register, base register, space, offset, bytes, and whether it sign-extends. -/
def loadForm : Instr → Option (Guard × Reg × Reg × Space × BitVec 23 × Nat × Bool)
  | .ldB g rd ra sp imm => some (g, rd, ra, sp, imm, 1, false)
  | .ldH g rd ra sp imm => some (g, rd, ra, sp, imm, 2, false)
  | .ldW g rd ra sp imm => some (g, rd, ra, sp, imm, 4, false)
  | .ldD g rd ra sp imm => some (g, rd, ra, sp, imm, 8, false)
  | .ldBs g rd ra sp imm => some (g, rd, ra, sp, imm, 1, true)
  | .ldHs g rd ra sp imm => some (g, rd, ra, sp, imm, 2, true)
  | .ldWs g rd ra sp imm => some (g, rd, ra, sp, imm, 4, true)
  | _ => none

/-- R120: a store: its guard, source register, base register, space, offset and bytes. -/
def storeForm : Instr → Option (Guard × Reg × Reg × Space × BitVec 23 × Nat)
  | .stB g rs ra sp imm => some (g, rs, ra, sp, imm, 1)
  | .stH g rs ra sp imm => some (g, rs, ra, sp, imm, 2)
  | .stW g rs ra sp imm => some (g, rs, ra, sp, imm, 4)
  | .stD g rs ra sp imm => some (g, rs, ra, sp, imm, 8)
  | _ => none

/-- R120: the effective address. -/
def ea (x : Ctx) (ra : Reg) (imm : BitVec 23) : Dword := x.readX ra + imm.signExtend 64

/-- R120: the value that a load makes of its bytes. -/
def loaded (signed : Bool) (l : List Byte) : Dword :=
  if signed then (BitVec.ofNat (8 * l.length) (leNat l)).signExtend 64 else BitVec.ofNat 64 (leNat l)

/-- R21: the `n` bytes from `a` lie inside the window. -/
def Inside (w : Window) (a : Dword) (n : Nat) : Prop := w.base ≤ a.toNat ∧ a.toNat + n ≤ w.limit

/-- R138: no committed store of the context awaits a scope that one of its fences has asked for. -/
def Unfenced (t : State) (k c : Nat) : Prop :=
  ∀ p ∈ (t.core k).stores, p.c = c → ∀ sc, p.need = some sc → p.performedAt sc = true

/-- R120, R169: the bytes that a bundle reads of a typed buffer: `n` from `a`, each the one it holds, or the new one of a started
Mint command that will leave it. -/
def Seen (q : Core) (bf : Buf) (a n : Nat) (l : List Byte) : Prop :=
  l.length = n ∧ ∀ j (h : j < l.length), l[j] = (q.buf bf).read (a + j) ∨ ∃ m ∈ q.mint.queue, (bf, a + j, l[j]) ∈ m.early

/-- R343: the module once an access of `n` bytes at `va` has translated: the translation stays cached. -/
def filled (t : State) (k c : Nat) (va : Dword) (n : Nat) : State := t.fillSpan (t.ctxRoot k c) va n

/-- R122: the module after a global store of the bytes `l` has committed: it is the core's youngest, and has performed
nowhere yet. -/
def withStore (t : State) (k c : Nat) (va : Dword) (l : List (Nat × Byte)) (direct : Bool) : State :=
  t.modCore k fun q =>
    { q with
      stores := q.stores ++
        [{ c, card := ((t.ctx k c).card).getD 0, bytes := l, va, level := .core, need := none, ord := q.storeCtr, direct }]
      storeCtr := q.storeCtr + 1 }

/-- R124: an atomic: its guard, register, address register, scope, bytes, and the new memory value that it makes of the
old one, as numbers of that many bytes. -/
def amoForm (x : Ctx) : Instr → Option (Guard × Reg × Reg × Scope × Nat × (Nat → Nat))
  | .amoAdd g rd ra rb sc => some (g, rd, ra, sc, 8, fun m => (m + (x.readX rb).toNat) % 2 ^ 64)
  | .amoAnd g rd ra rb sc => some (g, rd, ra, sc, 8, fun m => m &&& (x.readX rb).toNat)
  | .amoOr g rd ra rb sc => some (g, rd, ra, sc, 8, fun m => m ||| (x.readX rb).toNat)
  | .amoXor g rd ra rb sc => some (g, rd, ra, sc, 8, fun m => m ^^^ (x.readX rb).toNat)
  | .amoMin g rd ra rb sc =>
    some (g, rd, ra, sc, 8, fun m => if (BitVec.ofNat 64 m).toInt ≤ (x.readX rb).toInt then m else (x.readX rb).toNat)
  | .amoMax g rd ra rb sc =>
    some (g, rd, ra, sc, 8, fun m => if (x.readX rb).toInt ≤ (BitVec.ofNat 64 m).toInt then m else (x.readX rb).toNat)
  | .amoSwap g rd ra rb sc => some (g, rd, ra, sc, 8, fun _ => (x.readX rb).toNat)
  | .amoCas g rd ra rb rc sc =>
    some (g, rd, ra, sc, 8, fun m => if m = (x.readX rc).toNat then (x.readX rb).toNat else m)
  | .amoAddW g rd ra rb sc => some (g, rd, ra, sc, 4, fun m => (m + (x.readX rb).toNat) % 2 ^ 32)
  | .amoAndW g rd ra rb sc => some (g, rd, ra, sc, 4, fun m => m &&& (x.readX rb).toNat % 2 ^ 32)
  | .amoOrW g rd ra rb sc => some (g, rd, ra, sc, 4, fun m => m ||| (x.readX rb).toNat % 2 ^ 32)
  | .amoXorW g rd ra rb sc => some (g, rd, ra, sc, 4, fun m => m ^^^ (x.readX rb).toNat % 2 ^ 32)
  | .amoMinW g rd ra rb sc =>
    some (g, rd, ra, sc, 4, fun m =>
      if (BitVec.ofNat 32 m).toInt ≤ ((x.readX rb).setWidth 32).toInt then m else (x.readX rb).toNat % 2 ^ 32)
  | .amoMaxW g rd ra rb sc =>
    some (g, rd, ra, sc, 4, fun m =>
      if ((x.readX rb).setWidth 32).toInt ≤ (BitVec.ofNat 32 m).toInt then m else (x.readX rb).toNat % 2 ^ 32)
  | .amoSwapW g rd ra rb sc => some (g, rd, ra, sc, 4, fun _ => (x.readX rb).toNat % 2 ^ 32)
  | .amoCasW g rd ra rb rc sc =>
    some (g, rd, ra, sc, 4, fun m => if m = (x.readX rc).toNat % 2 ^ 32 then (x.readX rb).toNat % 2 ^ 32 else m)
  | _ => none

/-- R124: the address of an atomic of `n` bytes. -/
def amoAddr (x : Ctx) (ra : Reg) (n : Nat) : Dword := BitVec.ofNat 64 ((x.readX ra).toNat / n * n)

/-- R124, R278, R279: the module in which an atomic of core `k` reads and writes: the core's pending stores to its bytes have
performed, and, where it performs at module scope, its die has written its dirty bytes of their lines back. -/
def amoPlace (t : State) (k : Nat) (wide : Bool) (l : List Nat) : State :=
  let v := t.performWhere k wide fun p => p.meets (l.map fun a => (a, 0))
  if wide then v.cleanLines (dieOf k) l else v

/-- R124: the value that it reads there. -/
def amoOld (v : State) (k : Nat) (wide : Bool) (l : List Nat) : Nat :=
  leNat (if wide then l.map v.mem.read else l.map (v.dieByte (dieOf k)))

/-- R124: the module once it has written its bytes: in memory, or in the L2 of its die as a store of its own that has performed
at die scope. -/
def amoWritten (v : State) (k c : Nat) (wide : Bool) (va : Dword) (new : List (Nat × Byte)) : State :=
  if wide then v.writeModule new (some (dieOf k))
  else
    (v.writeDie (dieOf k) new).modCore k fun q =>
      { q with
        stores := q.stores ++
          [{ c, card := ((v.ctx k c).card).getD 0, bytes := new, va, level := .die, need := none, ord := q.storeCtr
             direct := false }]
        storeCtr := q.storeCtr + 1 }

/-! ### Control, CSRs, fences, traps -/

/-- R125, R126: a transfer of control: its guard, its target, and the register that takes the link. -/
def transferForm (x : Ctx) : Instr → Option (Guard × Dword × Reg)
  | .br g off => some (g, x.pc + 32 * off.signExtend 64, 0)
  | .call g rd off => some (g, x.pc + 32 * off.signExtend 64, rd)
  | .jr g ra => some (g, x.readX ra, 0)
  | .jalr g rd ra => some (g, x.readX ra, rd)
  | _ => none

/-- R133: a CSR instruction that writes: its form, guard, registers and CSR. -/
def csrForm : Instr → Option (CsrOp × Guard × Reg × Reg × Csr)
  | .csrw g rd ra r => some (.write, g, rd, ra, r)
  | .csrs g rd ra r => some (.set, g, rd, ra, r)
  | .csrc g rd ra r => some (.clear, g, rd, ra, r)
  | .erpop g op rd ra => some (op, g, rd, ra, .erpop)
  | _ => none

/-- R34, R133, R134: the context may reach the CSR: the trap registers at supervisor level alone, and a write of CSTAT at
user level may carry no bit but 16 (none at all for `csrc`). -/
def csrAllowed (x : Ctx) (o : CsrOp) (ra : Reg) (r : Csr) : Prop :=
  x.inHandler = true ∨
    (r.code.toNat < 0x100 ∧
      (r = .cstat → match o with
        | .clear => x.readX ra = 0
        | _ => x.readX ra &&& ~~~0x10000 = 0))

/-- R133: what a write form makes of the old value, and the bits that it writes as 1 to fields of access W1C (R6). -/
def csrNew (o : CsrOp) (old a : Dword) : Dword :=
  match o with
  | .write => a
  | .set => old ||| a
  | .clear => old &&& ~~~a
def csrOnes (o : CsrOp) (a : Dword) : Dword := if o = .clear then 0 else a

/-- R6, R16, R58, R134, R136, R294, R295: what a CSR write leaves in context `c` of core `k`, field by field: `v` is the value
written, `w` the bits written as 1; a reserved field reads as zero. Every other register is as it was. -/
def CsrHolds (t u : State) (k c : Nat) (v w : Dword) (r : Csr) : Prop :=
  let x := t.ctx k c
  let y := u.ctx k c
  match r with
  | .fpcr =>
    y = { x with fpcr := y.fpcr } ∧
      y.fpcr.extractLsb' 0 3 = (if v.getLsbD 2 then x.fpcr.extractLsb' 0 3 else v.extractLsb' 0 3) ∧
      y.fpcr.getLsbD 3 = false ∧ y.fpcr.extractLsb' 4 2 = v.extractLsb' 4 2 ∧ y.fpcr.extractLsb' 6 2 = 0 ∧
      y.fpcr.extractLsb' 8 5 = v.extractLsb' 8 5 ∧ y.fpcr.extractLsb' 13 19 = 0
  | .fflags =>
    y = { x with fflags := y.fflags } ∧ y.fflags.extractLsb' 0 35 = v.extractLsb' 0 35 ∧ y.fflags.extractLsb' 35 29 = 0
  | .fevr => y = { x with fevr := if w.getLsbD 0 then 0 else x.fevr }
  | .cstat =>
    y = { x with
      wconf := if w.getLsbD 16 then false else x.wconf
      slotres := if x.inHandler = true ∧ v.extractLsb' 0 3 ≠ 7 then v.extractLsb' 0 3 else x.slotres }
  | .fovf => y = x ∧ ∀ n : Nat, n < 32 → (u.core k).fovf.getLsbD n = ((t.core k).fovf.getLsbD n && !w.getLsbD n)
  | .cause => y = { x with cause := (v.extractLsb' 0 9).setWidth 64 }
  | .epcb => y = { x with epcb := y.epcb } ∧ y.epcb.extractLsb' 0 5 = 0 ∧ y.epcb.extractLsb' 5 59 = v.extractLsb' 5 59
  | .tval => y = { x with tval := v }
  | .tinfo =>
    y = { x with tinfo := y.tinfo } ∧ y.tinfo.extractLsb' 0 3 = v.extractLsb' 0 3 ∧ y.tinfo.getLsbD 3 = false ∧
      y.tinfo.extractLsb' 4 48 = v.extractLsb' 4 48 ∧ y.tinfo.extractLsb' 52 12 = 0
  | .erpop => y = { x with records := x.records.drop 1 }
  | .hscr0 => y = { x with hscr0 := v }
  | .hscr1 => y = { x with hscr1 := v }
  | .ctxid | .dcause | .depc | .erstat | .errec _ => u = t

/-- The module after the value that a bundle writes to a CSR (R133). -/
def csrWritten (t : State) (k c : Nat) (o : CsrOp) (ra : Reg) (r : Csr) : State :=
  if o = .write ∨ ra ≠ 0 then csrWrite t k c r o ((t.ctx k c).readX ra) else t

/-- The store with its requirement raised to a scope (R138). -/
def PStoreNeeds (p : PStore) (sc : Scope) : Prop := ∃ o, p.need = some o ∧ sc.rank ≤ o.rank

/-! ### The vector slots -/

/-- Whether the formats of a syllable are accepted (R147). -/
def formatsAccepted (t : State) (a : VArgs) : Prop :=
  (a.w.fa = .lns6 ∨ a.w.fb = .lns6 ∨ a.w.fd = .lns6) → t.accepted 3 = true

/-- R79: the slot that holds the syllable. -/
def vectorSlot (a : VArgs) : Nat := if a.v1 then 2 else 1

/-- What a syllable reads at issue (R145). -/
structure VReads where
  a : Nat → Word
  b : Nat → Word
  d : Nat → Word
  rm : Rnd
  fi : Bool
  fo : Bool

def vreads (t : State) (k c : Nat) (y : VArgs) : VReads :=
  { a := fun l => lane ((t.core k).vreg y.va) l, b := fun l => lane ((t.core k).vreg y.vb) l
    d := fun l => lane ((t.core k).vreg y.vd) l, rm := selRm y.w.rm (t.ctx k c).fpcr
    fi := selFl y.w.fli (fpcrFzi (t.ctx k c).fpcr), fo := selFl y.w.flo (fpcrFzo (t.ctx k c).fpcr) }

/-- R145, R150: a lane whose exact value is `f` of the float sources, or `g` of the integer ones, once rounded. -/
def roundedLane (y : VArgs) (r : VReads) (g : Int → Int → Int → Int) (f : Ex → Ex → Ex → Ex × Flags) (l : Nat) : Word × Flags :=
  if vInt y.w.fa then (intLane y.w.fd y.w.sat (g (elemInt y.w.fa (r.a l)) (elemInt y.w.fb (r.b l)) (elemInt y.w.fd (r.d l))), 0)
  else floatLane y.w.fd r.rm y.w.sat r.fo
    (f (elemEx y.w.fa r.fi (r.a l)) (elemEx y.w.fb r.fi (r.b l)) (elemEx y.w.fd r.fi (r.d l)))

/-- R150: the same with the immediate IMM0. -/
def immediateLane (y : VArgs) (r : VReads) (g : Int → Int → Int) (f : Ex → Ex → Ex × Flags) (l : Nat) : Word × Flags :=
  if vInt y.w.fa then (intLane y.w.fd y.w.sat (g (elemInt y.w.fa (r.a l)) y.w.imm0.toInt), 0)
  else floatLane y.w.fd r.rm y.w.sat r.fo (f (elemEx y.w.fa r.fi (r.a l)) (elemEx .fp32 r.fi y.w.imm0))

/-- R150: a lane of `vabs` or `vneg`: only the sign of a value changes, and no flag is set; a NaN gives the canonical NaN (the
model's reading, log entry 14); SAT turns an infinity into ±448 in E4M3, which has none (R63), and leaves it elsewhere. -/
def signLane (y : VArgs) (r : VReads) (g : Int → Int) (f : Ex → Ex) (l : Nat) : Word × Flags :=
  if vInt y.w.fa then (intLane y.w.fd y.w.sat (g (elemInt y.w.fa (r.a l))), 0)
  else match elemEx y.w.fa r.fi (r.a l) with
    | .nan s => ((floatLane y.w.fd r.rm y.w.sat false (.nan false, 0)).1, if s then fIV else 0)
    | u => ((floatLane y.w.fd r.rm (y.w.sat && (!(f u).isInf || decide (y.w.fd = .e4m3))) false (f u, 0)).1, 0)

/-- R152: a lane of a compare: `i` decides it on integers; on floats `o` decides it by their order, below, equal or above,
`n` says what a NaN gives, and `q` whether a quiet NaN raises nothing. -/
def compareLane (y : VArgs) (r : VReads) (o : Int → Bool) (n q : Bool) (l : Nat) : Word × Flags :=
  let (t, fl) : Bool × Flags :=
    if vInt y.w.fa then (o (elemInt y.w.fa (r.a l) - elemInt y.w.fb (r.b l)), 0)
    else
      let u := elemEx y.w.fa r.fi (r.a l)
      let v := elemEx y.w.fb r.fi (r.b l)
      if u.isNan || v.isNan then (n, if q then snanFlag u v else fIV) else (o (u.cmp v), 0)
  (if t then 0xFFFFFFFF else 0, fl)

/-- R156: a lane of a special function. -/
def specialLane (y : VArgs) (r : VReads) (fn : SpFn) (l : Nat) : Word × Flags :=
  floatLane y.w.fd r.rm y.w.sat r.fo (fn.apply (match elemEx y.w.fa r.fi (r.a l) with
    | .nan s => Ex.nan s
    | x => (Ex.mul (sigma y.w.sfp) x).1))

/-- R155: an element moved from another lane. -/
def movedLane (y : VArgs) (r : VReads) (n : Nat) : Word × Flags := (BitVec.ofNat 32 (elemBits y.w.fa (r.a n)), 0)

/-- R150 to R156, R162, R163: the result of a vector instruction for a vector register: its syllable, whether it needs
STATCOLL, its latency, and each lane's value and events. -/
def vectorResult (t : State) (k c : Nat) (i : Instr) : Option (VArgs × Bool × Nat × (Nat → Word × Flags)) :=
  match i with
  | .vadd y => some (y, false, 3, roundedLane y (vreads t k c y) (fun a b _ => a + b) fun a b _ => Ex.add (vreads t k c y).rm a b)
  | .vsub y => some (y, false, 3, roundedLane y (vreads t k c y) (fun a b _ => a - b) fun a b _ => Ex.sub (vreads t k c y).rm a b)
  | .vmul y => some (y, false, 3, roundedLane y (vreads t k c y) (fun a b _ => a * b) fun a b _ => Ex.mul a b)
  | .vfma y =>
    some (y, false, 4, roundedLane y (vreads t k c y) (fun a b d => a * b + d) fun a b d => Ex.fma (vreads t k c y).rm a b d)
  | .vfnma y =>
    some (y, false, 4, roundedLane y (vreads t k c y) (fun a b d => d - a * b) fun a b d => Ex.fma (vreads t k c y).rm a.neg b d)
  | .vmin y => some (y, false, 3, roundedLane y (vreads t k c y) (fun a b _ => min a b) fun a b _ => Ex.maxMin false a b)
  | .vmax y => some (y, false, 3, roundedLane y (vreads t k c y) (fun a b _ => max a b) fun a b _ => Ex.maxMin true a b)
  | .vabs y =>
    some (y, false, 3, signLane y (vreads t k c y) (fun a => if a < 0 then -a else a) fun a => if a.isNeg then a.neg else a)
  | .vneg y => some (y, false, 3, signLane y (vreads t k c y) (fun a => -a) Ex.neg)
  | .vaddi y => some (y, false, 3, immediateLane y (vreads t k c y) (fun a i => a + i) (Ex.add (vreads t k c y).rm))
  | .vmuli y => some (y, false, 3, immediateLane y (vreads t k c y) (fun a i => a * i) Ex.mul)
  | .vand y => some (y, false, 3, fun l => ((vreads t k c y).a l &&& (vreads t k c y).b l, 0))
  | .vor y => some (y, false, 3, fun l => ((vreads t k c y).a l ||| (vreads t k c y).b l, 0))
  | .vxor y => some (y, false, 3, fun l => ((vreads t k c y).a l ^^^ (vreads t k c y).b l, 0))
  | .vshl y => some (y, false, 3, fun l => ((vreads t k c y).a l <<< (((vreads t k c y).b l).toNat % 32), 0))
  | .vshr y => some (y, false, 3, fun l => ((vreads t k c y).a l >>> (((vreads t k c y).b l).toNat % 32), 0))
  | .vsra y => some (y, false, 3, fun l => (((vreads t k c y).a l).sshiftRight (((vreads t k c y).b l).toNat % 32), 0))
  | .vcmpEq y => some (y, false, 3, compareLane y (vreads t k c y) (fun o => decide (o = 0)) false true)
  | .vcmpNe y => some (y, false, 3, compareLane y (vreads t k c y) (fun o => decide (o ≠ 0)) true true)
  | .vcmpLt y => some (y, false, 3, compareLane y (vreads t k c y) (fun o => decide (o < 0)) false false)
  | .vcmpLe y => some (y, false, 3, compareLane y (vreads t k c y) (fun o => decide (o ≤ 0)) false false)
  | .vcmpGt y => some (y, false, 3, compareLane y (vreads t k c y) (fun o => decide (0 < o)) false false)
  | .vcmpGe y => some (y, false, 3, compareLane y (vreads t k c y) (fun o => decide (0 ≤ o)) false false)
  | .vcmpUn y => some (y, false, 3, compareLane y (vreads t k c y) (fun _ => false) true true)
  | .vsel y =>
    some (y, false, 3, fun l =>
      (BitVec.ofNat 32 (elemBits y.w.fa (if lane ((t.core k).vreg (y.w.imm0.setWidth 6)) l ≠ 0 then (vreads t k c y).a l
        else (vreads t k c y).b l)), 0))
  | .vcvt y => some (y, false, 3, fun l => convert y (t.slotView k c (vectorSlot y)) ((vreads t k c y).a l))
  | .vbscl y =>
    some (y, false, 3, fun l => blockScale y (t.slotView k c (vectorSlot y)) ((vreads t k c y).a l) ((vreads t k c y).b l))
  | .vshuf y =>
    some (y, false, 3, fun l => movedLane y (vreads t k c y) (l / 16 * 16 + y.w.shuf.toNat / 2 ^ (4 * (l % 16)) % 16))
  | .vbcast y => some (y, false, 6, fun _ => movedLane y (vreads t k c y) (y.w.imm0.toNat % 128))
  | .vxmov y =>
    some (y, false, 6, fun l => movedLane y (vreads t k c y) (16 * (y.w.imm0.toNat / 2 ^ (3 * (l / 16)) % 8) + l % 16))
  | .vrcp y => some (y, false, 10, specialLane y (vreads t k c y) .rcp)
  | .vrsqrt y => some (y, false, 10, specialLane y (vreads t k c y) .rsqrt)
  | .vsqrt y => some (y, false, 10, specialLane y (vreads t k c y) .sqrt)
  | .vexp2 y => some (y, false, 10, specialLane y (vreads t k c y) .exp2)
  | .vlog2 y => some (y, false, 10, specialLane y (vreads t k c y) .log2)
  | .vexp y => some (y, false, 10, specialLane y (vreads t k c y) .exp)
  | .vlog y => some (y, false, 10, specialLane y (vreads t k c y) .log)
  | .vtanh y => some (y, false, 10, specialLane y (vreads t k c y) .tanh)
  | .vsigm y => some (y, false, 10, specialLane y (vreads t k c y) .sigm)
  | .vdiv y =>
    some (y, false, 10, fun l => floatLane y.w.fd (vreads t k c y).rm y.w.sat (vreads t k c y).fo
      (Ex.div (elemEx y.w.fa (vreads t k c y).fi ((vreads t k c y).a l)) (elemEx y.w.fb (vreads t k c y).fi ((vreads t k c y).b l))))
  | .qext y =>
    some (y, true, 10, fun l =>
      qextract (qlane ((t.core k).qreg (y.va.setWidth 4)) l) y.w.exsel.toNat y.w.imm1 y.w.emptynan)
  | .qraw y =>
    some (y, true, 3, fun l =>
      (if y.w.imm0 = 0 then (qlane ((t.core k).qreg (y.va.setWidth 4)) l).w
        else if y.w.imm0 = 1 then (qlane ((t.core k).qreg (y.va.setWidth 4)) l).mu
        else (qlane ((t.core k).qreg (y.va.setWidth 4)) l).m2, 0))
  | .qnorm y =>
    some (y, true, 12, fun l =>
      qnormalise (elemEx y.w.fa false ((vreads t k c y).a l)) (qlane ((t.core k).qreg (y.vb.setWidth 4)) l) y.w.imm1 y.w.emptynan none)
  | .qnormA y =>
    some (y, true, 12, fun l =>
      qnormalise (elemEx y.w.fa false ((vreads t k c y).a l)) (qlane ((t.core k).qreg (y.vb.setWidth 4)) l) y.w.imm1 y.w.emptynan
        (some (lane ((t.core k).vreg (y.w.imm0.extractLsb' 0 6)) l, lane ((t.core k).vreg (y.w.imm0.extractLsb' 6 6)) l)))
  | _ => none

/-- R160, R161: the result of a statistics instruction for a statistics register. -/
def statisticsResult (t : State) (k c : Nat) (i : Instr) : Option (VArgs × Nat × (Nat → Triple × Flags)) :=
  match i with
  | .qclr y => some (y, 3, fun _ => (Triple.empty, 0))
  | .qupd y =>
    some (y, 6, fun l => qupdate (qlane ((t.core k).qreg (y.vd.setWidth 4)) l) (widen y.w.fa ((vreads t k c y).a l)) 0x3F800000)
  | .qupdW y =>
    some (y, 6, fun l => qupdate (qlane ((t.core k).qreg (y.vd.setWidth 4)) l) (widen y.w.fa ((vreads t k c y).a l))
      (widen y.w.fb ((vreads t k c y).b l)))
  | .qmrg y =>
    some (y, 8, fun l => qmerge (qlane ((t.core k).qreg (y.va.setWidth 4)) l) (qlane ((t.core k).qreg (y.vb.setWidth 4)) l))
  | .qmrgV y =>
    some (y, 8, fun l => qmerge (qlane ((t.core k).qreg (y.vd.setWidth 4)) l)
      ⟨(vreads t k c y).a l, lane ((t.core k).vreg (y.va + 1)) l, lane ((t.core k).vreg (y.va + 2)) l⟩)
  | .qred y =>
    some (y, 12, fun l =>
      let z := tree qmerge 4 (((t.core k).qreg (y.va.setWidth 4)).drop (16 * (l / 16)) |>.take 16)
      (z.1.headD Triple.empty, z.2))
  | .qxm y =>
    some (y, 14, fun _ =>
      let z := tree qmerge 3 ((List.range 8).map fun g => qlane ((t.core k).qreg (y.va.setWidth 4)) (16 * g))
      (z.1.headD Triple.empty, z.2))
  | _ => none

/-- R155: the value of a lane of `vgred`: one group's tree, each step a float operation on FP32 whose result is rounded. -/
def gredStep (_y : VArgs) (r : VReads) (op : Ex → Ex → Ex × Flags) (u v : Word × Bool) : (Word × Bool) × Flags :=
  let w := floatLane .fp32 r.rm false r.fo (op (elemEx .fp32 u.2 u.1) (elemEx .fp32 v.2 v.1))
  ((w.1, false), w.2)

/-- `vgred`: its syllable and its step. -/
def gredForm (t : State) (k c : Nat) (i : Instr) : Option (VArgs × (Ex → Ex → Ex × Flags)) :=
  match i with
  | .vgredAdd y => some (y, Ex.add (vreads t k c y).rm)
  | .vgredMax y => some (y, Ex.maxMin true)
  | .vgredMin y => some (y, Ex.maxMin false)
  | _ => none

/-- The lanes of a result agree with `f` in the enabled groups, and its events are those of these lanes together (R145). -/
def LanesOf {α : Type} (m : BitVec 8) (f : Nat → α × Flags) (l : List α) (fl : Flags) : Prop :=
  l.length = 128 ∧ (∀ j, j < 128 → laneOn m j = true → l[j]? = some (f j).1) ∧
    ∀ b, b < 5 → (fl.getLsbD b = true ↔ ∃ j, j < 128 ∧ laneOn m j = true ∧ (f j).2.getLsbD b = true)

/-- R157: an access of a vector register or statistics register to a buffer: its syllable, whether it loads, and the
offset of each lane's bytes from zero. -/
def vectorAccess (t : State) (k c : Nat) (i : Instr) : Option (VArgs × Bool × (Nat → Int)) :=
  let base (y : VArgs) : Int := (((t.ctx k c).readX y.w.xb + y.w.imm0.signExtend 64).toNat : Int)
  match i with
  | .vld y => some (y, true, fun l => base y + if y.w.imm1 = 0 then (packOff y.w.fd l : Int) else l * y.w.imm1.toInt)
  | .vst y => some (y, false, fun l => base y + if y.w.imm1 = 0 then (packOff y.w.fd l : Int) else l * y.w.imm1.toInt)
  | .vldx y => some (y, true, fun l => base y + (lane ((t.core k).vreg y.va) l).toNat * elemBytes y.w.fd)
  | .vstx y => some (y, false, fun l => base y + (lane ((t.core k).vreg y.va) l).toNat * elemBytes y.w.fd)
  | _ => none

/-- Every enabled lane's `n` bytes lie inside the window, and none is poisoned where they are loaded. -/
def LanesInside (t : State) (k c : Nat) (y : VArgs) (n : Nat) (addr : Nat → Int) (load : Bool) : Prop :=
  ∀ l, l < 128 → laneOn y.w.gmask l = true →
    ((((t.ctx k c).window y.w.buf).base : Int) ≤ addr l ∧ addr l + n ≤ ((t.ctx k c).window y.w.buf).limit) ∧
      (load = true → (t.core k).poisonedAt y.w.buf (addr l).toNat n = none)

/-- R158: the address that lane `j` of a `vrd` reads: in the slot that lies IMM1 from HEAD. -/
def readAddr (t : State) (k c : Nat) (y : VArgs) (j : Nat) : Nat :=
  ((((t.core k).ring y.w.ring).slotAddr
      ((((t.core k).ring y.w.ring).head.toNat + y.w.imm1.toNat) % ((t.core k).ring y.w.ring).count) : Int) +
    ringOff y (t.slotView k c (vectorSlot y)) j).toNat

/-- The stores of the enabled lanes, in ascending order, each of the bytes that `f` gives its lane (none: no store). -/
def laneStores (m : BitVec 8) (bf : Buf) (addr : Nat → Int) (f : Nat → List Byte) : List (Buf × Nat × List Byte) :=
  (List.range 128).filterMap fun l => if laneOn m l = true ∧ f l ≠ [] then some (bf, (addr l).toNat, f l) else none

/-- R48: an FP32 word that is neither a NaN nor an infinity. -/
def Finite32 (w : Word) : Prop := w.extractLsb' 23 8 ≠ 0xFF

/-- R48: +0 or −0. -/
def Zero32 (w : Word) : Prop := w = 0 ∨ w = 0x80000000

/-- A finite word below zero. -/
def Below0 (w : Word) : Prop := Finite32 w ∧ ¬ Zero32 w ∧ w.getLsbD 31 = true

/-- R76: `r` is the update of `T` with value `x` and weight `w`, with the flags it sets (bit 0 is IV, R59). -/
def UpdateRule (T : Triple) (x w : Word) (r : Triple × Flags) : Prop :=
  (qclass T = .invalid → r = (Triple.invalid, 0)) ∧
  (qclass T ≠ .invalid → Zero32 w → r = (T, 0)) ∧
  (qclass T ≠ .invalid → ¬ Zero32 w → ¬ Finite32 x ∨ ¬ Finite32 w → r = (Triple.invalid, 1)) ∧
  ∀ W mu M2 W1 d mu1 M2n : Word, qclass T ≠ .invalid → ¬ Zero32 w → Finite32 x → Finite32 w →
    (qclass T = .empty → W = 0 ∧ mu = 0 ∧ M2 = 0) → (qclass T = .normal → T = ⟨W, mu, M2⟩) →
    W1 = (add32 W w).1 → d = (sub32 x mu).1 →
    mu1 = (add32 mu (mul32 d (div32 w W1).1).1).1 →
    M2n = (add32 M2 (mul32 (mul32 w d).1 (sub32 x mu1).1).1).1 →
      (¬ Finite32 W1 ∨ Below0 W1 → r = (Triple.invalid, 1)) ∧
      (Zero32 W1 → r = (Triple.empty, 0)) ∧
      (Finite32 W1 → ¬ Below0 W1 → ¬ Zero32 W1 →
        (¬ Finite32 mu1 ∨ ¬ Finite32 M2n → r = (Triple.invalid, 1)) ∧
        (Finite32 mu1 → Finite32 M2n → r = (⟨W1, mu1, M2n⟩, 0)))

/-- R77: `r` is the merge of `A` and `B`, with the flags it sets. -/
def MergeRule (A B : Triple) (r : Triple × Flags) : Prop :=
  (qclass A = .invalid ∨ qclass B = .invalid → r = (Triple.invalid, 0)) ∧
  (qclass A = .empty → qclass B ≠ .invalid → r = (B, 0)) ∧
  (qclass A = .normal → qclass B = .empty → r = (A, 0)) ∧
  ∀ W d mu g M2 : Word, qclass A = .normal → qclass B = .normal →
    W = (add32 A.w B.w).1 → d = (sub32 B.mu A.mu).1 →
    mu = (add32 A.mu (mul32 d (div32 B.w W).1).1).1 →
    g = (div32 (mul32 A.w B.w).1 W).1 →
    M2 = (add32 (add32 A.m2 B.m2).1 (mul32 (mul32 d d).1 g).1).1 →
      (¬ Finite32 W → r = (Triple.invalid, 1)) ∧
      (Finite32 W →
        (¬ Finite32 mu ∨ ¬ Finite32 M2 → r = (Triple.invalid, 1)) ∧
        (Finite32 mu → Finite32 M2 → r = (⟨W, mu, M2⟩, 0)))

/-! ### The Mint -/

/-- R173: the `m` slot instructions that queue a command: guard, command, first parameter register. -/
def mintForm : Instr → Option (Guard × MintOp × BitVec 3)
  | .mmodeWs g => some (g, { kind := .mode false }, 0)
  | .mmodeRs g => some (g, { kind := .mode true }, 0)
  | .mlatch g fb l mp => some (g, { kind := .latch false, fb, l := l.toNat }, mp)
  | .mlatchT g fb l mp => some (g, { kind := .latch true, fb, l := l.toNat }, mp)
  | .mstream g fa fb l mp h => some (g, { kind := .stream, fa, fb, l := l.toNat, ring := some h }, mp)
  | .mstreamD g fa fb l mp => some (g, { kind := .stream, fa, fb, l := l.toNat }, mp)
  | .mouter g fa fb mp h => some (g, { kind := .outer, fa, fb, ring := some h }, mp)
  | .mouterD g fa fb mp => some (g, { kind := .outer, fa, fb }, mp)
  | .mdrain g fa fb mp => some (g, { kind := .drain false, fa, fb }, mp)
  | .msig g fa mp h => some (g, { kind := .sig false, fa, ring := some h }, mp)
  | .msigD g fa mp => some (g, { kind := .sig false, fa }, mp)
  | .msigS g fa fb l mp h => some (g, { kind := .sig true, fa, fb, l := l.toNat, ring := some h }, mp)
  | .msigSD g fa fb l mp => some (g, { kind := .sig true, fa, fb, l := l.toNat }, mp)
  | .mexpand g fa fb mp => some (g, { kind := .drain true, fa, fb }, mp)
  | .mfold g fa fb mp => some (g, { kind := .fold, fa, fb }, mp)
  | .mspillSt g mp => some (g, { kind := .spill false }, mp)
  | .mspillLd g mp => some (g, { kind := .spill true }, mp)
  | .mclearAcc g => some (g, { kind := .clearAcc }, 0)
  | .mclearLatch g l => some (g, { kind := .clearLatch, l := l.toNat }, 0)
  | _ => none

/-- R83: the features that a command needs are accepted. -/
def mintFeatures (t : State) (op : MintOp) : Prop :=
  (op.usesSig = true → t.accepted 1 = true) ∧ (op.fa = .lns6 ∨ op.fb = .lns6 → t.accepted 3 = true)

/-- R167: the parameter registers that a command copies. -/
def mintParams (x : Ctx) (op : MintOp) (mp : BitVec 3) : List Dword :=
  (List.range op.count).map fun i => x.mpReg (mp + BitVec.ofNat 3 i)

/-- R167, R169, R179: the Mint of a core with a command of context `c` queued last, with the buffers as it was issued. A mode
switch sets the pending mode. -/
def Queued (q : Core) (x : Ctx) (c : Nat) (op : MintOp) (p : List Dword) : Mint :=
  { q.mint with
    queue := q.mint.queue ++
      [{ id := q.mint.nextId, op, params := p, c, card := x.card.getD 0, baddr := x.pc, seq := q.seq + 1, wsrc := q.wb
         asrc := q.ab }]
    nextId := q.mint.nextId + 1
    pending := match op.kind with | .mode true => .rs | .mode false => .ws | _ => q.mint.pending }

/-- A typed buffer holds these bytes from `a` on. -/
def Holds (u : Core) (b : Buf) (a : Nat) (l : List Byte) : Prop := u.readBuf b a l.length = l

/-- The typed buffers are as they were, but for bytes of these areas. -/
def BuffersKept (q u : Core) (l : List Area) : Prop :=
  ∀ b a, (∀ x ∈ l, x.buf = b → a < x.lo ∨ x.lo + x.len ≤ a) → (u.buf b).read a = (q.buf b).read a

/-- R180: the latches once `mlatch` (`mlatch.t`, if `t`) has loaded them from the W-buffer as the command reads it. -/
def LatchLoaded (q u : Core) (c : MintCmd) (t : Bool) : Prop :=
  let d := tile0 c.params
  let o := c.op.opnd q c.params
  let e (k n : Nat) : Nat :=
    let p := if t then (d.row0 + n, d.col0 + k) else (d.row0 + k, d.col0 + n)
    if p.1 < d.rows ∧ p.2 < d.cols then o.code (c.source q) p.1 p.2 else 0
  let off (j n : Nat) : Nat :=
    let p := if t then (d.row0 + n, d.col0 + 16 * j) else (d.row0 + 16 * j, d.col0 + n)
    if p.1 < d.rows ∧ p.2 < d.cols then o.off (c.source q) p.1 p.2 else 127
  let has (l : Nat) (part : Nat → Nat) : Prop :=
    (∀ k n, k < 128 → n < 256 → (u.mint.latch l).elem k n = part (e k n) % 256) ∧
      ∀ j n, j < 8 → n < 256 → (u.mint.latch l).off j n = off j n % 256
  (match c.op.fb with
    | .fp32 =>
      has 0 (fun x => sliceHi x / 256) ∧ has 1 (fun x => sliceHi x % 256) ∧ has 2 (fun x => sliceLo x / 256) ∧
        has 3 (fun x => sliceLo x % 256) ∧ (u.mint.latch 0).scale = d.t ∧
        ∀ l, l ≠ 0 → (u.mint.latch l).scale = (q.mint.latch l).scale ∧ (4 ≤ l → u.mint.latch l = q.mint.latch l)
    | .bf16 =>
      has c.op.l (fun x => x / 256) ∧ has (c.op.l + 1) (fun x => x % 256) ∧ (u.mint.latch c.op.l).scale = d.t ∧
        (u.mint.latch (c.op.l + 1)).scale = (q.mint.latch (c.op.l + 1)).scale ∧
        ∀ l, l ≠ c.op.l → l ≠ c.op.l + 1 → u.mint.latch l = q.mint.latch l
    | f =>
      has c.op.l (fun x => if f = .lns6 then x % 64 else x) ∧ (u.mint.latch c.op.l).scale = d.t ∧
        ∀ l, l ≠ c.op.l → u.mint.latch l = q.mint.latch l) ∧
  u.mint.acc = q.mint.acc ∧ BuffersKept q u []

/-- R182: the C rows that `mstream` leaves, from the first that a claim has not already let it write. -/
def RowsStreamed (q u : Core) (c : MintCmd) : Prop :=
  let d := tile0 c.params
  let r := streamRec (param c.params 2)
  let o := c.op.opnd q c.params
  let lat := q.mint.latch c.op.l
  (∀ m n, c.progress ≤ m → m < r.mrows → n < 256 →
    Holds u .cb (r.caddr + 1024 * m + 4 * n) (leBytes 4
      (accumulateAll c.op.fa c.op.fb
        (fun i => if i < r.klen then o.code (c.source q) (d.row0 + m) (d.col0 + i) else 0)
        (fun hi i => q.mint.bCode c.op.fb c.op.l hi i n)
        (fun j => if 16 * j < r.klen then o.off (c.source q) (d.row0 + m) (d.col0 + 16 * j) else 127)
        (fun j => lat.off j n) (mulM d.t lat.scale).1
        (if r.zero then 0 else (q.cRow (r.caddr + 1024 * m) 256).getD n 0)).1.toNat)) ∧
  BuffersKept q u [⟨.cb, r.caddr + 1024 * c.progress, 1024 * (r.mrows - c.progress)⟩] ∧
  u.mint.acc = q.mint.acc ∧ u.mint.latches = q.mint.latches

/-- R71, R183: accumulator (k, n) after one more group of 128 batch rows. -/
def outerGroup (q : Core) (c : MintCmd) (k n g : Nat) (acc : Word) : Word :=
  let r := outerRec (param c.params 4)
  let x := c.op.opnd q c.params
  let y := c.op.opnd2 c.params
  let src := c.source q
  let row (i : Nat) : Option Nat := if 128 * g + i < r.brows then some (128 * g + i) else none
  (accumulateAll c.op.fa c.op.fb
    (fun i => match row i with | some b => x.code src (x.tile.row0 + b) (x.tile.col0 + k) | none => 0)
    (fun hi i => match row i with | some b => slice c.op.fb hi (y.code src (y.tile.row0 + b) (y.tile.col0 + n)) | none => 0)
    (fun j => match row (16 * j) with | some b => x.off src (x.tile.row0 + b) (x.tile.col0 + k) | none => 127)
    (fun j => match row (16 * j) with | some b => y.off src (y.tile.row0 + b) (y.tile.col0 + n) | none => 127)
    (mulM x.tile.t y.tile.t).1 acc).1

/-- R183: the accumulator tile that `mouter` leaves, over the groups that a claim has not already let it take. -/
def OuterAccumulated (q u : Core) (c : MintCmd) : Prop :=
  let r := outerRec (param c.params 4)
  (∀ k n, k < 128 → n < 256 →
    (u.mint.accRow k).getD n 0 =
      if k < r.klen ∧ n < r.nlen then
        (List.range ((r.brows + 127) / 128 - c.progress)).foldl (fun acc i => outerGroup q c k n (c.progress + i) acc)
          ((q.mint.accRow k).getD n 0)
      else (q.mint.accRow k).getD n 0) ∧
  u.mint.latches = q.mint.latches ∧ BuffersKept q u []

/-- R189, R193 to R196: the map, the status and the representatives that a whole `msig` leaves in the A-buffer. -/
def SignatureWritten (q u : Core) (c : MintCmd) : Prop :=
  let s := streamRec (param c.params 2)
  let d := sigRec c.params
  let r := (c.source q).signResult c.op c.params
  let n := r.reps.length * s.klen * elemSize c.op.fa
  let off (a len : Nat) : Prop := a + len ≤ d.mapaddr ∨ up64 (d.mapaddr + 2 * s.mrows) + 64 ≤ a
  u.mint.msigst = r.status ∧ r.ents.length = s.mrows ∧
  Holds u .ab d.mapaddr (r.ents.flatMap fun e => leBytes 2 e) ∧
  Holds u .ab (up64 (d.mapaddr + 2 * s.mrows)) (leBytes 8 r.status.toNat ++ List.replicate 56 0) ∧
  (off d.repaddr n → Holds u .ab d.repaddr (r.reps.flatMap fun x => codeBytes c.op.fa x.codes)) ∧
  (blockFmt c.op.fa = true → off (up64 (d.repaddr + n)) (r.reps.length * up16 s.klen) →
    Holds u .ab (up64 (d.repaddr + n)) (r.reps.flatMap fun x => offBytes x.offs)) ∧
  u.mint.acc = q.mint.acc ∧ u.mint.latches = q.mint.latches ∧ u.wb = q.wb

/-- R194: the C rows that a whole `msig.s` leaves: the representatives through the latch. -/
def RepsStreamed (q u : Core) (c : MintCmd) : Prop :=
  let s := streamRec (param c.params 2)
  let r := (c.source q).signResult c.op c.params
  let lat := q.mint.latch c.op.l
  ∀ j n, j < r.reps.length → n < 256 →
    Holds u .cb (s.caddr + 1024 * j + 4 * n) (leBytes 4
      (accumulateAll c.op.fa c.op.fb (fun i => (r.reps.getD j ⟨[], []⟩).codes.getD i 0)
        (fun hi i => q.mint.bCode c.op.fb c.op.l hi i n) (fun i => (r.reps.getD j ⟨[], []⟩).offs.getD i 127)
        (fun i => lat.off i n) (mulM (tile0 c.params).t lat.scale).1
        (if s.zero then 0 else (q.cRow (s.caddr + 1024 * j) 256).getD n 0)).1.toNat)

/-- R186, R197: output row `m` of a drain before its quantisation, none for a map entry out of range, and its triple. -/
def drained (q : Core) (c : MintCmd) (m : Nat) : Option (List Word) × Triple :=
  let d := drainRec c.params
  match (if c.op.kind = .drain true then (c.source q).mapIdx (expandMap c.params) (expandNrep c.params) m else some m) with
  | none => (none, Triple.invalid)
  | some i =>
    let x := q.cRow (d.caddr + 1024 * i) d.nlen
    let t := if d.rowstat || d.norm then x.foldl (fun t v => (qupdate t v 0x3F800000).1) Triple.empty else Triple.empty
    let w (a : Nat) : List Word := (List.range d.nlen).map fun n => leWord ((c.source q).readBuf .wb (a + 4 * n) 4)
    (some (if d.norm then (normRow t (d.eps ++ (0 : BitVec 16)) (w d.gaddr) (w (d.gaddr + 1024)) x).1 else x), t)

/-- R186: a row quantised: its codes and the offsets of its blocks of 16. -/
def quantised (f : Fmt) (t : Word) (z : List (Option Word)) : List Nat × List Nat := (quantRow f t z).1

/-- R186 to R188, R197: what a drain leaves: the plain tile (in its ring's slot at TAIL, if it fills one) and its plane, the
transposed copy and its plane, the ROWSTAT triples, the COLSTAT triples, where none of these lies over another. -/
def Drained (q u : Core) (c : MintCmd) : Prop :=
  let d := drainRec c.params
  let at_ := match d.ring with | some h => (q.ring h).slotAddr (q.ring h).tail.toNat | none => 0
  let out := plainAreas c.op d at_ ++ transAreas c.op d ++ drainWrites d
  let rows := (List.range d.mrows).map fun m => drained q c m
  let plain := rows.map fun z =>
    quantised c.op.fa d.pscl (match z.1 with | some z => z.map some | none => List.replicate d.nlen none)
  let trans := (List.range d.nlen).map fun n =>
    quantised c.op.fb d.tscl (rows.map fun z => z.1.map fun z => z.getD n 0)
  (out.Pairwise fun a b => a.meets b = false) →
  (∀ a ∈ drainWrites d, ∀ b ∈ drainReads c.op c.params d, a.meets b = false) →
  (∀ n, n < d.nlen → q.poisonedAt .cb (d.qaddr + 12 * n) 12 = none) →
  (∀ h, d.ring = some h → (q.ring h).stampM ≤ c.id) →
    (d.pen = true → Holds u d.pbuf (at_ + d.paddr) (codeBytes c.op.fa (plain.flatMap Prod.fst)) ∧
      (blockFmt c.op.fa = true → Holds u d.pbuf (at_ + d.poff) (offBytes (plain.flatMap Prod.snd)))) ∧
    (d.ten = true → Holds u d.tbuf d.taddr (codeBytes c.op.fb (trans.flatMap Prod.fst)) ∧
      (blockFmt c.op.fb = true → Holds u d.tbuf d.toff (offBytes (trans.flatMap Prod.snd)))) ∧
    (d.rowstat = true → Holds u d.pbuf d.saddr (rows.flatMap fun z => tripleBytes z.2)) ∧
    (d.colstat = true → ∀ n, n < d.nlen →
      Holds u .cb (d.qaddr + 12 * n) (tripleBytes
        (rows.foldl (fun t z => match z.1 with | some z => (qupdate t (z.getD n 0) 0x3F800000).1 | none => t)
          (q.tripleAt .cb (d.qaddr + 12 * n))))) ∧
    BuffersKept q u out ∧ u.mint.acc = q.mint.acc ∧ u.mint.latches = q.mint.latches

/-- R198: what `mfold` leaves in the W-buffer, where its plane does not lie over its tile. -/
def Folded (q u : Core) (c : MintCmd) : Prop :=
  let d := foldRec c.params
  let src := c.source q
  let members (j : Nat) : List Nat :=
    (List.range d.mrows).filter fun m => decide (src.mapIdx d.mapaddr d.nrep m = some j)
  let sum (j n : Nat) : Word := (foldSum src (c.op.opnd q c.params) n (members j)).1
  let col (n : Nat) : List Nat × List Nat := quantised c.op.fb d.oscl ((List.range d.nrep).map fun j => some (sum j n))
  (if blockFmt c.op.fb then
    (⟨.wb, d.oaddr, d.nrep * d.nlen⟩ : Area).meets ⟨.wb, d.ooff, up16 d.nrep * d.nlen⟩ = false →
      Holds u .wb d.oaddr (codeBytes c.op.fb
        ((List.range d.nrep).flatMap fun j => (List.range d.nlen).map fun n => (col n).1.getD j 0)) ∧
      Holds u .wb d.ooff (offBytes
        ((List.range (up16 d.nrep)).flatMap fun b => (List.range d.nlen).map fun n => (col n).2.getD b 0))
  else
    Holds u .wb d.oaddr ((List.range d.nrep).flatMap fun j => (List.range d.nlen).flatMap fun n =>
      if c.op.fb = .bf16 then leBytes 2 (roundFmt .bf16 (divM (f32 (sum j n)) (f32 d.oscl)).1).1
      else leBytes 4 (sum j n).toNat)) ∧
  (c.op.fb = .fp32 ∨ c.op.fb = .bf16 ∨ blockFmt c.op.fb = true → BuffersKept q u (foldWrites c.op d)) ∧
  u.mint.acc = q.mint.acc ∧ u.mint.latches = q.mint.latches

/-- R179 to R198: what a command leaves in its core when it retires with its operands there: `q` before, `u` after. -/
def MintResult (q u : Core) (c : MintCmd) : Prop :=
  match c.op.kind with
  | .mode r =>
    u.mint.mode = (if r then .rs else .ws) ∧ (r = true → ∀ j, u.mint.accRow j = List.replicate 256 0) ∧
      u.mint.latches = q.mint.latches ∧ BuffersKept q u []
  | .latch t => LatchLoaded q u c t
  | .stream => RowsStreamed q u c
  | .outer => OuterAccumulated q u c
  | .sig st =>
    (c.progress < (streamRec (param c.params 2)).mrows →
      SignatureWritten q u c ∧ (st = true → RepsStreamed q u c) ∧ (st = false → u.cb = q.cb)) ∧
      u.mint.acc = q.mint.acc ∧ u.mint.latches = q.mint.latches
  | .drain _ => c.op.drainEnded q c.params = false → Drained q u c
  | .fold => Folded q u c
  | .spill false =>
    (∀ j, j < 128 → Holds u .cb (spillAddr c.params + 1024 * j) ((q.mint.accRow j).flatMap fun w => leBytes 4 w.toNat)) ∧
      u.mint.acc = q.mint.acc ∧ u.mint.latches = q.mint.latches ∧ BuffersKept q u [⟨.cb, spillAddr c.params, 131072⟩]
  | .spill true =>
    (∀ j, j < 128 → u.mint.accRow j = q.cRow (spillAddr c.params + 1024 * j) 256) ∧ u.mint.latches = q.mint.latches ∧
      BuffersKept q u []
  | .clearAcc =>
    (∀ j, u.mint.accRow j = List.replicate 256 0) ∧ u.mint.latches = q.mint.latches ∧ BuffersKept q u []
  | .clearLatch =>
    u.mint.latch c.op.l = {} ∧ (∀ l, l ≠ c.op.l → u.mint.latch l = q.mint.latch l) ∧ u.mint.acc = q.mint.acc ∧
      BuffersKept q u []

/-- A queue without what its commands have seen of the buffers. -/
def bareQueue (l : List MintCmd) : List MintCmd := l.map fun x => { x with wsrc := [], asrc := [] }

/-- R28: an advance of a retiring command that its rings, as they stand then, do not allow: its operand ring has no filled slot,
the ring that its drain fills no free one, or, for an end of stream, no second one. -/
def advanceRefused (q : Core) (c : MintCmd) : Bool :=
  (match c.op.ring with | some h => decide (c.op.take q ≠ .ended ∧ (q.ring h).fill = 0) | none => false) ||
  (match c.op.kind, (drainRec c.params).ring with
    | .drain _, some h =>
      !c.op.drainEnded q c.params &&
        decide ((q.ring h).slots.toNat + 1 < (q.ring h).fill.toNat + if (drainRec c.params).reos then 2 else 1)
    | _, _ => false)

/-- R175: the W-buffer byte from which `mscale` reads. -/
def mscaleAt (x : Ctx) (idx : BitVec 10) : Nat := (x.window .wb).base + 8 * idx.toNat

/-! ### The copy slots -/

/-- R79: the slot that a copy-slot instruction stands in, from its slot bit. -/
def copySlot (c1 : Bool) : Nat := if c1 then 5 else 4

/-- R205, R212 to R215, R247, R261: what a command of a copy slot issues: its slot, guard, command and the feature it needs. -/
def commandForm (x : Ctx) (i : Instr) : Option (Nat × Guard × Issue × Option Nat) :=
  let go (c1 : Bool) : Option (Nat × Guard × Issue × Option Nat) :=
    (issueOf i x.readX x.wrec).map fun y => (copySlot c1, y)
  match i with
  | .dcopyRd _ c1 _ _ _ | .dcopyWr _ c1 _ _ _ | .dtcopyRd _ c1 _ _ _ _ | .dtcopyWr _ c1 _ _ _ _ | .dpush _ c1 _ _ _ _
  | .dpushEos _ c1 _ _ _ | .dpop _ c1 _ _ _ _ | .dstashRd _ c1 _ _ _ | .dstashWr _ c1 _ _ _ | .dgather _ c1 _ _ _ _
  | .dscatter _ c1 _ _ _ _ | .dscatterComb _ c1 _ _ _ _ | .tgather _ c1 _ _ _ _ _ | .tupdate _ c1 _ _ _ _
  | .tprefetch _ c1 _ _ _ | .xsub _ c1 _ _ _ => go c1
  | _ => none

/-- The context as the party that issues a command. -/
def partyOfCtx (t : State) (k c : Nat) : Party :=
  { k, by_ := .ctx k c, card := ((t.ctx k c).card).getD 0, baddr := (t.ctx k c).pc, ctx := t.ctx k c, role := none }

/-- R208, R248, R262: the checks that a command makes at issue all pass; `l` is the record it read, if any. -/
def CommandPasses (t : State) (p : Party) (j : Issue) (l : List Dword) : Prop :=
  (j.kind.usesRec = true → recFault j.wrec j.kind (t.accepted 3) = none) ∧ j.wordsBad = false ∧ j.denied t p = false ∧
    j.outside t p = none ∧ (j.kind ≠ .stage → j.ringBad t p = false) ∧
    match j.kind with
    | .tgather | .tupdate | .tprefetch =>
      ∃ k b a, wordPlace p.k j.xa = .buf k b a ∧ l = bytesDwords ((t.core k).readBuf b a.toNat 64) ∧
        tcCheck t p l j.kind.code j.kind.progs = none
    | .stage => ∃ k b a, wordPlace p.k j.xa = .buf k b a ∧
        stageCheck t p (bytesDwords ((t.core k).readBuf b a.toNat 64)) = .ok l
    | _ => l = []

/-- R209, R213: the core has room for the command. -/
def HasRoom (q : Core) (j : Issue) : Prop :=
  q.transfers.length < 512 ∧ (∀ wr, j.kind = .tcopy wr → q.timeBuffer < 64)

/-- R209: `u` is `t` after core `k` has accepted a command as its youngest transfer, with the next identifier of its channel;
only DSHC may have moved as well (R207). -/
def AcceptedTransfer (t u : State) (p : Party) (j : Issue) (l : List Dword) : Prop :=
  ∃ x : Transfer,
    x.ch = j.ch ∧ x.id = ((t.core p.k).chan j.ch).next ∧ x.kind = j.kind ∧ x.wrec = j.wrec ∧ x.xa = j.xa ∧ x.xb = j.xb ∧
    x.by_ = p.by_ ∧ x.baddr = p.baddr ∧ x.card = p.card ∧ x.notify = j.note ∧ x.order = t.issueCtr ∧ x.recd = l ∧
    x.started = false ∧ x.moved = 0 ∧ x.sent = false ∧ x.fenceOrd = p.orders t ∧
    u = { t.modCore p.k (fun q =>
            { q with
              transfers := q.transfers ++ [x]
              chans := Tab.put q.chans j.ch { q.chan j.ch with next := (q.chan j.ch).next + 1 }
              dshc := (u.core p.k).dshc }) with issueCtr := t.issueCtr + 1 } ∧
    (u.core p.k).dshc = (t.core p.k).dshc + if j.slow then 1 else 0

/-- R203: first bit and width of a `wset` field of a window record. -/
def wsetBits (n : Nat) : Nat × Nat :=
  if n ≤ 2 then (64 * n, 64) else if n % 2 = 1 then (192 + 48 * (n - 3), 56) else (248 + 48 * (n - 4), 40)

/-! ### The synchronisation slot -/

/-- R221: the count of a `y` operation: its immediate, or a register. -/
def countOf (x : Ctx) : Cnt → Nat
  | .imm n => n.toNat
  | .reg r => (x.readX r).toNat

/-- R28: the context is the consumer (the producer) that a descriptor names, the ring is valid and its stream has not ended
on that side. -/
def MayConsume (r : Ring) (c : Nat) : Prop := r.valid = true ∧ r.cons = .ctx ∧ r.cctx.toNat = c ∧ r.eosc = false
def MayProduce (r : Ring) (c : Nat) : Prop := r.valid = true ∧ r.prod = .ctx ∧ r.pctx.toNat = c ∧ r.eosp = false

/-- R26: the place of the end-of-stream slot among the filled slots from HEAD; FILL or more when it is not among them. -/
def eosAt (r : Ring) : Nat :=
  match r.eosSlot with
  | none => r.fill.toNat
  | some e => min r.fill.toNat ((e + r.count - r.head.toNat) % r.count)

/-- R26: whether a consumer wait for `n` slots completes. -/
def consumerReady (r : Ring) (n : Nat) : Prop := n ≤ r.fill.toNat ∨ n = 0 ∨ (r.eosp = true ∧ eosAt r < r.fill.toNat)

/-- R26, R221: the report of a consumer wait: the data slots available, and bit 32 when the end-of-stream slot lies among
the first `n`. -/
def consumerReport (r : Ring) (n : Nat) : Dword :=
  BitVec.ofNat 64 (min n (eosAt r) + if eosAt r < r.fill.toNat ∧ eosAt r < n then 2 ^ 32 else 0)

/-- R26: a consumer advance by `n`. -/
def Consumed (r r' : Ring) (n : Nat) : Prop :=
  r'.head.toNat = (r.head.toNat + n) % (r.slots.toNat + 1) ∧ r'.fill.toNat = r.fill.toNat - n ∧
    r' = { r with head := r'.head, fill := r'.fill, eosc := r'.eosc } ∧
    (r'.eosc = true ↔ r.eosc = true ∨ (eosAt r < r.fill.toNat ∧ eosAt r < n))

/-- R26: a producer advance by `n`. -/
def Produced (r r' : Ring) (n : Nat) : Prop :=
  r'.tail.toNat = (r.tail.toNat + n) % (r.slots.toNat + 1) ∧ r'.fill.toNat = r.fill.toNat + n ∧
    r' = { r with tail := r'.tail, fill := r'.fill, eosp := r'.eosp, eosSlot := r'.eosSlot }

/-- R30 to R32: a post of `n` to flag `f`: the flag saturates at 2^24 − 1 and then sets its bit of FOVF. The posts of a cycle
come before its waits: what waits have taken in this one, `took`, still stood in the flag. -/
def Posted (q q' : Core) (f : BitVec 5) (n took : Nat) : Prop :=
  q' = { q with flags := q'.flags, fovf := q'.fovf } ∧ (∀ e : BitVec 5, e ≠ f → q'.flag e = q.flag e) ∧
    q'.flag f = min (q.flag f + took + n) 16777215 - took ∧
    ∀ b, b < 32 → (q'.fovf.getLsbD b = true ↔ q.fovf.getLsbD b = true ∨ (b = f.toNat ∧ 16777215 < q.flag f + took + n))

/-- R30, R32: a satisfied wait has taken `n` from flag `f` of core `k` in this cycle. -/
def Taken (s u : State) (k : Nat) (f : BitVec 5) (n : Nat) : Prop :=
  (∃ q, u = { s.setCore k q with cycleTook := u.cycleTook } ∧ q = { s.core k with flags := q.flags } ∧
    q.flag f = (s.core k).flag f - n ∧ ∀ e : BitVec 5, e ≠ f → q.flag e = (s.core k).flag e) ∧
    u.tookNow k f = s.tookNow k f + n ∧ ∀ j (e : BitVec 5), (j ≠ k ∨ e ≠ f) → u.tookNow j e = s.tookNow j e

/-! ### Traps, landing, issue and selection -/

/-- R295, R296: the context as its handler finds it. -/
def Entered (x : Ctx) (entry : Dword) (tr : Trap) : Ctx :=
  { x with
    snapshot := x.snapshot ++ x.flights, flights := [], fpPend := none
    cause := BitVec.ofNat 64 (tr.cause.code + if tr.psvc then 256 else 0), tval := tr.tval
    tinfo := ((tr.baddr.extractLsb' 5 47).setWidth 64 <<< 5) ||| (if tr.async then 16 else 0) ||| BitVec.ofNat 64 tr.slot
    epcb := tr.epcb &&& ~~~31, slotres := BitVec.ofNat 3 tr.slotres
    st := .trapped, server := .handler, pc := entry, start := 0, phase := .normal, ckFill := false
    parked := false, taken := none, timedOut := false }

/-- R303: the context as a double fault leaves it. -/
def Stopped (x : Ctx) (cause : Cause) (epc : Dword) : Ctx :=
  { x with dcause := BitVec.ofNat 64 cause.code, depc := epc, st := .stopped, server := .none, flights := [] }

/-- R39: one result of a context of the core is due at the next boundary, and no other of any context: its place among the
context's results. -/
structure OneDue (s : State) (k c : Nat) (a : List Flight) (f : Flight) (b : List Flight) : Prop where
  keys : ((s.core k).ctxs.map Prod.fst).Nodup
  here : (s.ctx k c).flights = a ++ f :: b
  due : f.r ≤ 1
  later : ∀ g ∈ a ++ b, 1 < g.r
  others : ∀ y ∈ (s.core k).ctxs, y.1 ≠ c → ∀ g ∈ y.2.flights, 1 < g.r
  /-- No event of a Mint command waits for the boundary (R170). -/
  quiet : (s.ctx k c).mintEvs = []

/-- Nothing keeps the results due from landing before the next bundle of the context that core `k` runs (R130, R300, R305). -/
structure AtBoundary (s : State) (k c : Nat) : Prop where
  runs : s.issuer k = some c
  halt : (s.ctx k c).haltReq = false
  first : (s.ctx k c).start = 0
  /-- No bundle has issued and stalls (R387). -/
  free : (s.core k).stalled = false
  /-- No record waits to trap here (R302). -/
  calm : (s.ctx k c).pend = false
  phase : (s.ctx k c).phase = .normal

/-- The value that a result brings to its register; the disabled groups of a vector or statistics register keep the lanes that
they had in `old` (R145). -/
def landsIn (x : Ctx) (q old : Core) (f : Flight) : Prop :=
  match f.dest, f.val with
  | .x r, .dword v => x.readX r = if r = 0 then 0 else v
  | .p r, .bit b => x.readP r = if r = 0 then true else b
  | .mp r, .dword v => x.mpReg r = v
  | .v r m, .lanes l => ∀ j, j < 128 → l.length = 128 → (old.vreg r).length = 128 →
    (q.vreg r)[j]? = if m.getLsbD (j / 16) = true then l[j]? else (old.vreg r)[j]?
  | .q r m, .triples l => ∀ j, j < 128 → l.length = 128 → (old.qreg r).length = 128 →
    (q.qreg r)[j]? = if m.getLsbD (j / 16) = true then l[j]? else (old.qreg r)[j]?
  | _, _ => True

/-- R136: FEVR after a result of flags `f.flags` has set them: the first event of all, while no event is recorded, is recorded
with its flags, slot and bundle; another leaves the record as it is. -/
def FirstEvent (x y : Ctx) (f : Flight) : Prop :=
  (x.fevr.getLsbD 0 = true ∨ f.flags &&& ~~~(x.fflags.extractLsb' (5 * f.slot) 5) = 0 → y.fevr = x.fevr) ∧
    (x.fevr.getLsbD 0 = false → f.flags &&& ~~~(x.fflags.extractLsb' (5 * f.slot) 5) ≠ 0 → f.slot < 8 →
      y.fevr.extractLsb' 59 5 = f.flags ∧ (y.fevr.extractLsb' 56 3).toNat = f.slot ∧ y.fevr.extractLsb' 52 4 = 0 ∧
        y.fevr.extractLsb' 5 47 = f.baddr.extractLsb' 5 47 ∧ y.fevr.extractLsb' 1 4 = 0 ∧ y.fevr.getLsbD 0 = true)

/-- R43, R146: two results of one bundle name the same register, or overlapping groups of one. -/
def Meet : Dest → Dest → Prop
  | .x r, .x r' => r = r' ∧ r ≠ 0
  | .p r, .p r' => r = r' ∧ r ≠ 0
  | .mp r, .mp r' => r = r'
  | .v r m, .v r' m' => r = r' ∧ m &&& m' ≠ 0
  | .q r m, .q r' m' => r = r' ∧ m &&& m' ≠ 0
  | _, _ => False

/-- R37: how far a context stands behind the one that last issued, in ascending order round the core. -/
def turnOf (q : Core) (c : Nat) : Nat :=
  match q.lastIssued with
  | some l => (c + 7 - l) % 8
  | none => c

/-- R32, R33, R138, R167, R209: why a bundle stalls, and the event with which it tries again. -/
def RetryOf (k : Nat) (h : Hold) (i : Instr) : Prop :=
  match h with
  | .sync | .chan => i = .syncWaitComplete k
  | .ring _ => i = .ringAccessResume k
  | .global => i = .globalAccessComplete k
  | .mintQueue => i = .mintQueueEntryFree k
  | .pool => i = .transferPoolFree (.core k)
  | _ => False

/-! ### The hands -/

/-- A hand is in focus and runs. -/
structure HandRuns (s : State) (k : Nat) (r : Role) : Prop where
  focus : s.focus = .hand k r
  runs : (s.hand k r).running = true

/-- R223: an instruction of the hand has completed over `t`: its result for `rd`, the next address, one more instruction
retired. -/
def handDone (t : State) (k : Nat) (r : Role) (rd : Reg) (v pc : Dword) : State :=
  t.modHand k r fun h => { h.writeX rd v with pc := pc, instret := h.instret + 1, waitAt := none }

/-- R302: the causes whose record carries the value that the cause names. -/
def paid (c : Cause) : Bool :=
  [Cause.ringProtocol, .bufferBounds, .fetchOutsideCode, .translationFault, .pagePermission, .cowWrite, .pageAbsent,
    .memoryError].contains c

/-- R227, R293, R302: a fault stops the hand, whose registers stay as they were, and its record goes to the patron, with the
trap value that its cause gives. -/
def handStops (s : State) (k : Nat) (r : Role) (cause : Cause) (v : Dword) : State :=
  { s.modHand k r (fun h => { h with running := false, faulted := true, waitAt := none }) with
    recQueue := s.recQueue ++
      [(((s.hand k r).card).getD 0, k, (s.hand k r).patron,
        { cause, trap := true, src := match r with | .load => 4 | .store => 5
          ch := 0, id := (s.hand k r).pc, baddr := 0, pay := [if paid cause then v else 0], tv := v })] }

/-- R33, R223: the hand stalls; the watchdog counts from the cycle in which the stall began. -/
def handWaits (s : State) (k : Nat) (r : Role) : State :=
  if (s.hand k r).waitAt = none then s.modHand k r fun h => { h with waitAt := some s.timebase.toNat } else s

/-- R223: bytes of an instruction. -/
def formBytes : RvForm → Dword
  | .full => 4
  | .compressed _ => 2

/-- R223: the result and the next address of an RV64 instruction of `n` bytes that neither loads nor stores. -/
def rvValue (s : State) (k : Nat) (r : Role) (h : Hand) (n : Dword) : RvOp → Option (Reg × Dword × Dword)
  | .lui rd imm => some (rd, (imm ++ (0 : BitVec 12)).signExtend 64, h.pc + n)
  | .auipc rd imm => some (rd, h.pc + (imm ++ (0 : BitVec 12)).signExtend 64, h.pc + n)
  | .jal rd off => some (rd, h.pc + n, h.pc + 2 * off.signExtend 64)
  | .jalr rd rs1 imm => some (rd, h.pc + n, (h.readX rs1 + imm.signExtend 64) &&& ~~~1)
  | .branch c rs1 rs2 off =>
    some (0, 0, if rvCond c (h.readX rs1) (h.readX rs2) = true then h.pc + 2 * off.signExtend 64 else h.pc + n)
  | .opImm o rd rs1 imm => some (rd, rvImm o (h.readX rs1) (imm.signExtend 64), h.pc + n)
  | .shImm o rd rs1 sh => some (rd, rvSh o (h.readX rs1) sh.toNat, h.pc + n)
  | .op o rd rs1 rs2 => some (rd, rvRR o (h.readX rs1) (h.readX rs2), h.pc + n)
  | .unary o rd rs1 => some (rd, rvUn o (h.readX rs1), h.pc + n)
  | .csr _ _ rd .cycle => some (rd, s.timebase, h.pc + n)
  | .csr _ _ rd .time => some (rd, s.timebase, h.pc + n)
  | .csr _ _ rd .instret => some (rd, h.instret, h.pc + n)
  | .csr _ _ rd .hid => some (rd, BitVec.ofNat 64 (k + match r with | .load => 0 | .store => 256), h.pc + n)
  | .csr _ _ rd .hfeat => some (rd, s.featAcc, h.pc + n)
  | .load .. => none
  | .store .. => none

/-- R224: the byte that a hand's load reads at an address of its map. -/
def handByte (h : Hand) (a : Nat) : Byte := if a < 0x10000 then h.imem.read a else h.dmem.read (a - 0x10000)

/-- R224: the `n` bytes from `a` lie in one row of the map that loads (stores) reach. -/
def inInstrs (a : Dword) (n : Nat) : Prop := a.toNat + n ≤ 0x10000
def inScratch (a : Dword) (n : Nat) : Prop := 0x10000 ≤ a.toNat ∧ a.toNat + n ≤ 0x18000

/-- R223: the value that a load makes of its bytes. -/
def rvLoaded (o : RvLoad) (l : List Byte) : Dword :=
  match o with
  | .lb | .lh | .lw => (BitVec.ofNat (8 * l.length) (leNat l)).signExtend 64
  | _ => BitVec.ofNat 64 (leNat l)

/-- R28, R232: the hand is the consumer (the producer) that a descriptor names. -/
def HandConsumes (g : Ring) (r : Role) : Prop := g.valid = true ∧ g.cons = roleRing r ∧ g.eosc = false
def HandProduces (g : Ring) (r : Role) : Prop := g.valid = true ∧ g.prod = roleRing r ∧ g.eosp = false

/-! ### Row units -/

/-- R237: unit `u` is in focus and runs the item of a row program that `e` describes, below its word limit. -/
structure UnitRuns (s : State) (u : UnitId) (e : RowEnv) : Prop where
  focus : s.focus = .unit u
  item : s.rowEnv u = some e
  image : (s.unit u).shipped = false
  below : (s.unit u).words < 65536
  /-- R379: its Vault is not in RETENTION, where row units are stopped. -/
  awake : s.unitStopped u = false

/-- R244: the unit past its micro-word, before the word's own effect: the micro-PC wraps from word 1,023 to word 0. -/
def stepped (r : RowUnit) : RowUnit := { r with pc := r.pc + 1, words := r.words + 1, suspended := false }

/-- R242: an element operation: its destination and the value of each lane below D. -/
def rowLanesOf (e : RowEnv) (r : RowUnit) : Instr → Option (RowReg × (Nat → Word))
  | .rowAdd gd ga gb => some (gd, fun i => (add32 (r.lane e ga i) (r.lane e gb i)).1)
  | .rowSub gd ga gb => some (gd, fun i => (sub32 (r.lane e ga i) (r.lane e gb i)).1)
  | .rowMul gd ga gb => some (gd, fun i => (mul32 (r.lane e ga i) (r.lane e gb i)).1)
  | .rowMac gd ga gb => some (gd, fun i => (fma32 (r.lane e ga i) (r.lane e gb i) (r.lane e gd i)).1)
  | .rowSmul gd ga sb => some (gd, fun i => (mul32 (r.lane e ga i) (r.readS sb)).1)
  | .rowSmac gd ga sb => some (gd, fun i => (fma32 (r.lane e ga i) (r.readS sb) (r.lane e gd i)).1)
  | .rowSq gd ga => some (gd, fun i => (mul32 (r.lane e ga i) (r.lane e ga i)).1)
  | .rowMax gd ga gb => some (gd, fun i => max32 (r.lane e ga i) (r.lane e gb i))
  | .rowRsq gd ga sb =>
    some (gd, fun i => (div32 0x3F800000 (sqrt32 (add32 (r.lane e ga i) (r.readS sb)).1).1).1)
  | .rowLdg gd => some (gd, fun i => if e.upd = true then e.item.grad.getD i 0 else 0)
  | _ => none

/-- R242, R243: a scalar operation: its destination and its value. -/
def rowScalarOf (e : RowEnv) (r : RowUnit) : Instr → Option (BitVec 4 × Word)
  | .rowHsum sd ga => some (sd, (r.readG e.d ga).foldl (fun h a => (add32 h a).1) 0)
  | .rowSopAdd sd sa sb => some (sd, (add32 (r.readS sa) (r.readS sb)).1)
  | .rowSopSub sd sa sb => some (sd, (sub32 (r.readS sa) (r.readS sb)).1)
  | .rowSopMul sd sa sb => some (sd, (mul32 (r.readS sa) (r.readS sb)).1)
  | .rowSopDiv sd sa sb => some (sd, (div32 (r.readS sa) (r.readS sb)).1)
  | .rowSopMac sd sa sb => some (sd, (fma32 (r.readS sa) (r.readS sb) (r.readS sd)).1)
  | .rowSopRsqe sd sa sb => some (sd, (div32 0x3F800000 (sqrt32 (add32 (r.readS sa) (r.readS sb)).1).1).1)
  | .rowSopMax sd sa sb => some (sd, max32 (r.readS sa) (r.readS sb))
  | .rowSopMov sd sa => some (sd, r.readS sa)
  | .rowMovi sd imm => some (sd, imm)
  | .rowLdc sd c => some (sd, e.cmd.consts.getD c.toNat 0)
  | _ => none

/-- R242, R76, R77: a triple operation: its accumulator and the value of each lane below D. -/
def rowTriplesOf (e : RowEnv) (r : RowUnit) : Instr → Option (Bool × (Nat → Triple))
  | .rowQacc t ga sb => some (t, fun i => (qupdate (r.triple e t i) (r.lane e ga i) (r.readS sb)).1)
  | .rowQmix t u => some (t, fun i => (qmerge (r.triple e t i) (r.triple e u i)).1)
  | .rowQnew t => some (t, fun _ => Triple.empty)
  | _ => none

/-- The scalar registers, row registers and accumulators of a unit other than those a test names. -/
def SameRegs (e : RowEnv) (a b : RowUnit) (s : BitVec 4 → Prop) (g : RowReg → Prop) (t : Bool → Prop) : Prop :=
  (∀ n, ¬ s n → a.readS n = b.readS n) ∧ (∀ n, ¬ g n → a.readG e.d n = b.readG e.d n) ∧
    ∀ n, ¬ t n → a.readT e.d n = b.readT e.d n

/-- The unit's fields outside its registers, as the next micro-word finds them. -/
def RowFrame (a b : RowUnit) : Prop := a = { b with g := a.g, t := a.t, s := a.s }

/-- R244: the position to which `next` advances. -/
def nextPos (r : RowUnit) : Nat :=
  match r.pos with
  | none => 0
  | some p => p + 1

/-- R235, R244, R245: the bytes that a store of a row program hands to the channel: of the row, quantised, or of its state
record, whose padding it writes as zero. -/
def rowStored (s : State) (e : RowEnv) (r : RowUnit) (row : Nat) : Instr → Option (Acc (List (Nat × Byte)))
  | .rowStq ga => some ((s.rowAddrs e.v e.slot row false .write).bind fun l =>
      .ok (l.zip (quantise e.desc false (s.rowBytes (s.vault e.v).writes l) (r.readG e.d ga))))
  | .rowStqRq ga => some ((s.rowAddrs e.v e.slot row false .write).bind fun l =>
      .ok (l.zip (quantise e.desc true (s.rowBytes (s.vault e.v).writes l) (r.readG e.d ga))))
  | .rowSts ga p => some (if descNsr e.desc ≤ (if p then 1 else 0) then .ok []
      else (s.rowAddrs e.v e.slot row true .write).bind fun l =>
        .ok ((l.drop (4 * e.d * if p then 1 else 0)).zip ((r.readG e.d ga).flatMap fun x => leBytes 4 x.toNat) ++
          (l.drop (4 * e.d * descNsr e.desc + 4 * descNss e.desc)).map fun a => (a, 0)))
  | .rowStss sa q => some (if descNss e.desc ≤ q.toNat then .ok []
      else (s.rowAddrs e.v e.slot row true .write).bind fun l =>
        .ok ((l.drop (4 * e.d * descNsr e.desc + 4 * q.toNat)).zip (leBytes 4 (r.readS sa).toNat) ++
          (l.drop (4 * e.d * descNsr e.desc + 4 * descNss e.desc)).map fun a => (a, 0)))
  | _ => none

/-- R256: the stores that an item's loads see: those of items that precede it on its row, and its own; a gather item's
loads see memory. -/
def seenStores (s : State) (e : RowEnv) : List RowWrite := if e.upd = true then (s.vault e.v).writes else []

/-- R325: the sectors of a row, or of its state record, that lie in a channel. -/
def sectorsIn (s : State) (v slot row : Nat) (rec_ : Bool) (c : Option ChanId) : Nat :=
  match s.rowAddrs v slot row rec_ .read with
  | .ok l => ((l.map (· / 64)).eraseDups.filter fun u =>
      decide (physChan (64 * u) (tillSet ((s.vault v).tillEntry slot) row) = c)).length
  | _ => 0

/-- R325: in a channel, a read of `n` sectors is complete 36 + 2n unit cycles, of two cycles each, after its request; the whole
read when the last of its channels is. -/
def ReadIsDue (s : State) (v slot row : Nat) (rec_ : Bool) (t : Nat) : Prop :=
  (∀ c, sectorsIn s v slot row rec_ c ≠ 0 → s.timebase.toNat + 2 * (36 + 2 * sectorsIn s v slot row rec_ c) ≤ t) ∧
    (t = s.timebase.toNat ∨ ∃ c, sectorsIn s v slot row rec_ c ≠ 0 ∧
      t = s.timebase.toNat + 2 * (36 + 2 * sectorsIn s v slot row rec_ c))

/-- R323, R325: channels in which a unit may request a sector now: no turn is pending there, and no other unit reads. -/
def MayRequest (s : State) (u : UnitId) (l : List ChanId) : Prop :=
  ∀ ch ∈ l, s.turnPending ch = false ∧ s.readBusy u ch = false

/-! ### Tables, channels, the Till -/

/-- R216: the transfer counts as complete: it is no longer in flight on its core. -/
def TransferGone (s : State) (k ch : Nat) (id : Dword) : Prop := (s.core k).findTransfer ch id = none

/-- R237: the registers with which a unit begins an item that covers `n` positions of a table of `d` columns. -/
def FreshItem (r : RowUnit) (d n : Nat) : Prop :=
  r.pc = 0 ∧ r.words = 0 ∧ r.pos = none ∧ r.readS 13 = (div32 0x3F800000 (w32 (Ex.ofInt d))).1 ∧
    r.readS 14 = w32 (Ex.ofInt d) ∧ r.readS 15 = w32 (Ex.ofInt n) ∧ (∀ i : BitVec 4, i.toNat < 13 → r.readS i = 0) ∧
    (∀ g, r.readG d g = List.replicate d 0) ∧ ∀ t, r.readT d t = List.replicate d Triple.empty

/-- R253: a ring into which a Vault, or the Exchange in its place, may write its next slot. -/
def VaultMayFill (r : Ring) : Prop :=
  r.valid = true ∧ r.prod = .vault ∧ r.eosp = false ∧ r.fill.toNat ≤ r.slots.toNat

/-- R216: what a completing transfer's release would perform is nothing. -/
def NothingToRelease (s : State) (k : Nat) (t : Transfer) : Prop := noteEn t.notify = false ∨ (s.core k).stores = []

/-- R254, R302: the record of a table command. -/
def tableRecord (c : TblCmd) (cause : Cause) (trap : Bool) (pay : List Dword) : EngRec :=
  { cause, trap, src := 2, ch := c.ch, id := c.id, baddr := c.baddr, pay }

/-- R249, R257: an earlier command of its Vault keeps a command from its start: one that has still to make its lookups or,
with a table fence, an update of its table. -/
def HeldBack (x : Vault) (c : TblCmd) : Prop :=
  (∃ y ∈ x.cmds, y.order < c.order ∧ (y.allLooked = false ∨ c.fence = true ∧ y.kind = 1 ∧ y.table = c.table)) ∨
    c.fence = true ∧ ∃ w ∈ x.writes, w.order < c.order ∧ w.table = c.table

/-- R254: the list positions whose index names a row of the table, and those whose does not. -/
def inTable (c : TblCmd) (rows : Nat) : List Nat :=
  (List.range c.idxs.length).filter fun p => decide (0 ≤ c.idxs.getD p 0) && decide (c.idxs.getD p 0 < rows)
def outOfTable (c : TblCmd) (rows : Nat) : List Nat :=
  (List.range c.idxs.length).filter fun p => !(decide (0 ≤ c.idxs.getD p 0) && decide (c.idxs.getD p 0 < rows))

/-- R255: the positions of a list that name a row, ascending. -/
def positionsOf (c : TblCmd) (row : Nat) : List Nat :=
  (List.range c.idxs.length).filter fun p => decide (c.idxs.getD p 0 = (row : Int))

/-- R255: an update item over positions of one row. -/
def rowItem (row : Nat) (l : List Nat) (grad : List Word) : Item :=
  { kind := .update, bag := 0, poss := l.map fun p => { pos := p, row, wt := 0x3F800000 }, grad, unit := .vault 0 0 }

/-- R255: lane-wise sum of gradient rows, from the lowest position up. -/
def gradSum (c : TblCmd) : List Nat → List Word
  | [] => []
  | p :: l => l.foldl (fun g q =>
      (List.range (max g.length (c.grads.getD q []).length)).map fun i => (add32 (g.getD i 0) ((c.grads.getD q []).getD i 0)).1)
      (c.grads.getD p [])

/-- R255: the items of an update, row by row: in sequential mode one for each position, in combine mode one for each row. -/
def itemsByRow (c : TblCmd) (rows : Nat) : List Item :=
  (List.range rows).flatMap fun row =>
    if c.seqm = true then (positionsOf c row).map fun p => rowItem row [p] (c.grads.getD p [])
    else if positionsOf c row = [] then [] else [rowItem row (positionsOf c row) (gradSum c (positionsOf c row))]

/-- R237, R252, R255, R322, R330: the unit that runs an item. -/
def unitOfItem (s : State) (v : Nat) (c : TblCmd) (i : Item) : Acc UnitId :=
  let slot := c.table.toNat % 8192
  let row := (i.poss.head?.map (·.row)).getD 0
  if (i.kind = .update ∧ ((s.vault v).residentWay slot row).isSome = true) ∨ i.kind = .gatherT then
    let set := tillSet ((s.vault v).tillEntry slot) row
    .ok (.base (set % 8) (set / 8 % 8))
  else s.homeUnit v slot row

/-- R255: an update item may start: its row is in no move, and no earlier item is left on it. -/
def RowIsFree (s : State) (v : Nat) (c : TblCmd) (it : Nat) (i : Item) : Prop :=
  i.kind = .update → (s.vault v).moving c.table ((i.poss.head?.map (·.row)).getD 0) = false ∧
    (s.vault v).rowFree c it ((i.poss.head?.map (·.row)).getD 0) = true

/-- R325: what the unit has requested is present. -/
def Arrived (s : State) (r : RowUnit) : Prop :=
  (∀ t, r.rowDue = some t → t ≤ s.timebase.toNat) ∧ ∀ t, r.stateDue = some t → t ≤ s.timebase.toNat

/-- R252: the partial of a pooled part with one more member. -/
def pooled (mode : PoolMode) (d : Nat) (p : Option (List Word)) (x : List Word) (w : Word) : List Word :=
  let old (i : Nat) : Word := (p.getD []).getD i 0
  match mode with
  | .sum | .mean => (List.range x.length).map fun i => (fma32 w (x.getD i 0) (old i)).1
  | .max => (List.range x.length).map fun i =>
      if p = none then (mul32 w (x.getD i 0)).1 else max32 (old i) (mul32 w (x.getD i 0)).1
  | .stats => (List.range d).flatMap fun i =>
      let t := (qupdate (if (p.getD []).length ≤ 3 * i then Triple.empty else ⟨old (3 * i), old (3 * i + 1), old (3 * i + 2)⟩) (x.getD i 0) w).1
      [t.w, t.mu, t.m2]

/-- R242, R258: the sum of the squares of a gradient over D; `rsqe`; one lane of a step by `−h`. -/
def meanSquare (g : List Word) (d : Nat) : Word :=
  (mul32 (g.foldl (fun h x => (add32 h (mul32 x x).1).1) 0) (div32 0x3F800000 (w32 (Ex.ofInt d))).1).1
def recipRoot (x e : Word) : Word := (div32 0x3F800000 (sqrt32 (add32 x e).1).1).1
def stepBy (w g : List Word) (h : Word) : List Word :=
  (List.range w.length).map fun i => (fma32 (g.getD i 0) (sub32 0 h).1 (w.getD i 0)).1

/-- R258: the row, state row 0 and state scalar 0 after one item of a shipped optimiser. -/
def optimised (prog : Nat) (c : List Word) (w g sr : List Word) (ss : Word) : List Word × List Word × Word :=
  let lr := c.getD 0 0
  let b1 := c.getD 1 0
  let b2 := c.getD 2 0
  if prog = 1 then
    let sum := (add32 ss (meanSquare g w.length)).1
    (stepBy w g (mul32 (recipRoot sum b1) lr).1, sr, sum)
  else if prog = 2 then
    let v := (List.range w.length).map fun i => (fma32 (sr.getD i 0) b1 (g.getD i 0)).1
    (stepBy w v lr, v, ss)
  else if prog = 3 then
    let m := (List.range w.length).map fun i =>
      (fma32 (g.getD i 0) (sub32 0x3F800000 b1).1 (mul32 (sr.getD i 0) b1).1).1
    let v := (fma32 (meanSquare g w.length) (sub32 0x3F800000 b2).1 (mul32 ss b2).1).1
    (stepBy w m (mul32 (mul32 lr (c.getD 4 0)).1 (recipRoot (mul32 v (c.getD 5 0)).1 (c.getD 3 0))).1, m, v)
  else (stepBy w g lr, sr, ss)

/-- R235, R258: the bytes that an update item writes at the places `ra` of its row and `sa` of its state record: the row
quantised with a new scale, state row 0 and state scalar 0 where the table has them, and zero in the padding. -/
def updateBytes (s : State) (v : Nat) (c : TblCmd) (i : Item) (ra sa : List Nat) : List (Nat × Byte) :=
  let e := (s.vault v).desc (c.table.toNat % 8192)
  let d := descD e
  let old := s.rowBytes (s.vault v).writes ra
  let st := s.rowBytes (s.vault v).writes sa
  let words (l : List Byte) : List Word := (pieces 4 l.length l).map leWord
  let n := optimised c.prog.toNat c.consts (dequant e old) i.grad (words (st.take (4 * d)))
    (leWord ((st.drop (4 * d * descNsr e)).take 4))
  ra.zip (quantise e true old n.1) ++
    ((if descNsr e = 0 then [] else sa.zip (n.2.1.flatMap fun x => leBytes 4 x.toNat)) ++
      (if descNss e = 0 then [] else (sa.drop (4 * d * descNsr e)).zip (leBytes 4 n.2.2.toNat)) ++
      (sa.drop (descNsr e * d * 4 + descNss e * 4)).map fun a => (a, 0))

/-! ### The Dray at work -/

/-- The transfer stands at this place among the transfers in flight of its core, and no other there has its channel and
identifier. -/
structure InFlight (s : State) (k : Nat) (before : List Transfer) (t : Transfer) (after : List Transfer) : Prop where
  here : (s.core k).transfers = before ++ t :: after
  only : ∀ x ∈ before ++ after, ¬ (x.ch = t.ch ∧ x.id = t.id)

/-- R209: it is the next of its channel to start: every transfer of the channel in front of it has started. -/
def NextOfChannel (before : List Transfer) (t : Transfer) : Prop :=
  t.started = false ∧ t.sent = false ∧ t.moved = 0 ∧ t.pending = [] ∧ ∀ x ∈ before, x.ch = t.ch → x.started = true

/-- Only the transfers of core `k` differ, and they are `l`; DSHC may count a transfer `t` there that had still to be counted
(R207). -/
def OnlyTransfers (s u : State) (k : Nat) (t : Transfer) (l : List Transfer) : Prop :=
  u = { s with cores := u.cores } ∧
    (∀ j, u.core j = if j = k then { s.core k with transfers := l, dshc := (u.core k).dshc } else s.core j) ∧
    ((u.core k).dshc = (s.core k).dshc ∨ t.counted = false ∧ (u.core k).dshc = (s.core k).dshc + 1)

/-- R216: LOW of a channel with these transfers in flight: the lowest identifier that has not completed. -/
def LowestLeft (q : Core) (ch : Nat) (l : List Transfer) : Prop :=
  ((∀ x ∈ l, x.ch ≠ ch) → (q.chan ch).low = (q.chan ch).next) ∧
    (∀ x ∈ l, x.ch = ch → ((q.chan ch).next - x.id).toNat ≤ ((q.chan ch).next - (q.chan ch).low).toNat)

/-- R32, R202, R216: what a notify word asks of the flags of the transfer's own core; `took` is what waits have taken of the flag
in this cycle. -/
def FlagsNotified (q q' : Core) (w : Dword) (took : BitVec 5 → Nat) : Prop :=
  ∀ f, q'.flag f =
    if noteEn w = true ∧ noteRemote w = false ∧ noteFlag w = f then min 16777215 (q.flag f + took f + noteAmt w) - took f
    else q.flag f

/-- R323, R344, R379: what the transfer has still to write may be written: the translation of every byte is in use, and nothing
holds its place. -/
def MayFlush (s : State) (t : Transfer) : Prop :=
  (∀ x ∈ t.pending, x.pa.isSome = true) ∧ s.busyFor (t.pending.filterMap (·.pa)) = none

/-- R25, R229: on its own core a transfer acts as the Dray, one of a hand also as that hand. -/
def ActsAs (t : Transfer) (x : RingRole) : Prop := x = .dray ∨ ∃ k z p, t.by_ = .hand k z p ∧ x = roleRing z

/-- R210: a transfer after `t` has left its ring without an advance. -/
def begunAgain (t x : Transfer) : Transfer :=
  if t.kind.usesRing = true ∧ x.ring = t.ring ∧ t.order < x.order then
    { x with started := false, moved := 0, pending := [], got := if x.kind = .pop then [] else x.got }
  else x

/-- R28, R210: the ring still lets the command of its own core advance it. -/
def RingAllows (r : Ring) (t : Transfer) : Prop :=
  r.valid = true ∧ (t.kind = .pop → ActsAs t r.cons ∧ r.eosc = false ∧ r.fill ≠ 0) ∧
    (t.kind = .push ∨ t.kind = .pushEos → ActsAs t r.prod ∧ r.eosp = false ∧ r.fill.toNat ≤ r.slots.toNat)

/-- R218, R302: the record of a transfer that ends in error. -/
def errorRecord (t : Transfer) (cause : Cause) (pay : List Dword) : EngRec :=
  { cause, trap := true, src := t.kind.src, ch := BitVec.ofNat 4 t.ch, id := t.id, baddr := t.baddr, pay }

/-- R210: the position of a ring command among those on its ring that have not completed, and whether one of them ends the
stream. -/
def ringPlace (s : State) (k : Nat) (t : Transfer) : Nat := (s.ringAhead k t).length

/-- R206: e(d) of window element `n`, dimension 0 fastest. -/
def vecOf (w : BitVec 768) (n d : Nat) : Nat := n / ((List.range d).map (recExt w)).prod % recExt w d

/-- R206, R212: t(d) of element `n`; `idx` is the entry of an index list for its e(1). -/
def tensorAt (w : BitVec 768) (idx : Option Int) (n d : Nat) : Int :=
  recOrg w d + match idx with
    | some i => if d = 1 then i else vecOf w n d
    | none => vecOf w n d

/-- R206: inr. -/
def InTensor (w : BitVec 768) (idx : Option Int) (n : Nat) : Prop :=
  ∀ d, d ≤ recNdim w → 0 ≤ tensorAt w idx n d ∧ tensorAt w idx n d ≤ recSzm w d

/-- R206: wa. -/
def windowByte (w : BitVec 768) (idx : Option Int) (n : Nat) : Int :=
  recAddr w + ((List.range (recNdim w + 1)).map fun d => tensorAt w idx n d * recStride w d).sum

/-- R206, R212: pa; the packed side of a stash is corner-turned. -/
def packedByte (t : Transfer) (n : Nat) : Nat :=
  let w := t.wrec
  let e0 := recExt w 0
  let pa (n : Nat) : Nat :=
    if recIlv w = 0 then n * recElem w
    else n / e0 % 2 ^ recIlv w * 65536 + n / e0 / 2 ^ recIlv w * (e0 * recElem w) + n % e0 * recElem w
  match t.kind with
  | .stash _ => pa (vecOf w n 1 + recExt w 1 * (vecOf w n 0 + e0 * (n / (e0 * recExt w 1))))
  | _ => pa n

/-- R212: a place on the window side, and one on the packed side: in a ring's slot, or at the address word. -/
def windowSide (k : Nat) (t : Transfer) (a : Int) : Place :=
  match recSpace t.wrec with
  | .buf b => .buf k b a
  | .gv => .gv a
def packedSide (k : Nat) (t : Transfer) (n : Nat) : Place :=
  match t.ring with
  | some (kr, _) => .buf kr t.slotBuf (t.slotAt + wordAddr t.xa + packedByte t n)
  | none => (wordPlace k t.xa).plus (packedByte t n)

/-- R336: a transfer's access to a place, in its card's address space. -/
def reads (s : State) (k : Nat) (t : Transfer) (p : Place) (n : Nat) : Acc (List Byte) :=
  s.readPlace (.core k) (dieOf k) (s.card t.card).asid p n

/-- R212: the entry of the index list for element `n`; none for a command without a list. -/
def ListEntry (s : State) (k : Nat) (t : Transfer) (n : Nat) (idx : Option Int) : Prop :=
  if t.kind = .gather ∨ t.kind = .scatter false ∨ t.kind = .scatter true then
    ∃ b, reads s k t ((wordPlace k t.xb).plus (4 * vecOf t.wrec n 1 : Nat)) 4 = .ok b ∧ idx = some (leWord b).toInt
  else idx = none

/-- R206: element `n` writes the bytes `l` at the place `p`. -/
def Writes (s : State) (k : Nat) (t : Transfer) (n : Nat) (p : Place) (l : List Byte) : Prop :=
  ∃ idx, ListEntry s k t n idx ∧
    if t.kind.toWindow = true then
      InTensor t.wrec idx n ∧ p = windowSide k t (windowByte t.wrec idx n) ∧
        reads s k t (packedSide k t n) (recElem t.wrec) = .ok l
    else
      p = packedSide k t n ∧
        (InTensor t.wrec idx n ∧ reads s k t (windowSide k t (windowByte t.wrec idx n)) (recElem t.wrec) = .ok l ∨
          ¬ InTensor t.wrec idx n ∧ recClip t.wrec = false ∧ l = recFillBytes t.wrec)

/-- Two places whose `n` and `m` bytes are not in one buffer, or do not meet there. -/
def Apart (p : Place) (n : Nat) (q : Place) (m : Nat) : Prop :=
  match p, q with
  | .buf k b a, .buf k' b' a' => k = k' → b = b' → a.toNat + n ≤ a'.toNat ∨ a'.toNat + m ≤ a.toNat
  | _, _ => True

/-- R206: element `n` can be moved: its index, its source and its destination can be read and written, and no buffer byte that
the transfer writes is read for it. -/
structure Movable (s : State) (k : Nat) (t : Transfer) (n : Nat) : Prop where
  entry : ∃ idx, ListEntry s k t n idx
  source : ∀ idx, ListEntry s k t n idx → InTensor t.wrec idx n →
    ∃ l, reads s k t (if t.kind.toWindow = true then packedSide k t n else windowSide k t (windowByte t.wrec idx n))
      (recElem t.wrec) = .ok l ∧ l.length = recElem t.wrec
  dest : ∀ p l, Writes s k t n p l → match p with
    | .buf _ _ a => 0 ≤ a
    | .gv a => 0 ≤ a ∧ a + l.length ≤ 2 ^ 52 ∧
        ∃ x, (s.engSpan (.core k) (dieOf k) (s.card t.card).asid .write (BitVec.ofInt 64 a) l.length).acc = .ok x ∧ x.Nodup
  apart : ∀ m p l, m < recCount t.wrec → Writes s k t m p l →
    (∀ idx, ListEntry s k t n idx → InTensor t.wrec idx n →
      Apart p l.length (if t.kind.toWindow = true then packedSide k t n else windowSide k t (windowByte t.wrec idx n))
        (recElem t.wrec)) ∧
    (t.kind.usesList = true → Apart p l.length ((wordPlace k t.xb).plus (4 * vecOf t.wrec n 1 : Nat)) 4)

/-- R206, R212, R214: the order in which elements are written: packed order; a scatter's rows in ascending e(1). -/
def Before (t : Transfer) (m n : Nat) : Prop :=
  match t.kind with
  | .scatter _ => vecOf t.wrec m 1 < vecOf t.wrec n 1 ∨ vecOf t.wrec m 1 = vecOf t.wrec n 1 ∧ m < n
  | _ => m < n

/-- Element `n` writes byte `v` at byte `a` of a buffer, or at a physical address. -/
def WritesBuf (s : State) (k : Nat) (t : Transfer) (n : Nat) (kb : Nat) (b : Buf) (a : Nat) (v : Byte) : Prop :=
  ∃ (p : Int) (l : List Byte) (i : Nat), Writes s k t n (.buf kb b p) l ∧ (a : Int) = p + i ∧ l[i]? = some v
def WritesMem (s : State) (k : Nat) (t : Transfer) (n : Nat) (a : Nat) (v : Byte) : Prop :=
  ∃ (p : Int) (l : List Byte) (x : List Nat), Writes s k t n (.gv p) l ∧
    (s.engSpan (.core k) (dieOf k) (s.card t.card).asid .write (BitVec.ofInt 64 p) l.length).acc = .ok x ∧ (a, v) ∈ x.zip l

/-- R209, R210: a started transfer that has still to move its first element, whose ring lets it complete; its notification is
off, and its sides share no byte. -/
structure ReadyToMove (s : State) (k : Nat) (t : Transfer) : Prop where
  started : t.started = true
  fresh : t.moved = 0 ∧ t.got = [] ∧ t.pending = [] ∧ t.take = .slot
  kind : t.kind.usesRec = true
  dims : recNdim t.wrec ≤ 5 ∧ (t.kind.usesList = true → 1 ≤ recNdim t.wrec)
  plain : t.notify = 0 ∧ s.overlap k t = []
  ring : ∀ kr h, t.ring = some (kr, h) → t.kind.usesRing = true ∧ s.ringFirst k t = true ∧
    ((s.core kr).ring (BitVec.ofNat 4 h)).stampT ≤ t.order

/-- R214: the sum that a combining scatter writes: of the elements of one destination, in ascending list position. -/
def combined (f : Fmt) (x : List Byte) (l : List (List Byte)) : List Byte :=
  let wide (b : List Byte) : Word := widen f (leWord b)
  let sum : Word := l.foldl (fun a b => (add32 a (wide b)).1) (wide x)
  match f with
  | .int32 => leBytes 4 (l.foldl (fun a b => a + leWord b) (leWord x)).toNat
  | .bf16 => leBytes 2 (rnebf16 (f32 sum)).1
  | .fp16 => leBytes 2 (rne16 (f32 sum)).1
  | _ => leBytes 4 sum.toNat

/-- R214: list position `j` is the first with its index, `l` the positions with that index, ascending. -/
def FirstOfRow (idx : Nat → Int) (e1 j : Nat) (l : List Nat) : Prop :=
  (∀ i, i < j → idx i ≠ idx j) ∧ l = (List.range e1).filter fun i => decide (idx i = idx j)

/-- R214: the element of list position `j` with the place `r` of its row: dimension 0 fastest, then those from 2 up. -/
def rowElement (w : BitVec 768) (j r : Nat) : Nat := r % recExt w 0 + recExt w 0 * (j + recExt w 1 * (r / recExt w 0))

/-- R212: a copy moves its only element: the place that it reads, and the place that it writes. -/
def oneElement (w : BitVec 768) : Prop := recCount w = 1

/-! ### Halting, claims, eviction, saving, teardown -/

/-- R305, R306: a context as a halt leaves it: its registers as they were, its results in flight in the snapshot. -/
def HaltedFrom (x y : Ctx) : Prop :=
  y.st = .halted ∧ y.haltedFrom = x.st ∧ y.haltReq = false ∧ y.flights = [] ∧ y.snapshot = x.snapshot ++ x.flights ∧
    y.x = x.x ∧ y.p = x.p ∧ y.loops = x.loops ∧ y.w = x.w ∧ y.mp = x.mp ∧ y.fpcr = x.fpcr ∧ y.fflags = x.fflags ∧
    y.fevr = x.fevr ∧ y.records = x.records ∧ y.pend = x.pend ∧ y.card = x.card ∧ y.prio = x.prio

/-- R309, R310: a claim of a core restored: the registers of the halted context, the flags and rings that were set aside, and
the Mint, whose held commands come first. -/
def Unclaimed (q q' : Core) (x : Claim) : Prop :=
  (x.mint = none → q'.mint = q.mint) ∧
    (∀ h, x.mint = some h → q'.mint.mode = h.mode ∧ q'.mint.pending = h.pending ∧
      q'.mint.queue = h.cmds ++ q.mint.queue ∧ q'.mint.acc = h.acc.getD q.mint.acc) ∧
    q'.v = x.v ∧ q'.q = x.q ∧
    (∀ f n, x.flags.lookup f = some n → (x.flags.map Prod.fst).Nodup → Tab.get 0 q'.flags f = n) ∧
    (∀ f, f ∉ x.flags.map Prod.fst → Tab.get 0 q'.flags f = Tab.get 0 q.flags f)

/-- R364: no context of an urgent card that outranks card `n` is left on a core, halted itself or not, and no Mint command. -/
def NoneOutranks (s : State) (k n : Nat) : Prop :=
  (∀ x ∈ (s.core k).ctxs, ∀ m, x.2.card = some m → (s.card n).rank < (s.card m).rank → x.2.st = .idle) ∧
    ∀ x ∈ (s.core k).mint.queue, ¬ (s.card n).rank < (s.card x.card).rank

/-- R309: the subject of a claim on core `k` belongs to card `n`. -/
def ClaimOf (s : State) (k n : Nat) (x : Claim) : Bool := decide ((s.ctx k x.c).card = some n)

/-- R316: the contexts of a card that are still to be restored. -/
def ToRestore (s : State) (n : Nat) (y : Nat × Nat) : Prop :=
  y ∈ (s.card n).placed ∧ s.holdsCtx n y.1 y.2 = true ∧ (s.ctx y.1 y.2).restoring = true

/-- R311: nothing of the boundary's order comes before the test for eviction at a checkpoint. -/
structure AtCheckpoint (s : State) (k c : Nat) : Prop where
  runs : s.issuer k = some c
  user : (s.ctx k c).inHandler = false
  halt : (s.ctx k c).haltReq = false
  first : (s.ctx k c).start = 0
  phase : (s.ctx k c).phase = .normal
  fills : (s.ctx k c).ckFill = true
  asked : (s.ctx k c).evictReq = true
  fp : (s.ctx k c).fpPend = none
  pend : (s.ctx k c).pend = false
  free : (s.core k).stalled = false
  landed : ∀ x ∈ (s.core k).ctxs, ∀ f ∈ x.2.flights, 1 < f.r
  quiet : ∀ x ∈ (s.core k).ctxs, x.1 = c → x.2.mintEvs = []

/-- The dword at an offset. -/
def dwordAt (l : List Byte) (o : Nat) : Dword := leDword ((l.drop o).take 8)

/-- R365: a card that firmware may tear down: it has failed, or a context of it explains a failure. -/
def TearsDown (s : State) (n : Nat) : Prop :=
  ((s.card n).status ≠ 0 ∨ s.failStatus n ≠ 0) ∧ (s.card n).torn = false ∧ ((s.card n).st = .running ∨ (s.card n).st = .evicted)

/-! ### The Exchange -/

/-- A stage among those that an Exchange holds; `t` is the transfer of the `xsub` that handed it over. -/
structure HeldStage (s : State) (d : Nat) (before : List Stage) (st : Stage) (after : List Stage) (t : Transfer) : Prop where
  here : (s.die d).stages = before ++ st :: after
  only : ∀ x ∈ before ++ after, x.uid ≠ st.uid
  from_ : ∃ k c, st.by_ = .ctx k c ∧ t.by_ = .ctx k c
  flight : (s.core st.k).findTransfer st.ch st.id = some t

/-- R216, R266: the stage is complete: it is gone, its transfer counts as complete, and its notification is made. -/
def StageDone (s u : State) (d : Nat) (l : List Stage) (st : Stage) (t : Transfer) : Prop :=
  (u.die d).stages = l ∧ (u.core st.k).findTransfer st.ch st.id = none ∧
    FlagsNotified (s.core st.k) (u.core st.k) t.notify (s.tookNow st.k) ∧ u.recQueue = s.recQueue

/-- R250, R262: the stage ends without its effect: it is gone, its transfer counts as complete, no flag moves, and a record
goes to its context; memory is unchanged. -/
def StageEnds (s u : State) (d : Nat) (l : List Stage) (st : Stage) (t : Transfer) (cause : Cause) (pay : List Dword) : Prop :=
  (u.die d).stages = l ∧ (u.core st.k).findTransfer st.ch st.id = none ∧ (u.core st.k).flags = (s.core st.k).flags ∧
    u.mem = s.mem ∧ ∃ k c, t.by_ = .ctx k c ∧ u.recQueue = s.recQueue ++ [(t.card, k, c, errorRecord t cause pay)]

/-- A word of four bytes at an offset. -/
def wordAt (l : List Byte) (o : Nat) : Word := leWord ((l.drop o).take 4)

/-- R259: ranks of a group. -/
def ranksOf (e : Dword) : Nat := (e.extractLsb' 8 12).toNat + 1

/-- R265: the submission of a rank differs from another's. -/
def SameUpdate (a b : CountMsg) : Prop :=
  a.table = b.table ∧ a.b = b.b ∧ a.prog = b.prog ∧ a.seq = b.seq ∧ a.consts = b.consts

/-- The members of a bag that rank `o` owns (R260). -/
def membersOf (b d o : Nat) (g : Bag) : List ItemPos := g.mem.filter fun m => decide (m.row / b % d = o)

/-- R367: no packet of the same SRC, DST and VC is on its way before it. -/
def FirstOfRoute (s : State) (n : Nat) (m : Msg) : Prop :=
  msgRoute m = none ∨ ∀ y ∈ s.inbox.take n, msgRoute y ≠ msgRoute m

/-! ### The Clearing engine -/

/-- R270: the instructions that send the next chunk of a data entry, with what they apply; `bxsum` by its source. -/
def chunkForm (i : Instr) (d n : Nat) (e : Entry) : Option EntryOp :=
  match i with
  | .entryWriteCopy d' n' => if d' = d ∧ n' = n then some .copy else none
  | .entryWriteNarrow d' n' => if d' = d ∧ n' = n then some .narrow else none
  | .entryReduceSum d' n' => if d' = d ∧ n' = n then some .sum else none
  | .entryReduceMax d' n' => if d' = d ∧ n' = n then some .max else none
  | .entryReduceMin d' n' => if d' = d ∧ n' = n then some .min else none
  | .entryTripleMerge d' n' => if d' = d ∧ n' = n then some .triple else none
  | .entryBxexp d' n' => if d' = d ∧ n' = n then some .bxexp else none
  | .entryBxsum d' n' => if d' = d ∧ n' = n ∧ e.fm = 0 then some .bxsum else none
  | .entryBxsumAcc d' n' => if d' = d ∧ n' = n ∧ e.fm = 1 then some .bxsum else none
  | .entryBxfin d' n' => if d' = d ∧ n' = n then some .bxfin else none
  | _ => none

/-- R275: chunk `c` of an entry as it travels, with these values. -/
def chunkOf (s : State) (e : Entry) (op : EntryOp) (c : Nat) (l : List (Int × Flags)) : Chunk :=
  { id := { group := e.group, srcRank := groupRank (s.group e.group), die := e.d, qp := e.qp, eseq := e.eseq }
    c, last := decide (c + 1 = (e.len + 1023) / 1024), op, ddie := e.ddie
    dst := ((e.dword 2).extractLsb' 0 52).setWidth 64, data := l.map Prod.fst }

/-- A message goes to a rank of a group: into this module's own flight, or out. -/
def Sent (s u : State) (g r : Nat) (m : Msg) : Prop :=
  if r = groupRank (s.group g) then u.inbox = s.inbox ++ [m] ∧ u.outbox = s.outbox
  else u.outbox = s.outbox ++ [(g, r, m)] ∧ u.inbox = s.inbox

/-- R267: a counter after an add. -/
def added (a n : Word) : Word := if a.toNat + n.toNat < 4294967296 then a + n else 0xFFFFFFFF

/-- R274: the status dword that an entry leaves. -/
def statusWord (done nref : Bool) (cause : Nat) (flags : BitVec 5) : Nat :=
  (if done then 2 ^ 63 else 2 ^ 62) + (if nref then 2 ^ 61 else 0) + cause * 2 ^ 48 + (flags &&& 0x15).toNat

/-- R274: `u` is `v` with the status dword of an entry written where its address translates. -/
def StatusWritten (v u : State) (e : Entry) (w : Nat) : Prop :=
  match v.devWrite e.d 0 (e.va + 56) (leBytes 8 w) with
  | .ok x => u.mem = x.mem
  | _ => u.mem = v.mem

/-! ### The page service -/

/-- R348: the leaf entry of a shared page after its copy: writable, neither copy-on-write nor shared, in frame `f`. -/
def OwnEntry (e e' : Dword) (f : Nat) : Prop :=
  entW e' = true ∧ entCow e' = false ∧ entShr e' = false ∧ entFrame e' = f ∧ entTier e' = entTier e ∧ entV e' = entV e ∧
    entLeaf e' = entLeaf e ∧ entR e' = entR e ∧ entX e' = entX e ∧ entU e' = entU e ∧ entMov e' = entMov e

/-- R347: the entry that a share leaves on both sides of a page whose entry was `e`. -/
def SharedEntry (e e' : Dword) : Prop :=
  entW e' = false ∧ entShr e' = true ∧ entCow e' = (entW e || entCow e) ∧ entRun e' = false ∧ entFrame e' = entFrame e ∧
    entTier e' = entTier e ∧ entV e' = entV e ∧ entLeaf e' = entLeaf e ∧ entR e' = entR e ∧ entX e' = entX e ∧ entU e' = entU e

/-- A request of the page-service queue of a die that is in hand, the page that it does next, and no rule of R346 broken. -/
structure InHand (s : State) (d op : Nat) (a : Dword) (l : List Dword) (n : Nat) : Prop where
  cur : (s.die d).pq.cur = some (a, l, n)
  open_ : (s.die d).pq.ending = none
  good : s.rqBad l = false
  op : rqOp l = op

/-- R346, R379: the request ends with a WHY code, 0 for DONE, after `n` pages: its status word is written where its address
translates, and nothing is in hand; where the write must wait, the request stays in hand with its end. -/
def RequestEnds (v u : State) (d : Nat) (a : Dword) (why n : Nat) : Prop :=
  match v.devWrite d 0 (a + 24) (leBytes 8 ((if why = 0 then 2 ^ 63 else 2 ^ 62 + why * 2 ^ 48) + n % 2 ^ 24)) with
  | .ok x => u.mem = x.mem ∧ (u.die d).pq.cur = none ∧ (u.die d).pq.ending = none
  | .wait _ => u.mem = v.mem ∧ (u.die d).pq.cur = (v.die d).pq.cur ∧ (u.die d).pq.ending = some (why, n)
  | _ => u.mem = v.mem ∧ (u.die d).pq.cur = none ∧ (u.die d).pq.ending = none

/-- R347: `n` pages of the request are done: it goes on with the next one, or ends DONE. -/
def PagesDone (v u : State) (d : Nat) (a : Dword) (l : List Dword) (n : Nat) : Prop :=
  (n ≠ rqPages l → u = v.modDie d fun x => { x with pq := { x.pq with cur := some (a, l, n) } }) ∧
  (n = rqPages l → RequestEnds v u d a 0 n)

/-- The request of a page whose operation the rules refuse ends there with a WHY code. -/
def RequestRefused (s : State) (i : Instr) (d : Nat) (a : Dword) (n why : Nat) : Prop :=
  ∃ u, exec i s = .next u ∧ RequestEnds s u d a why n

/-- R348 step 4: a request has left the list of those that wait. -/
def Unasked (s : State) (r : PageReq) : State := { s with pageReqs := s.pageReqs.filter fun y => !decide (y = r) }

/-- The virtual address of page `n` of a request, at its source and at its destination. -/
def srcVa (l : List Dword) (n : Nat) : Dword := dw l 1 + BitVec.ofNat 64 (65536 * n)
def dstVa (l : List Dword) (n : Nat) : Dword := dw l 2 + BitVec.ofNat 64 (65536 * n)

/-! ### The Dispatchers -/

/-- R353: how far a stream stands behind the one from which a card was last accepted, in ascending order round. -/
def streamTurn (s : State) (d n : Nat) : Nat := (n + 63 - (s.die d).disp.lastStream) % 64

/-- R288: two byte ranges, as base and length, share a byte. -/
def Share (p q : Nat × Nat) : Prop := ∃ a, p.1 ≤ a ∧ a < p.1 + p.2 ∧ q.1 ≤ a ∧ a < q.1 + q.2

/-- R288: a write of `p` meets a read or a write of `q`, or a read of `p` a write of `q`. -/
def MustPrecede (p q : Card) : Prop :=
  (∃ a ∈ p.writes, ∃ b ∈ q.reads ++ q.writes, Share a b) ∨ (∃ a ∈ p.reads, ∃ b ∈ q.writes, Share a b)

/-- R361: the cards of a die with their ages counted up to now. -/
def agedAll (s : State) : State := s.cards.foldl (fun s x => s.age x.1) s

/-- R15, R362: a context that a card has just been launched on: READY at the kernel's first bundle, in its windows, its
registers at their reset values. -/
def Launched (x : Card) (n now : Nat) (y : Ctx) : Prop :=
  y.st = .ready ∧ y.readyAt = now ∧ y.pc = x.kernel + 64 ∧ y.card = some n ∧ y.prio.toNat = min 7 (x.prio + x.boost) ∧
    (∀ r, y.readX r = 0) ∧ (∀ p : PReg, p ≠ 0 → y.readP p = false) ∧ y.flights = [] ∧ y.fflags = 0 ∧ y.fpcr = 0 ∧ y.records = [] ∧
    ∀ b, (y.window b).base = ((x.dword 4).extractLsb' (10 * b.num) 10).toNat * 4096 ∧
      (y.window b).limit = (y.window b).base + hdrBufsz x.hdr b

/-- R365: nothing of the card's end but its completion record: no write range to clean, no counter add, no report area. -/
def PlainEnd (x : Card) : Prop := x.writes = [] ∧ (x.dword 7).extractLsb' 16 16 = 0 ∧ x.dword 6 = 0

/-- R365 steps 1 and 2 are done for the card. -/
def Counted (s : State) (n : Nat) : State :=
  s.setCard n { s.card n with cleaned := true, doneAt := s.timebase.toNat }

/-- R365, R366, R379: the card is complete: its record, with REPF, is written where its queue translates, CPI has advanced, its
vector is raised, and no context of its names it any longer. A record that must wait for its stack leaves all of that to a
later attempt. -/
def CardEnds (v u : State) (n : Nat) (repf : Bool) : Prop :=
  let y := v.stream (v.card n).die (v.card n).stream
  let ended (mem : Mem) : Prop :=
    (u.card n).st = .done ∧ (u.card n).doneAt = (v.card n).doneAt ∧ (u.card n).status = (v.card n).status ∧
      u.irqs = v.irqs ++ [y.vec] ∧ u.stream (v.card n).die (v.card n).stream = { y with cpi := y.cpi + 1 } ∧
      (∀ z ∈ (v.card n).placed, (u.ctx z.1 z.2).card ≠ some n) ∧ u.mem = mem
  match v.devWrite (v.card n).die 0 (y.cqbase + BitVec.ofNat 64 (64 * (y.cpi.toNat % 2 ^ y.cqlog.toNat)))
      ((v.completion n y.cpi repf).flatMap fun w => leBytes 8 w.toNat) with
  | .ok x => ended x.mem
  | .wait _ => u.card n = v.card n ∧ u.stream (v.card n).die (v.card n).stream = y ∧ u.mem = v.mem
  | _ => ended v.mem

/-- R366: the bytes of a card's report area, by the sectors in which they lie. -/
def reportPieces (s : State) (n : Nat) : List (Nat × List Byte) :=
  cutSectors (s.card n).repaddr.toNat
    ((s.card n).placed.flatMap fun z => (reportBlock (s.leftOf n z.1 z.2)).flatMap fun w => leBytes 8 w.toNat)

/-! ### Links, reset, power, temperature, wear, the host's writes -/

/-- R378: the commands that ask a domain for a state: the low two bits of the command word. -/
def powerForm (i : Instr) : Option (BitVec 64) :=
  match i with
  | .powerActive cmd => some (cmd ++ (0 : BitVec 2))
  | .powerGated cmd => some (cmd ++ (1 : BitVec 2))
  | .powerRetention cmd => some (cmd ++ (2 : BitVec 2))
  | .powerOff cmd => some (cmd ++ (3 : BitVec 2))
  | _ => none

/-- R373, R378: the command word that names domain `i` and state `p`. -/
def commandFor (i : Nat) (p : BitVec 2) : BitVec 64 :=
  if i < 24 then BitVec.ofNat 64 (i * 65536 + p.toNat)
  else if i < 32 then BitVec.ofNat 64 (2 ^ 24 + (i - 24) * 65536 + p.toNat)
  else if i < 40 then BitVec.ofNat 64 (2 * 2 ^ 24 + (i - 32) * 65536 + p.toNat)
  else BitVec.ofNat 64 (3 * 2 ^ 24 + (i - 40) * 65536 + p.toNat)

/-- R375: a FEATACC value that is accepted with this published word. -/
def FeatGood (pub v : Dword) : Prop :=
  v.getLsbD 0 = true ∧ (∀ b, 10 ≤ b → b < 64 → v.getLsbD b = false) ∧ ∀ b, 1 ≤ b → b < 10 → v.getLsbD b = true → pub.getLsbD b = true

/-- Nothing but event queues, interrupts, host memory and free values differs. -/
def OnlyEvents (s u : State) : Prop :=
  u = { s with hostMem := u.hostMem, irqs := u.irqs, freeCtr := u.freeCtr, dies := u.dies } ∧
    ∀ d, (u.die d) = { s.die d with evq := (u.die d).evq }

/-- R374: an event of die `d` with its code is raised, from some source: in a configured queue with room it is written at EPI,
which moves on, and its vector is raised; otherwise it is counted as dropped. -/
def EventRaised (s u : State) (d code : Nat) : Prop :=
  let e := (s.die d).evq
  let taken : Prop := e.eqbase.extractLsb' 0 52 ≠ 0 ∧ 4 ≤ e.eqlog.toNat ∧ e.eqlog.toNat ≤ 16 ∧ (e.epi - e.eci).toNat ≠ 2 ^ e.eqlog.toNat
  OnlyEvents s u ∧ (∀ x, x ≠ d → u.die x = s.die x) ∧
    (taken → (u.die d).evq = { e with epi := e.epi + 1 } ∧ u.irqs = s.irqs ++ [e.vec] ∧
      ∃ (src : Nat) (arg det : Dword), u.hostMem =
        s.hostMem.writeList ((e.eqbase.extractLsb' 0 52).toNat + 32 * (e.epi.toNat % 2 ^ e.eqlog.toNat))
          (leBytes 8 (code + 65536 * src) ++ leBytes 8 s.timebase.toNat ++ leBytes 8 arg.toNat ++ leBytes 8 det.toNat)) ∧
    (¬ taken → (u.die d).evq = { e with dropped := e.dropped + 1 } ∧ u.irqs = s.irqs ∧ u.hostMem = s.hostMem)

/-- R382: a ratio of at most one, in 65,535 parts, rounded down; nothing over nothing. -/
def Parts (w : Nat) (r : Nat × Nat) : Prop :=
  (r.2 = 0 → w = 0) ∧ (0 < r.2 → r.2 ≤ r.1 → w = 65535) ∧ (r.1 < r.2 → w * r.2 ≤ 65535 * r.1 ∧ 65535 * r.1 < (w + 1) * r.2)

end Sys2Proof.Claims

open Sys2Proof Sys2Proof.Machine Sys2Proof.Claims

/-! ### The step, the encodings and the machine as a whole -/

/-- R37, R79, R82: a core's step executes the one instruction its next bundle decodes to, or issues the bundle slot by slot
(`yield`, `bundleIssue`); a core that runs no context selects one. -/
def Sys2Proof.Claims.CoreStepsRunTheDecodedInstruction : Prop :=
  ∀ (s : State) (k : Nat), Left s → s.focus = .core k →
    ((s.tick 1).issuer k = none → step s = exec (.contextSelect k) (s.tick 1)) ∧
    ∀ c, (s.tick 1).issuer k = some c →
      (∀ w i, (s.tick 1).fetch k c (s.ctx k c).pc = .ok w → OnlyInstr w ((s.tick 1).ctx k c) i →
        step s = exec i (s.tick 1)) ∧
      (∀ w, (s.tick 1).fetch k c (s.ctx k c).pc = .ok w → ManySlots w ((s.tick 1).ctx k c) →
        step s = exec (if (fld (bundleHead w) 0 2).toNat = 1 then .yield k else .bundleIssue k) (s.tick 1)) ∧
      ((∀ w, (s.tick 1).fetch k c (s.ctx k c).pc ≠ .ok w) → step s = exec (.bundleIssue k) (s.tick 1))

/-- What a row unit awaits is complete in the next cycle, or its item is one of a shipped program, which has no micro-words here
(the model's choice, log entry 26). -/
def Awaits (s : State) (u : UnitId) : Prop :=
  (s.unit u).shipped = true ∨
    (((s.unit u).rowDue ≠ none ∨ (s.unit u).stateDue ≠ none) ∧ (∀ t, (s.unit u).rowDue = some t → t ≤ (s.tick 1).now) ∧
      ∀ t, (s.unit u).stateDue = some t → t ≤ (s.tick 1).now)

/-- R223, R227, R244: a hand's step executes the instruction at its program counter, or takes the fault of its fetch or its
decoding; a row unit's executes the micro-word at its micro-PC, unless sectors that it awaits have come (R325). -/
def Sys2Proof.Claims.HandAndRowStepsRunTheDecodedInstruction : Prop :=
  (∀ (s : State) (k : Nat) (r : Role), Left s → s.focus = .hand k r → (s.hand k r).running = true →
    (∀ w i, (s.hand k r).fetch = .ok w → decodeH w = .ok i → step s = exec i (s.tick 1)) ∧
    (∀ w e, (s.hand k r).fetch = .ok w → decodeH w = .error e →
      step s = .next ((s.tick 1).handFault k r ((s.hand k r).decodeFault w e) 0)) ∧
    ∀ a, (s.hand k r).fetch = .error a → step s = .next ((s.tick 1).handFault k r .fetchOutsideCode a)) ∧
  ∀ (s : State) (u : UnitId) (op : RowOp) (i : Instr), Left s → s.focus = .unit u → (s.unit u).item.isSome = true →
    (Awaits s u → step s = exec (.rowSectorReadDone u) (s.tick 1)) ∧
    (¬ Awaits s u → (s.unit u).words < 65536 → decodeRow (s.unit u).word = .ok op → IsRow op i →
      step s = exec i (s.tick 1))

/-- R29, R32, R233, R384 and the model's schedule (log entry 10): what the outside world and the engines do next is data of the
state, and a scheduled event happens once its cycles have passed, and a cycle later where an operation that comes after it
within a cycle has been made in this one; from reset the module first comes out of reset. -/
def Sys2Proof.Claims.ScheduledEventsHappen : Prop :=
  (∀ (s : State) (t : Turn) (l : List Turn), s.schedule = t :: l → t.ev.ok = true → s.tripped = false →
    ∃ u n, step s = exec t.ev u ∧ u = { State.tick { s with schedule := l } n with cycleTop := u.cycleTop } ∧
      (∀ p ∈ s.places t.ev, (∃ q ∈ s.places t.ev, q.1 = p.1 ∧ Tab.get 0 u.cycleTop p.1 = q.2)) ∧
      (t.dt ≠ 0 → n = t.dt) ∧
      (t.dt = 0 → (∀ p ∈ s.places t.ev, Tab.get 0 s.cycleTop p.1 ≤ p.2) → n = 0) ∧
      (t.dt = 0 → (∃ p ∈ s.places t.ev, p.2 < Tab.get 0 s.cycleTop p.1) → n = 1)) ∧
  ∀ s : State, s.schedule = [] → s.focus.ok = true → s.tripped = false → s.siltin = .reset →
    step s = exec .moduleReset s

/-- R29, R32, R37, R79, R82, R223, R227, R233, R244, R325, R384: what a step does: the instruction that the bytes at the
program counter decode to, or the scheduled event. Parts of it rest on choices and readings of the model itself, no
rules of the spec: log entries 5, 9 and 10. -/
def Obligations.AStepRunsTheDecodedInstruction : Prop :=
  CoreStepsRunTheDecodedInstruction ∧ HandAndRowStepsRunTheDecodedInstruction ∧ ScheduledEventsHappen

/-- R381: once tripped, every step leaves the module tripped but one: a module reset. Parts of it rest on choices and
readings of the model itself, no rules of the spec: log entry 38. -/
def Obligations.OnlyModuleResetLeavesTheTrip : Prop :=
  ∀ s s' : State, s.tripped = true → step s = .next s' →
    s'.tripped = true ∨ ∃ dt l, s.schedule = ⟨dt, .moduleReset⟩ :: l

/-- R88, R89, R92, R96, R97, R139, R229, R239: the words that the spec's examples write out decode to the instructions that
they stand for. -/
def Obligations.ExampleWordsDecode : Prop := ScalarWords ∧ VectorWords ∧ EngineWords ∧ HandAndRowWords

/-- R87 to R97, R139, R144 to R148: an instruction of the `s` or `y` slot, of Mint or of Dray, has words, and they decode to
it, with every operand at every value. -/
def Obligations.BundleWordsRoundTrip : Prop :=
  ∀ i : Instr, i.ok = true → isEvent i = false →
    (∀ w, encode i = some (.s w) → decodeS w = .ok i) ∧ (∀ w, encode i = some (.y w) → decodeY w = .ok i) ∧
    (∀ w, encode i = some (.m w) → decodeM w = .ok i) ∧ ∀ c w, encode i = some (.c c w) → decodeC c w = .ok i

/-- R90, R91, R144 to R148: a vector syllable and its control word decode to the instruction that they encode. -/
def Obligations.VectorWordsRoundTrip : Prop :=
  ∀ (i : Instr) (v1 : Bool) (w : BitVec 32) (cw : BitVec 256), i.ok = true → encode i = some (.v v1 w cw) →
    decodeV v1 w cw = .ok i

/-- R223, R227 to R229, R239, R240: the words of hand instructions and of row programs decode to what they encode; and
every row of the opcode table that is no event has words. Parts of it rest on choices and readings of the model
itself, no rules of the spec: log entries 4 and 32. -/
def Obligations.HandAndRowWordsRoundTrip : Prop :=
  (∀ (i : Instr) (w : BitVec 32), i.ok = true → encode i = some (.h w) → decodeH w = .ok i) ∧
  (∀ (i : Instr) (w : BitVec 64), i.ok = true → encode i = some (.r w) → ∃ op, decodeRow w = .ok op ∧ IsRow op i) ∧
  ∀ i : Instr, encode i = none ↔ isEvent i = true

/-- The model's own invariant (log entry 1): every step keeps both memories canonical. -/
def Obligations.StepsKeepMemoryCanonical : Prop := ∀ s s' : State, Canon s → step s = .next s' → Canon s'

/-- R5, R15, R17, R375, R384, R381: what reset leaves: TIMEBASE 0; on every core the vector registers +0, the statistics
registers EMPTY, the latches 0, the Mint in WS with nothing queued, every ring invalid, the flags, FOVF, the channels'
counters and low-water registers 0, nothing in flight; every context IDLE with its registers 0. The first step from it
begins training, in which a write of FEATACC is ignored; the next cycle ends it, and FEATPUB is published. Parts of it
rest on choices and readings of the model itself, no rules of the spec: log entries 2, 5 and 38. -/
def Obligations.ResetComesUpPublished : Prop :=
  Canon .reset ∧ State.reset.siltin = .reset ∧ State.reset.tripped = false ∧ State.reset.timebase = 0 ∧
    step .reset = .next { State.reset with siltin := .training } ∧
    (∀ (s : State) n, s.siltin = .training → s.tripped = false → n ≠ 0 →
      (s.tick n).siltin = .published ∧ (s.tick n).featPub = 0x3FF ∧ (s.tick n).timebase = s.timebase + BitVec.ofNat 64 n) ∧
    (∀ (s : State) v, s.siltin = .training → exec (.featAccWrite v) s = .next s) ∧
    (∀ k, ∀ q, q = State.reset.core k →
      (∀ r l, l < 128 → (q.vreg r)[l]? = some 0) ∧ (∀ r l, l < 128 → (q.qreg r)[l]? = some Triple.empty) ∧
      (∀ l a b, (q.mint.latch l).elem a b = 0) ∧ q.mint.mode = .ws ∧ q.mint.queue = [] ∧
      (∀ h, (q.ring h).valid = false) ∧ (∀ f, q.flag f = 0) ∧ q.fovf = 0 ∧ (∀ ch, q.chan ch = { next := 0, low := 0 }) ∧
      q.transfers = [] ∧ q.stores = [] ∧ q.loadHand.running = false ∧ q.storeHand.running = false) ∧
    ∀ k c, ∀ x, x = State.reset.ctx k c →
      x = {} ∧ x.st = .idle ∧ (∀ r, x.readX r = 0) ∧ (∀ p : PReg, x.readP p = decide (p = 0)) ∧ (∀ w, x.wrec w = 0) ∧
        (∀ m, x.mpReg m = 0) ∧ ∀ lv, x.loop lv = { count := 0, bound := 0, start := 0, act := false }

/-! ### The scalar slot -/

/-- R113 to R117, R131, R142, with the latencies of R112: a scalar instruction with a register result, whose guard holds,
leaves that result in flight, and the context goes on at the next bundle; a result for `x0` is left too, and R112 discards
it when it lands (`LandingWritesTheRegister`). -/
def Sys2Proof.Claims.ScalarInstructionLeavesItsResult : Prop :=
  ∀ (s t : State) (k c : Nat) (i : Instr) (g : Guard) (rd : Reg) (lat : Nat) (v : Dword),
    Issuing s k c t → scalarResult t (t.ctx k c) i = some (g, rd, lat, v) → (t.ctx k c).guard g = true →
      exec i s = .next (t.fallThrough k c [t.result k c 0 lat (.x rd) (.dword v)])

/-- R118, R119: likewise for an instruction with a predicate result. -/
def Sys2Proof.Claims.CompareLeavesItsPredicate : Prop :=
  ∀ (s t : State) (k c : Nat) (i : Instr) (g : Guard) (pd : PReg) (v : Bool),
    Issuing s k c t → predicateResult (t.ctx k c) i = some (g, pd, v) → (t.ctx k c).guard g = true →
      exec i s = .next (t.fallThrough k c [t.result k c 0 1 (.p pd) (.bit v)])

/-- R112, R113, R114, R115, R116, R117, R118, R119, R131, R142: every scalar instruction with a register or predicate
result leaves the value of its rule in flight, with its latency, and changes nothing else but what the issue of a
bundle counts. Parts of it rest on choices and readings of the model itself, no rules of the spec: log entry 9. -/
def Obligations.ScalarInstructionsLeaveTheirResult : Prop :=
  ScalarInstructionLeavesItsResult ∧ CompareLeavesItsPredicate

/-! ### Loads, stores and atomics -/

/-- R120, R121, R169: a buffer load whose bytes lie inside the context's window, none of them poisoned, leaves the bytes'
value, zero- or sign-extended, in flight for 5 bundles; a byte that a started Mint command will leave may already be the new
one. -/
def Sys2Proof.Claims.BufferLoadLeavesTheLoadedValue : Prop :=
  ∀ (s t : State) (k c : Nat) (i : Instr) (g : Guard) (rd ra : Reg) (bf : Buf) (imm : BitVec 23) (n : Nat) (signed : Bool),
    Issuing s k c t → loadForm i = some (g, rd, ra, .buf bf, imm, n, signed) → (t.ctx k c).guard g = true →
      Inside ((t.ctx k c).window bf) (ea (t.ctx k c) ra imm) n →
      (t.core k).poisonedAt bf (ea (t.ctx k c) ra imm).toNat n = none →
        ∃ l : List Byte, Seen (t.core k) bf (ea (t.ctx k c) ra imm).toNat n l ∧
          exec i s = .next (t.fallThrough k c [t.result k c 0 5 (.x rd) (.dword (loaded signed l))])

/-- R21, R121, R297: a buffer load or store with a byte outside the context's window writes nothing and takes Buffer-Bounds
with the address of the lowest such byte as its trap value; nothing of its bundle commits. -/
def Sys2Proof.Claims.BufferAccessOutsideTheWindowFaults : Prop :=
  ∀ (s t : State) (k c : Nat) (i : Instr) (g : Guard) (rd ra : Reg) (bf : Buf) (imm : BitVec 23) (n : Nat),
    Issuing s k c t →
      ((∃ signed, loadForm i = some (g, rd, ra, .buf bf, imm, n, signed)) ∨ storeForm i = some (g, rd, ra, .buf bf, imm, n)) →
      (t.ctx k c).guard g = true → ¬ Inside ((t.ctx k c).window bf) (ea (t.ctx k c) ra imm) n →
        exec i s = .next (t.slotFault k c 0 .bufferBounds
          (if (ea (t.ctx k c) ra imm).toNat < ((t.ctx k c).window bf).base ∨
              ((t.ctx k c).window bf).limit ≤ (ea (t.ctx k c) ra imm).toNat then ea (t.ctx k c) ra imm
            else BitVec.ofNat 64 ((t.ctx k c).window bf).limit))

/-- R120, R121: a buffer store inside the window writes the low bytes of its source register at its address, and nothing
else of the buffers. -/
def Sys2Proof.Claims.BufferStoreWritesItsBytes : Prop :=
  ∀ (s t : State) (k c : Nat) (i : Instr) (g : Guard) (rs ra : Reg) (bf : Buf) (imm : BitVec 23) (n : Nat),
    Issuing s k c t → storeForm i = some (g, rs, ra, .buf bf, imm, n) → (t.ctx k c).guard g = true →
      Inside ((t.ctx k c).window bf) (ea (t.ctx k c) ra imm) n →
        ∃ u, exec i s = .next u ∧
          u = State.fallThrough
            (t.modCore k fun q => q.writeBuf bf (ea (t.ctx k c) ra imm).toNat (leBytes n ((t.ctx k c).readX rs).toNat)) k c [] ∧
          (∀ j, j < n → ((u.core k).buf bf).read ((ea (t.ctx k c) ra imm).toNat + j) =
            ((t.ctx k c).readX rs).extractLsb' (8 * j) 8) ∧
          (∀ (b : Buf) (a : Nat), b ≠ bf ∨ a < (ea (t.ctx k c) ra imm).toNat ∨ (ea (t.ctx k c) ra imm).toNat + n ≤ a →
            ((u.core k).buf b).read a = ((t.core k).buf b).read a) ∧
          u.mem = t.mem

/-- R120, R121, R169: loads and stores of the typed buffers inside the window. Parts of it rest on choices and readings of
the model itself, no rules of the spec: log entry 9. -/
def Obligations.TypedBufferLoadsAndStores : Prop :=
  BufferLoadLeavesTheLoadedValue ∧ BufferStoreWritesItsBytes

/-- R120, R122, R343: a global load whose page translates and permits it, which no fence holds and no poison meets, leaves the
value of the bytes that its core sees in flight for one bundle, and its translation cached. -/
def Sys2Proof.Claims.GlobalLoadLeavesTheLoadedValue : Prop :=
  ∀ (s t : State) (k c : Nat) (i : Instr) (g : Guard) (rd ra : Reg) (imm : BitVec 23) (n : Nat) (signed : Bool)
    (l : List Nat) (direct : Bool),
    Issuing s k c t → loadForm i = some (g, rd, ra, .gv, imm, n, signed) → (t.ctx k c).guard g = true →
      t.ctxSpan k c .read (ea (t.ctx k c) ra imm) n = .ok l direct → Unfenced t k c → t.poisonedAny (.core k) l = false →
        exec i s = .next ((filled t k c (ea (t.ctx k c) ra imm) n).fallThrough k c
          [t.result k c 0 1 (.x rd) (.dword (loaded signed (l.map (t.coreByte k))))])

/-- R120, R122, R343: a global store whose page translates and permits it commits its bytes as the core's youngest store, and
memory itself is unchanged until it performs. -/
def Sys2Proof.Claims.GlobalStoreCommits : Prop :=
  ∀ (s t : State) (k c : Nat) (i : Instr) (g : Guard) (rs ra : Reg) (imm : BitVec 23) (n : Nat) (l : List Nat) (direct : Bool),
    Issuing s k c t → storeForm i = some (g, rs, ra, .gv, imm, n) → (t.ctx k c).guard g = true →
      t.ctxSpan k c .write (ea (t.ctx k c) ra imm) n = .ok l direct → Unfenced t k c →
        exec i s = .next (State.fallThrough
          (withStore (filled t k c (ea (t.ctx k c) ra imm) n) k c (ea (t.ctx k c) ra imm) (l.zip (leBytes n ((t.ctx k c).readX rs).toNat)) direct) k c [])

/-- R120, R122, R343: global loads and stores whose access is permitted. Parts of it rest on choices and readings of the
model itself, no rules of the spec: log entries 8, 9 and 41. -/
def Obligations.GlobalLoadsAndStores : Prop :=
  GlobalLoadLeavesTheLoadedValue ∧ GlobalStoreCommits

/-- R122, R123, R342: a global load or store whose translation faults writes nothing and takes that fault, with the faulting
address as its trap value. -/
def Sys2Proof.Claims.GlobalAccessTakesItsTranslationFault : Prop :=
  ∀ (s t : State) (k c : Nat) (i : Instr) (g : Guard) (rd ra : Reg) (imm : BitVec 23) (n : Nat) (e : Cause) (va : Dword),
    Issuing s k c t → (t.ctx k c).guard g = true →
      ((∃ signed, loadForm i = some (g, rd, ra, .gv, imm, n, signed) ∧
          t.ctxSpan k c .read (ea (t.ctx k c) ra imm) n = .fault e va) ∨
        (storeForm i = some (g, rd, ra, .gv, imm, n) ∧ t.ctxSpan k c .write (ea (t.ctx k c) ra imm) n = .fault e va)) →
        exec i s = .next (t.slotFault k c 0 e va)

/-- R21, R121, R122, R123, R297, R342: where a load or store faults, and what the context then takes. Parts of it rest on
choices and readings of the model itself, no rules of the spec: log entries 9 and 30. -/
def Obligations.ScalarMemoryFaultsAreTaken : Prop :=
  BufferAccessOutsideTheWindowFaults ∧ GlobalAccessTakesItsTranslationFault

/-- R124, R278, R279: an atomic whose page translates and permits it reads its bytes and writes the new value of its rule
over them in one step: in the L2 of its die at core, yard and die scope, in memory at module and system scope and in a
Vault-managed region, once the core's stores to them have performed and, for memory, the die has written the lines
back. The old value, sign-extended, is in flight for its register, and an agent of its scope then reads the new bytes.
No register changes, and memory changes nowhere else but where committed stores of the core perform and where a die
writes dirty bytes back. Parts of it rest on choices and readings of the model itself, no rules of the spec: log
entries 8, 9 and 41. -/
def Obligations.AtomicReadsAndWritesInOneStep : Prop :=
  ∀ (s t v w : State) (k c : Nat) (i : Instr) (g : Guard) (rd ra : Reg) (sc : Scope) (n : Nat) (f : Nat → Nat) (l : List Nat)
    (direct wide : Bool) (old : Nat),
    Issuing s k c t → amoForm (t.ctx k c) i = some (g, rd, ra, sc, n, f) → (t.ctx k c).guard g = true →
      t.ctxSpan k c .atomic (amoAddr (t.ctx k c) ra n) n = .ok l direct → l.length = n →
      Unfenced t k c → t.poisonedAny (.core k) l = false →
      wide = (direct || decide (3 ≤ sc.rank)) →
      (wide = true → (filled t k c (amoAddr (t.ctx k c) ra n) n).rowHeld l = none) →
      v = amoPlace (filled t k c (amoAddr (t.ctx k c) ra n) n) k wide l →
      old = amoOld v k wide l → w = amoWritten v k c wide (amoAddr (t.ctx k c) ra n) (l.zip (leBytes n (f old))) →
        exec i s = .next (w.fallThrough k c
          [t.result k c 0 1 (.x rd) (.dword ((BitVec.ofNat (8 * n) old).signExtend 64))]) ∧
        (l.Nodup → ∀ j (h : j < l.length),
          (if wide = true then w.mem.read (l[j]) else w.dieByte (dieOf k) (l[j])) = BitVec.ofNat 8 (f old / 2 ^ (8 * j))) ∧
        (∀ c', w.ctx k c' = t.ctx k c') ∧
        ∀ a, a ∉ l → (∀ p ∈ (t.core k).stores, ∀ x ∈ p.bytes, x.1 ≠ a) → (∀ d, (t.die d).dirty a = none) →
          w.mem.read a = t.mem.read a

/-! ### Control, CSRs, fences, traps -/

/-- R85, R86, R125, R126: `br`, `call`, `jr` and `jalr`, whose guard holds and whose target is a bundle of the code range,
continue at the target, with pc + 32 in flight for the link register (none for `x0`). -/
def Sys2Proof.Claims.BranchContinuesAtItsTarget : Prop :=
  ∀ (s t : State) (k c : Nat) (i : Instr) (g : Guard) (target : Dword) (rd : Reg),
    Issuing s k c t → transferForm (t.ctx k c) i = some (g, target, rd) → (t.ctx k c).guard g = true →
      target.toNat % 32 = 0 → (t.codeRange k c).1 ≤ target.toNat → target.toNat < (t.codeRange k c).2 →
        exec i s = .next (t.after k c
          (if rd = 0 then [] else [t.result k c 0 1 (.x rd) (.dword ((t.ctx k c).pc + 32))]) target)

/-- R86: a transfer whose target is misaligned, or else lies outside the code range, writes no link and takes
Bundle-Misaligned or Fetch-Outside-Code with the target as its trap value. -/
def Sys2Proof.Claims.BranchOutsideTheCodeFaults : Prop :=
  ∀ (s t : State) (k c : Nat) (i : Instr) (g : Guard) (target : Dword) (rd : Reg),
    Issuing s k c t → transferForm (t.ctx k c) i = some (g, target, rd) → (t.ctx k c).guard g = true →
      (target.toNat % 32 ≠ 0 → exec i s = .next (t.slotFault k c 0 .bundleMisaligned target)) ∧
      (target.toNat % 32 = 0 → (target.toNat < (t.codeRange k c).1 ∨ (t.codeRange k c).2 ≤ target.toNat) →
        exec i s = .next (t.slotFault k c 0 .fetchOutsideCode target))

/-- R85, R86, R125, R126: where branches, calls and jumps go, and where they fault. Parts of it rest on choices and
readings of the model itself, no rules of the spec: log entry 9. -/
def Obligations.TransfersOfControl : Prop :=
  BranchContinuesAtItsTarget ∧ BranchOutsideTheCodeFaults

/-- R128, R131: `loop` starts its level at the next bundle with COUNT 0 and its count as BOUND, whatever the level held;
`lctl.brk` clears ACT alone. Both fall through, and a `loop` whose count is 0 leaves its level inactive and the context
scanning for the end of the body (R130). -/
def Sys2Proof.Claims.LoopInstructionsWriteTheirLevel : Prop :=
  ∀ (s t : State) (k c : Nat) (g : Guard) (lv : BitVec 3) (ra : Reg) (imm : BitVec 30),
    Issuing s k c t → (t.ctx k c).guard g = true →
      (∀ n : Word, n = (if ra = 0 then imm.setWidth 32 else ((t.ctx k c).readX ra).setWidth 32) →
        t.badTarget k c ((t.ctx k c).pc + 32) = none →
        (n ≠ 0 → exec (.loop g lv ra imm) s = .next (State.fallThrough
          (t.modCtx k c fun x => x.setLoop lv
            { act := true, start := (x.pc + 32).extractLsb' 5 47, bound := n, count := 0 }) k c [])) ∧
        (n = 0 → ∃ u, exec (.loop g lv ra imm) s = .next u ∧ ((u.ctx k c).loop lv).act = false ∧
          (u.ctx k c).phase = .scan lv ((t.ctx k c).pc + 32) ∧ (u.ctx k c).pc = (t.ctx k c).pc + 32)) ∧
      exec (.lctlBrk g lv) s = .next (State.fallThrough
        (t.modCtx k c fun x => x.setLoop lv { x.loop lv with act := false }) k c [])

/-- R130: while a context scans for the end of the body of a loop of level `lv`, the next move of its core issues nothing
and steps over one bundle; it goes on issuing after the first bundle with LEND = 1 and LLV = `lv`. -/
def Sys2Proof.Claims.LoopSkipScansForItsEnd : Prop :=
  ∀ (s : State) (k c : Nat) (lv : BitVec 3) (a : Dword) (w : BitVec 256),
    s.issuer k = some c → (s.core k).hold = none → (s.ctx k c).phase = .scan lv a → (s.ctx k c).start = 0 →
      ((s.ctx k c).haltReq = false ∨ (s.ctx k c).inHandler = true) → s.fetch k c (s.ctx k c).pc = .ok w →
        exec (.bundleIssue k) s = .next (s.modCtx k c fun x =>
          { x with
            pc := x.pc + 32
            phase := if (bundleHead w).getLsbD 2 = true ∧ (bundleHead w).extractLsb' 3 3 = lv then .normal else .scan lv a })

/-- R128, R130, R131: starting, breaking and skipping a loop. Parts of it rest on choices and readings of the model
itself, no rules of the spec: log entries 9 and 15. -/
def Obligations.LoopsStartBreakAndSkip : Prop :=
  LoopInstructionsWriteTheirLevel ∧ LoopSkipScansForItsEnd

/-- R133, R134, R137, R294: `csrr` leaves the CSR's value, as it stands at issue, in flight for its register, and writes
nothing; a trap register is read at supervisor level. -/
def Sys2Proof.Claims.CsrReadLeavesTheCsrsValue : Prop :=
  ∀ (s t : State) (k c : Nat) (g : Guard) (rd : Reg) (r : Csr),
    Issuing s k c t → (t.ctx k c).guard g = true → ((t.ctx k c).inHandler = true ∨ r.code.toNat < 0x100) →
      exec (.csrr g rd r) s = .next (t.fallThrough k c [t.result k c 0 1 (.x rd) (.dword (csrRead t k c r))]) ∧
      (r = .ctxid → csrRead t k c r = BitVec.ofNat 64 (16 * k + c)) ∧
      (r = .fpcr → csrRead t k c r = (t.ctx k c).fpcr.setWidth 64) ∧
      (r = .fflags → csrRead t k c r = (t.ctx k c).fflags) ∧
      (r = .fevr → csrRead t k c r = (t.ctx k c).fevr) ∧
      (r = .fovf → csrRead t k c r = (t.core k).fovf.setWidth 64) ∧
      (r = .cstat → (csrRead t k c r).extractLsb' 0 3 = (t.ctx k c).slotres ∧
        (csrRead t k c r).getLsbD 16 = (t.ctx k c).wconf ∧ (csrRead t k c r).getLsbD 17 = (t.ctx k c).fevr.getLsbD 0 ∧
        (csrRead t k c r).extractLsb' 18 3 = (t.ctx k c).st.code ∧ (csrRead t k c r).extractLsb' 3 13 = 0 ∧
        (csrRead t k c r).extractLsb' 24 40 = 0) ∧
      (r = .epcb → csrRead t k c r = (t.ctx k c).epcb)

/-- R137: a read of CTXID leaves the number of the issuing core and context: every other bit reads as zero, whatever has been
written to it (the register is read-only). -/
def Obligations.CtxidNamesTheContext : Prop :=
  ∀ (s t : State) (k c : Nat) (g : Guard) (rd : Reg), Issuing s k c t → (t.ctx k c).guard g = true → k < 96 → c < 8 →
    ∃ v : Dword, exec (.csrr g rd .ctxid) s = .next (t.fallThrough k c [t.result k c 0 1 (.x rd) (.dword v)]) ∧
      (v.extractLsb' 11 53 = 0 ∧ (v.extractLsb' 4 7).toNat = k ∧ v.extractLsb' 3 1 = 0 ∧ (v.extractLsb' 0 3).toNat = c) ∧
      ∀ ra, csrWritten t k c .write ra .ctxid = t ∧ csrWritten t k c .set ra .ctxid = t ∧ csrWritten t k c .clear ra .ctxid = t

/-- R16, R58, R133, R134, R136, R294, R295: `csrw`, `csrs` and `csrc` leave the old value in flight and write the CSR, field by
field under the access codes of R6, unless a `csrs` or `csrc` names `x0`; ERPOP's write drops the oldest engine record. -/
def Sys2Proof.Claims.CsrWriteReturnsTheOldValue : Prop :=
  ∀ (s t : State) (k c : Nat) (i : Instr) (o : CsrOp) (g : Guard) (rd ra : Reg) (r : Csr),
    Issuing s k c t → csrForm i = some (o, g, rd, ra, r) → csrAllowed (t.ctx k c) o ra r → (t.ctx k c).guard g = true →
      ∃ u, u = csrWritten t k c o ra r ∧
        exec i s = .next (u.fallThrough k c [t.result k c 0 1 (.x rd) (.dword (csrRead t k c r))]) ∧
        ((o = .write ∨ ra ≠ 0) →
          CsrHolds t u k c (csrNew o (csrRead t k c r) ((t.ctx k c).readX ra)) (csrOnes o ((t.ctx k c).readX ra)) r) ∧
        (¬ (o = .write ∨ ra ≠ 0) → u = t) ∧
        (∀ c', c' ≠ c → u.ctx k c' = t.ctx k c') ∧ (∀ k', k' ≠ k → u.core k' = t.core k') ∧ u.mem = t.mem

/-- R16, R294, R295, R302: what `csrr` reads in a handler of the trap registers: each its own, of ERSTAT the records held and
dropped and PEND, of ERREC0 to ERREC7 the dwords of the oldest record (zero with none); DCAUSE, DEPC, ERSTAT and ERREC are
read-only. PRIO of CSTAT is the priority of the context's card. -/
def Sys2Proof.Claims.TrapRegistersRead : Prop :=
  ∀ (s t : State) (k c : Nat) (g : Guard) (rd : Reg) (r : Csr) (x : Ctx),
    Issuing s k c t → x = t.ctx k c → x.guard g = true → x.inHandler = true →
      ∃ v, exec (.csrr g rd r) s = .next (t.fallThrough k c [t.result k c 0 1 (.x rd) (.dword v)]) ∧
        (r = .cause → v = x.cause) ∧ (r = .epcb → v = x.epcb) ∧ (r = .tval → v = x.tval) ∧ (r = .tinfo → v = x.tinfo) ∧
        (r = .dcause → v = x.dcause) ∧ (r = .depc → v = x.depc) ∧ (r = .hscr0 → v = x.hscr0) ∧ (r = .hscr1 → v = x.hscr1) ∧
        (r = .erstat → x.records.length ≤ 8 → x.lost ≤ 255 → (v.extractLsb' 0 4).toNat = x.records.length ∧
          v.extractLsb' 4 4 = 0 ∧ (v.extractLsb' 8 8).toNat = x.lost ∧ v.getLsbD 16 = x.pend ∧ v.extractLsb' 17 47 = 0) ∧
        (∀ n, r = .errec n → (x.records = [] → v = 0) ∧ ∀ e l, x.records = e :: l →
          (n = 0 → v = BitVec.ofNat 64 (e.cause.code + (if e.trap then 256 else 0) + e.src.toNat * 512 + e.ch.toNat * 4096)) ∧
          (n = 1 → v = e.id) ∧ (n = 2 → v.extractLsb' 5 47 = e.baddr.extractLsb' 5 47 ∧ v.extractLsb' 0 5 = 0 ∧ v.extractLsb' 52 12 = 0) ∧
          (∀ j, j < 4 → n.val = 3 + j → v = e.pay.getD j 0) ∧ (n = 7 → v = 0)) ∧
        (r = .cstat → v.extractLsb' 21 3 = x.prio) ∧
        ∀ o ra, r = .dcause ∨ r = .depc ∨ r = .erstat ∨ (∃ n, r = .errec n) → csrWritten t k c o ra r = t

/-- R88, R133, R140: a CSR instruction, or an `eret` in a handler, whose guard is false has no effect once its level check has
passed. -/
def Sys2Proof.Claims.FalseGuardsOfTheCsrForms : Prop :=
  ∀ (s t : State) (k c : Nat) (g : Guard), Issuing s k c t → (t.ctx k c).guard g = false →
    (∀ rd r, (t.ctx k c).inHandler = true ∨ r.code.toNat < 0x100 → exec (.csrr g rd r) s = .next (t.fallThrough k c [])) ∧
    (∀ i o rd ra r, csrForm i = some (o, g, rd, ra, r) → csrAllowed (t.ctx k c) o ra r →
      exec i s = .next (t.fallThrough k c [])) ∧
    ((t.ctx k c).inHandler = true → exec (.eret g) s = .next (t.fallThrough k c []))

/-- R34, R133, R134: a CSR instruction of a context at user level that names a trap register, or that would write a bit of
CSTAT it may not write, takes Privilege, with the CSR number as its trap value, whatever its guard. -/
def Sys2Proof.Claims.PrivilegedCsrTakesPrivilege : Prop :=
  ∀ (s t : State) (k c : Nat) (g : Guard) (rd ra : Reg) (r : Csr),
    Issuing s k c t → (t.ctx k c).inHandler = false →
      (0x100 ≤ r.code.toNat →
        (∀ i, i ∈ [Instr.csrr g rd r, .csrw g rd ra r, .csrs g rd ra r, .csrc g rd ra r] →
          exec i s = .next (t.slotFault k c 0 .privilege (r.code.setWidth 64)))) ∧
      ((t.ctx k c).readX ra &&& ~~~0x10000 ≠ 0 →
        exec (.csrw g rd ra .cstat) s = .next (t.slotFault k c 0 .privilege 3) ∧
        exec (.csrs g rd ra .cstat) s = .next (t.slotFault k c 0 .privilege 3)) ∧
      ((t.ctx k c).readX ra ≠ 0 → exec (.csrc g rd ra .cstat) s = .next (t.slotFault k c 0 .privilege 3))

/-- R6, R16, R34, R58, R88, R133, R134, R136, R137, R140, R294, R295, R302: the CSR instructions at a level that may use
them, at one that may not, and with a false guard; what the trap registers read as. Parts of it rest on choices and
readings of the model itself, no rules of the spec: log entries 9 and 19. -/
def Obligations.CsrAccess : Prop :=
  CsrReadLeavesTheCsrsValue ∧ TrapRegistersRead ∧ CsrWriteReturnsTheOldValue ∧ PrivilegedCsrTakesPrivilege ∧ FalseGuardsOfTheCsrForms

/-- R138: `fence` does not stall issue; every committed store of the context must from then on perform at its scope before
the context's next global access, and no store changes otherwise. `drain` leaves the stores alone and holds the next
bundle until they have performed at its scope (`DrainHoldsTheNextBundle`). -/
def Sys2Proof.Claims.FenceAndDrainMarkTheirScope : Prop :=
  ∀ (s t : State) (k c : Nat) (g : Guard) (sc : Scope),
    Issuing s k c t → (t.ctx k c).guard g = true →
      (∃ u, exec (.fence g sc) s = .next (State.fallThrough u k c []) ∧
        u = t.modCore k (fun q => { q with stores := (u.core k).stores }) ∧
        (u.core k).stores.length = (t.core k).stores.length ∧
        ∀ j (h : j < (u.core k).stores.length) (h' : j < (t.core k).stores.length),
          { ((u.core k).stores[j]) with need := none } = { ((t.core k).stores[j]) with need := none } ∧
          (((t.core k).stores[j]).c = c → PStoreNeeds ((u.core k).stores[j]) sc) ∧
          (((t.core k).stores[j]).c ≠ c → (u.core k).stores[j] = (t.core k).stores[j])) ∧
      exec (.drain g sc) s = .next (State.fallThrough (t.modCtx k c fun x => { x with drain := some sc }) k c [])

/-- R138: a bundle does not issue while a store of its context has not performed at the scope of the context's `drain`. -/
def Sys2Proof.Claims.DrainHoldsTheNextBundle : Prop :=
  ∀ (s u : State) (k c : Nat) (sc : Scope) (p : PStore),
    s.issuer k = some c → s.boundary k c = .go u → (u.ctx k c).drain = some sc → p ∈ (u.core k).stores → p.c = c →
      p.performedAt sc = false →
        exec (.bundleIssue k) s = .next (u.stallOn k c .drain)

/-- R138: what fence and drain do. Parts of it rest on choices and readings of the model itself, no rules of the spec: log
entries 9 and 41. -/
def Obligations.FenceAndDrain : Prop :=
  FenceAndDrainMarkTheirScope ∧ DrainHoldsTheNextBundle

/-- R139, R296: `trap` raises Software-Trap, and `brk` raises Breakpoint when the kernel enables it, with the immediate as
trap value and slot 1 as the slot to resume at: its bundle counts as committed. Otherwise `brk` has no effect. -/
def Sys2Proof.Claims.TrapAndBreakTakeTheirTrap : Prop :=
  ∀ (s t : State) (k c : Nat) (g : Guard) (imm : BitVec 11),
    Issuing s k c t → (t.ctx k c).guard g = true →
      exec (.trap g imm) s = .next (((t.counted k c).keepSplit k c (some { pc := (t.ctx k c).pc, slot := 1, fpcr := (t.ctx k c).fpcr })).raise k c
        { cause := .softwareTrap, tval := imm.setWidth 64, epcb := (t.ctx k c).pc, slotres := 1, baddr := (t.ctx k c).pc,
          async := false, slot := 0 }) ∧
      ((t.cardOf k c).brken = true → exec (.brk g imm) s = .next (((t.counted k c).keepSplit k c (some { pc := (t.ctx k c).pc, slot := 1, fpcr := (t.ctx k c).fpcr })).raise k c
        { cause := .breakpoint, tval := imm.setWidth 64, epcb := (t.ctx k c).pc, slotres := 1, baddr := (t.ctx k c).pc,
          async := false, slot := 0 })) ∧
      ((t.cardOf k c).brken = false → exec (.brk g imm) s = .next (t.fallThrough k c []))

/-- R140, R300: `eret` in a handler, with nothing pending, returns the context to RUNNING at the bundle that EPCB names,
from slot SLOTRES, its snapshot in flight again (and to the scan of a loop's body that the trap of a record interrupted there,
R130); at user level it takes Privilege. -/
def Sys2Proof.Claims.EretReturnsFromTheHandler : Prop :=
  ∀ (s t : State) (k c : Nat) (g : Guard),
    Issuing s k c t →
      ((t.ctx k c).inHandler = false → exec (.eret g) s = .next (t.slotFault k c 0 .privilege 0)) ∧
      ((t.ctx k c).inHandler = true → (t.ctx k c).guard g = true → (t.ctx k c).pend = false →
        (t.ctx k c).flights = [] → (t.ctx k c).epcb.toNat % 32 = 0 →
        (t.userRange k c).1 ≤ (t.ctx k c).epcb.toNat → (t.ctx k c).epcb.toNat < (t.userRange k c).2 →
          ∃ u, exec (.eret g) s = .next u ∧ (u.core k).run = some c ∧
            u.ctx k c = { t.ctx k c with
              st := .running, server := .none, pc := (t.ctx k c).epcb, start := (t.ctx k c).slotres.toNat
              phase := (t.ctx k c).resumePhase, flights := (t.ctx k c).snapshot, snapshot := [] } ∧
            ((t.ctx k c).split = none → (u.ctx k c).phase = .normal) ∧ u.mem = t.mem)

/-- R130, R139, R140, R296, R300: taking a trap by an instruction, and returning from the handler. Parts of it rest on
choices and readings of the model itself, no rules of the spec: log entries 9 and 16. -/
def Obligations.TrapsAndReturns : Prop :=
  TrapAndBreakTakeTheirTrap ∧ EretReturnsFromTheHandler

/-- R141: `exit` records its status and leaves the context issuing fill bundles, and once no result of the context is in
flight the core's next move makes it IDLE. -/
def Sys2Proof.Claims.ExitEndsTheContext : Prop :=
  ∀ (s t : State) (k c : Nat) (g : Guard) (imm : BitVec 11),
    Issuing s k c t →
      ((t.ctx k c).guard g = true → ∃ u, exec (.exit g imm) s = .next u ∧ (u.ctx k c).phase = .exitFill ∧
        (u.ctx k c).exitStatus = imm ∧ (u.ctx k c).st = (t.ctx k c).st ∧ (u.core k).hold = none) ∧
      (∀ v : State, v.issuer k = some c → (v.core k).hold = none → (v.ctx k c).phase = .exitFill → (v.ctx k c).start = 0 →
        ((v.ctx k c).haltReq = false ∨ (v.ctx k c).inHandler = true) →
        (∀ x ∈ (v.core k).ctxs, x.2.flights = []) →
          ∃ u, exec (.bundleIssue k) v = .next u ∧ (u.ctx k c).st = .idle ∧ (u.core k).run = none ∧
            (u.ctx k c).exitStatus = (v.ctx k c).exitStatus)

/-- The guarded instructions of the scalar slot whose guard is false have no effect beyond the issue of their bundle (R88,
R112). CSR instructions and `eret` make their level checks before it, and are not among them. -/
def Sys2Proof.Claims.FalseGuardHasNoEffect : Prop :=
  ∀ (s t : State) (k c : Nat) (i : Instr) (g : Guard),
    Issuing s k c t → (t.ctx k c).guard g = false →
      ((∃ rd lat v, scalarResult t (t.ctx k c) i = some (g, rd, lat, v)) ∨
        (∃ pd v, predicateResult (t.ctx k c) i = some (g, pd, v)) ∨
        (∃ rd ra sp imm n sg, loadForm i = some (g, rd, ra, sp, imm, n, sg)) ∨
        (∃ rs ra sp imm n, storeForm i = some (g, rs, ra, sp, imm, n)) ∨
        (∃ rd ra sc n f, amoForm (t.ctx k c) i = some (g, rd, ra, sc, n, f)) ∨
        (∃ a rd, transferForm (t.ctx k c) i = some (g, a, rd)) ∨
        (∃ lv ra imm, i = .loop g lv ra imm) ∨ (∃ lv, i = .lctlBrk g lv) ∨ (∃ sc, i = .fence g sc) ∨
        (∃ sc, i = .drain g sc) ∨ (∃ imm, i = .trap g imm) ∨ (∃ imm, i = .brk g imm) ∨ (∃ imm, i = .exit g imm)) →
        exec i s = .next (t.fallThrough k c [])

/-- R81: a NOP bundle counts as an issued bundle and has no other effect. -/
def Sys2Proof.Claims.NopBundleOnlyCounts : Prop :=
  ∀ (s t : State) (k c : Nat), Issuing s k c t → exec .nop s = .next (t.fallThrough k c [])

/-- R81, R88, R112, R141: `exit`, and the bundles whose slots do nothing. Parts of it rest on choices and readings of the
model itself, no rules of the spec: log entries 9 and 16. -/
def Obligations.ExitsAndEmptyBundles : Prop :=
  ExitEndsTheContext ∧ FalseGuardHasNoEffect ∧ NopBundleOnlyCounts

/-! ### The vector slots -/

/-- R145, R147, R150 to R156, R162, R163: a vector instruction with a result for a vector register, whose guard holds and
whose features are accepted, leaves its lanes' values and events in flight for its latency, for the groups of GMASK. -/
def Sys2Proof.Claims.VectorInstructionLeavesItsLanes : Prop :=
  ∀ (s t : State) (k c : Nat) (i : Instr) (y : VArgs) (stat : Bool) (lat : Nat) (f : Nat → Word × Flags),
    Issuing s k c t → (t.ctx k c).inHandler = false → vectorResult t k c i = some (y, stat, lat, f) →
      formatsAccepted t y → (stat = true → t.accepted 2 = true) → (t.ctx k c).guard y.g = true →
        ∃ l fl, LanesOf y.w.gmask f l fl ∧
          exec i s = .next (t.fallThrough k c
            [t.result k c (vectorSlot y) lat (.v y.vd y.w.gmask) (.lanes l) fl (fpcrTraps (t.ctx k c).fpcr)])

/-- R155: `vgred` likewise: each lane of a group takes the root of the group's tree of four rounds. -/
def Sys2Proof.Claims.GroupReductionLeavesItsLanes : Prop :=
  ∀ (s t : State) (k c : Nat) (i : Instr) (y : VArgs) (op : Ex → Ex → Ex × Flags),
    Issuing s k c t → (t.ctx k c).inHandler = false → gredForm t k c i = some (y, op) → formatsAccepted t y →
      (t.ctx k c).guard y.g = true →
        ∃ l fl, LanesOf y.w.gmask
            (fun j =>
              let z := tree (gredStep y (vreads t k c y) op) 4
                ((((t.core k).vreg y.va).drop (16 * (j / 16))).take 16 |>.map fun w => (w, (vreads t k c y).fi))
              ((z.1.map Prod.fst).headD 0, z.2)) l fl ∧
          exec i s = .next (t.fallThrough k c
            [t.result k c (vectorSlot y) 9 (.v y.vd y.w.gmask) (.lanes l) fl (fpcrTraps (t.ctx k c).fpcr)])

/-- R145, R147, R150, R151, R152, R153, R154, R155, R156, R162, R163: every vector instruction with a result for a vector
register leaves the lanes of its rule in flight, in the enabled groups alone. Parts of it rest on choices and readings
of the model itself, no rules of the spec: log entries 6, 9 and 14. -/
def Obligations.VectorInstructionsLeaveTheirLanes : Prop :=
  VectorInstructionLeavesItsLanes ∧ GroupReductionLeavesItsLanes

/-- R160, R161: an instruction with a result for a statistics register leaves the triples of its rule in flight, in the
enabled groups alone. Parts of it rest on choices and readings of the model itself, no rules of the spec: log entry 9. -/
def Obligations.StatisticsInstructionLeavesItsTriples : Prop :=
  ∀ (s t : State) (k c : Nat) (i : Instr) (y : VArgs) (lat : Nat) (f : Nat → Triple × Flags),
    Issuing s k c t → (t.ctx k c).inHandler = false → statisticsResult t k c i = some (y, lat, f) →
      formatsAccepted t y → t.accepted 2 = true → (t.ctx k c).guard y.g = true →
        ∃ l fl, LanesOf y.w.gmask f l fl ∧
          exec i s = .next (t.fallThrough k c
            [t.result k c (vectorSlot y) lat (.q (y.vd.setWidth 4) y.w.gmask) (.triples l) fl (fpcrTraps (t.ctx k c).fpcr)])

/-- R157: `vld` and `vldx`, whose enabled lanes lie inside the window, leave the elements of their bytes in flight for 5
bundles; `vst` and `vstx` write the elements' bytes at commit, lane after lane. -/
def Sys2Proof.Claims.VectorBufferAccess : Prop :=
  ∀ (s t : State) (k c : Nat) (i : Instr) (y : VArgs) (load : Bool) (addr : Nat → Int),
    Issuing s k c t → (t.ctx k c).inHandler = false → vectorAccess t k c i = some (y, load, addr) →
      formatsAccepted t y → (t.ctx k c).guard y.g = true → LanesInside t k c y (elemBytes y.w.fd) addr load →
        (load = true →
          ∃ (m : Nat → List Byte) (l : VReg) (fl : Flags),
            (∀ j, j < 128 → Seen (t.core k) y.w.buf (addr j).toNat (elemBytes y.w.fd) (m j)) ∧
            LanesOf y.w.gmask (fun j => (loadLane y.w.fd j (m j), 0)) l fl ∧
            exec i s = .next (t.fallThrough k c [t.result k c (vectorSlot y) 5 (.v y.vd y.w.gmask) (.lanes l)])) ∧
        (load = false →
          exec i s = .next (State.fallThrough
            (t.modCore k fun q => q.storeAll
              (laneStores y.w.gmask y.w.buf addr (storeLane y.w.fd ((t.core k).vreg y.vd)))) k c []))

/-- R164: `qld` and `qst` move triples, 12 bytes a lane, between a buffer and a statistics register. -/
def Sys2Proof.Claims.StatisticsBufferAccess : Prop :=
  ∀ (s t : State) (k c : Nat) (y : VArgs),
    Issuing s k c t → (t.ctx k c).inHandler = false → formatsAccepted t y → t.accepted 2 = true →
      (t.ctx k c).guard y.g = true →
        (LanesInside t k c y 12 (qAddr y (t.slotView k c (vectorSlot y))) true →
          ∃ (m : Nat → List Byte) (l : QReg) (fl : Flags),
            (∀ j, j < 128 → Seen (t.core k) y.w.buf (qAddr y (t.slotView k c (vectorSlot y)) j).toNat 12 (m j)) ∧
            LanesOf y.w.gmask (fun j => (bytesTriple (m j), 0)) l fl ∧
            exec (.qld y) s = .next (t.fallThrough k c
              [t.result k c (vectorSlot y) 5 (.q (y.vd.setWidth 4) y.w.gmask) (.triples l)])) ∧
        (LanesInside t k c y 12 (qAddr y (t.slotView k c (vectorSlot y))) false →
          exec (.qst y) s = .next (State.fallThrough
            (t.modCore k fun q => q.storeAll (laneStores y.w.gmask y.w.buf (qAddr y (t.slotView k c (vectorSlot y)))
              fun j => tripleBytes (qlane ((t.core k).qreg (y.vd.setWidth 4)) j))) k c []))

/-- R158: `vrd` and `vwr`, which their checks pass and whose slot is filled (free), read (write) the slot that lies k from
HEAD (TAIL); where the slot is not filled (free), the bundle stalls and nothing of it commits. -/
def Sys2Proof.Claims.VectorRingAccess : Prop :=
  ∀ (s t : State) (k c : Nat) (y : VArgs),
    Issuing s k c t → (t.ctx k c).inHandler = false → formatsAccepted t y → (t.ctx k c).guard y.g = true →
      (ringFault y (t.slotView k c (vectorSlot y)) ((t.core k).ring y.w.ring) true = none →
        (((t.core k).ring y.w.ring).fill.toNat < y.w.imm1.toNat + 1 →
          exec (.vrd y) s = .next (t.stallOn k c (.ring (vectorSlot y)))) ∧
        (y.w.imm1.toNat + 1 ≤ ((t.core k).ring y.w.ring).fill.toNat →
          (∀ j, j < 128 → laneOn y.w.gmask j = true →
            (t.core k).poisonedAt ((t.core k).ring y.w.ring).buf (readAddr t k c y j) (elemBytes y.w.fd) = none) →
          ∃ (m : Nat → List Byte) (l : VReg) (fl : Flags),
            (∀ j, j < 128 → Seen (t.core k) ((t.core k).ring y.w.ring).buf (readAddr t k c y j) (elemBytes y.w.fd) (m j)) ∧
            LanesOf y.w.gmask (fun j => (loadLane y.w.fd j (m j), 0)) l fl ∧
            exec (.vrd y) s = .next (t.fallThrough k c [t.result k c (vectorSlot y) 5 (.v y.vd y.w.gmask) (.lanes l)]))) ∧
      (ringFault y (t.slotView k c (vectorSlot y)) ((t.core k).ring y.w.ring) false = none →
        (((t.core k).ring y.w.ring).count < y.w.imm1.toNat + 1 + ((t.core k).ring y.w.ring).fill.toNat →
          exec (.vwr y) s = .next (t.stallOn k c (.ring (vectorSlot y)))) ∧
        (y.w.imm1.toNat + 1 + ((t.core k).ring y.w.ring).fill.toNat ≤ ((t.core k).ring y.w.ring).count →
          exec (.vwr y) s = .next (State.fallThrough
            (t.modCore k fun q => q.storeAll (laneStores y.w.gmask ((t.core k).ring y.w.ring).buf
              (fun j => (((t.core k).ring y.w.ring).slotAddr
                  ((((t.core k).ring y.w.ring).tail.toNat + y.w.imm1.toNat) % ((t.core k).ring y.w.ring).count) : Int) +
                ringOff y (t.slotView k c (vectorSlot y)) j)
              (storeLane y.w.fd ((t.core k).vreg y.vd)))) k c [])))

/-- R157, R158, R164: vector and statistics loads and stores of the typed buffers, and the ring accesses. Parts of it rest
on choices and readings of the model itself, no rules of the spec: log entries 9 and 15. -/
def Obligations.VectorBufferAndRingAccess : Prop :=
  VectorBufferAccess ∧ StatisticsBufferAccess ∧ VectorRingAccess

/-- R159: `vfclr` clears the bits of its mask in its own slot's flag set at commit, and no other flag; `vfevclr` clears FEVR
and with it CSTAT.FEVV. Neither leaves a result. -/
def Sys2Proof.Claims.FlagControlAtCommit : Prop :=
  ∀ (s t : State) (k c : Nat) (y : VArgs),
    Issuing s k c t → (t.ctx k c).inHandler = false → formatsAccepted t y → (t.ctx k c).guard y.g = true →
      (∃ u, exec (.vfclr y) s = .next u ∧
        u = State.fallThrough (t.modCtx k c fun x => { x with fflags := (u.ctx k c).fflags }) k c [] ∧
        ∀ b, b < 64 → (u.ctx k c).fflags.getLsbD b =
          ((t.ctx k c).fflags.getLsbD b &&
            !(decide (5 * vectorSlot y ≤ b) && decide (b < 5 * vectorSlot y + 5) &&
              y.w.imm0.getLsbD (b - 5 * vectorSlot y)))) ∧
      exec (.vfevclr y) s = .next (State.fallThrough (t.modCtx k c fun x => { x with fevr := 0 }) k c [])

/-- R145, R147, R298: a vector instruction whose guard does not hold has no effect once its features are accepted; LNS6 or
a statistics operation that is not accepted raises Feature-Not-Accepted with the feature's number whatever the guard; and
in a handler the slot raises Illegal-Encoding. -/
def Sys2Proof.Claims.VectorSlotChecks : Prop :=
  ∀ (s t : State) (k c : Nat) (i : Instr) (o : VOp) (y : VArgs),
    Issuing s k c t → i.vop? = some (o, y) →
      ((t.ctx k c).inHandler = true → exec i s = .next (t.slotFault k c (vectorSlot y) .illegalEncoding 0)) ∧
      ((t.ctx k c).inHandler = false → (y.w.fa = .lns6 ∨ y.w.fb = .lns6 ∨ y.w.fd = .lns6) → t.accepted 3 = false →
        exec i s = .next (t.slotFault k c (vectorSlot y) .featureNotAccepted 3)) ∧
      ((t.ctx k c).inHandler = false → formatsAccepted t y → t.accepted 2 = false → 0x70 ≤ o.code.toNat → o.code.toNat ≤ 0x7C →
        exec i s = .next (t.slotFault k c (vectorSlot y) .featureNotAccepted 2)) ∧
      ((t.ctx k c).inHandler = false → formatsAccepted t y → t.accepted 2 = true → (t.ctx k c).guard y.g = false →
        exec i s = .next (t.fallThrough k c []))

/-- R145, R147, R159, R298: what a vector slot checks before it commits, and the two flag-control operations. Parts of it
rest on choices and readings of the model itself, no rules of the spec: log entry 9. -/
def Obligations.VectorSlotChecksAndFlagControl : Prop :=
  VectorSlotChecks ∧ FlagControlAtCommit

/-- R75, R76, R77: the class of a triple, as a test of the bits of W alone, with the canonical encodings; and the update and
the merge, step by step as the rules write them, each step rounded with RNE, with the flags that they set. -/
def Obligations.TriplesFollowTheirRules : Prop :=
  (∀ t : Triple, (qclass t = .invalid ↔ ¬ Finite32 t.w ∨ Below0 t.w) ∧ (qclass t = .empty ↔ Zero32 t.w) ∧
    (qclass t = .normal ↔ Finite32 t.w ∧ ¬ Below0 t.w ∧ ¬ Zero32 t.w)) ∧
  Triple.invalid = ⟨0x7FC000E6, 0x7FC000E6, 0x7FC000E6⟩ ∧ Triple.empty = ⟨0, 0x7FC000E5, 0⟩ ∧
  (∀ (t : Triple) (x w : Word), UpdateRule t x w (qupdate t x w)) ∧
  ∀ a b : Triple, MergeRule a b (qmerge a b)

/-! ### The Mint -/

/-- R167, R169, R173, R179: an `m` slot instruction that passes its checks queues its command with copies of its parameter
registers, and nothing else of the module changes; with the queue full its bundle stalls (R33), and so does that of an urgent
kernel that has still to claim the Mint (R310; when it has is the model's reading, log entry 22). -/
def Sys2Proof.Claims.MintInstructionsQueueTheirCommand : Prop :=
  ∀ (s t : State) (k c : Nat) (i : Instr) (g : Guard) (op : MintOp) (mp : BitVec 3),
    Issuing s k c t → (t.ctx k c).inHandler = false → mintForm i = some (g, op, mp) → (t.ctx k c).guard g = true →
      mintFeatures t op → op.check (t.core k) (t.ctx k c) (mintParams (t.ctx k c) op mp) (t.accepted 2) = none →
        ((∃ n, (t.ctx k c).card = some n ∧ t.mintUnclaimed k n = true) → exec i s = .next (t.stallOn k c .claim)) ∧
        ((∀ n, (t.ctx k c).card = some n → t.mintUnclaimed k n = false) →
          ((t.core k).mint.queue.length < 32 →
            exec i s = .next (State.fallThrough
              (t.modCore k fun q => { q with mint := Queued q (t.ctx k c) c op (mintParams (t.ctx k c) op mp) }) k c [])) ∧
          (32 ≤ (t.core k).mint.queue.length → exec i s = .next (t.stallOn k c .mintQueue)))

/-- R81, R83, R173, R298: an `m` slot instruction whose guard is false has no effect once its features are accepted; the
first check that fails gives the fault that its bundle takes; SIGSTAGE and LNS6 are checked whatever the guard, and that a slot
that lacks both reports SIGSTAGE is the model's choice (log entry 44), no rule of the spec; in a handler
the slot is Illegal-Encoding. The mode switches and `mclear.latch` pass every check; `mclear.acc` needs the pending mode
result-stationary, and takes Latch-Mode otherwise. -/
def Sys2Proof.Claims.MintChecksTakeTheirFault : Prop :=
  ∀ (s t : State) (k c : Nat) (i : Instr) (g : Guard) (op : MintOp) (mp : BitVec 3),
    Issuing s k c t → mintForm i = some (g, op, mp) →
      ((t.ctx k c).inHandler = true → exec i s = .next (t.slotFault k c 3 .illegalEncoding 0)) ∧
      ((t.ctx k c).inHandler = false →
        (op.usesSig = true → t.accepted 1 = false → exec i s = .next (t.slotFault k c 3 .featureNotAccepted 1)) ∧
        (op.usesSig = false → (op.fa = .lns6 ∨ op.fb = .lns6) → t.accepted 3 = false →
          exec i s = .next (t.slotFault k c 3 .featureNotAccepted 3)) ∧
        (mintFeatures t op → (t.ctx k c).guard g = false → exec i s = .next (t.fallThrough k c [])) ∧
        (∀ e v, mintFeatures t op → (t.ctx k c).guard g = true →
          op.check (t.core k) (t.ctx k c) (mintParams (t.ctx k c) op mp) (t.accepted 2) = some (e, v) →
            exec i s = .next (t.slotFault k c 3 e v)) ∧
        (op.kind = .mode true ∨ op.kind = .mode false ∨ op.kind = .clearLatch →
          op.check (t.core k) (t.ctx k c) (mintParams (t.ctx k c) op mp) (t.accepted 2) = none) ∧
        (op.kind = .clearAcc →
          op.check (t.core k) (t.ctx k c) (mintParams (t.ctx k c) op mp) (t.accepted 2) =
            if (t.core k).mint.pending = .rs then none else some (.latchMode, 0)))

/-- R175: `mscale`, whose eight bytes lie inside the W-buffer window, leaves the dword in flight for its parameter register
for 2 bundles; outside the window it takes Buffer-Bounds with the lowest such byte. -/
def Sys2Proof.Claims.MscaleLoadsAParameter : Prop :=
  ∀ (s t : State) (k c : Nat) (g : Guard) (mp : BitVec 3) (idx : BitVec 10),
    Issuing s k c t → (t.ctx k c).inHandler = false →
      ((t.ctx k c).guard g = false → exec (.mscale g mp idx) s = .next (t.fallThrough k c [])) ∧
      ((t.ctx k c).guard g = true → mscaleAt (t.ctx k c) idx + 8 ≤ ((t.ctx k c).window .wb).limit →
        (t.core k).poisonedAt .wb (mscaleAt (t.ctx k c) idx) 8 = none →
          ∃ l, Seen (t.core k) .wb (mscaleAt (t.ctx k c) idx) 8 l ∧
            exec (.mscale g mp idx) s = .next (t.fallThrough k c [t.result k c 3 2 (.mp mp) (.dword (leDword l))])) ∧
      ((t.ctx k c).guard g = true → ((t.ctx k c).window .wb).limit < mscaleAt (t.ctx k c) idx + 8 →
        exec (.mscale g mp idx) s = .next (t.slotFault k c 3 .bufferBounds
          (BitVec.ofNat 64 (max (mscaleAt (t.ctx k c) idx) ((t.ctx k c).window .wb).limit))))

/-- R33, R81, R83, R167, R169, R173, R175, R179, R298, R310: what an `m` slot does: its checks, the command it queues, the
parameter it loads. Parts of it rest on choices and readings of the model itself, no rules of the spec: log entries 9,
21, 22, 44 and 48. -/
def Obligations.MintSlotChecksAndQueues : Prop :=
  MintInstructionsQueueTheirCommand ∧ MintChecksTakeTheirFault ∧ MscaleLoadsAParameter

/-- R168, R169, R171: a queued command starts when its unit is free of earlier commands, none of which conflicts with it,
and its ring slots are ready; a mode switch starts only at the head of the queue, and nothing starts behind one; two
commands of one unit never run together. A start changes nothing but what the command is from then on: started, with
its sources settled: as the buffers stand, if they are as they were when it was issued. Parts of it rest on choices
and readings of the model itself, no rules of the spec: log entry 20. -/
def Obligations.MintCommandsStartInOrder : Prop :=
  ∀ (s : State) (k : Nat) (before : List MintCmd) (c : MintCmd) (after : List MintCmd),
    (s.core k).mint.queue = before ++ c :: after → (∀ x ∈ before, x.id ≠ c.id) → c.started = false →
      ((∀ x ∈ before, x.op.unit ≠ c.op.unit ∧ x.conflicts (s.core k) c = false ∧ ∀ r, x.op.kind ≠ .mode r) →
        ((∀ r, c.op.kind ≠ .mode r) ∨ before = []) → c.ringReady (s.core k) = true →
          ∃ u, exec (.mintCommandStart k c.id) s = .next u ∧
            u = { s.modCore k (fun q => { q with mint := { q.mint with queue := (u.core k).mint.queue } }) with
              freeCtr := s.freeCtr + 1 } ∧
            ((∀ x ∈ after, x.id ≠ c.id) → ∃ d : MintCmd, (u.core k).mint.queue = before ++ d :: after ∧
              d = { c with
                started := true, wsrc := d.wsrc, asrc := d.asrc, early := d.early, wbegun := (s.core k).wb, abegun := (s.core k).ab } ∧
              { d with early := [] } = { c.begun (s.core k) s.freeCtr with early := [] } ∧
              (c.wsrc = (s.core k).wb → d.wsrc = c.wsrc) ∧ (c.asrc = (s.core k).ab → d.asrc = c.asrc))) ∧
      (before ≠ [] → (∃ r, c.op.kind = .mode r) → exec (.mintCommandStart k c.id) s = .next s) ∧
      ((∃ x ∈ before, ∃ r, x.op.kind = .mode r) → exec (.mintCommandStart k c.id) s = .next s) ∧
      ((∃ x ∈ before, x.op.unit = c.op.unit) → (∀ r, c.op.kind ≠ .mode r) → exec (.mintCommandStart k c.id) s = .next s) ∧
      (c.ringReady (s.core k) = false → exec (.mintCommandStart k c.id) s = .next s)

/-- R169: the sources of a started command as it retires: each byte as the start settled it, or new where it has been written since;
with nothing written since, as the start settled them. -/
def Sys2Proof.Claims.RetiringCommandsReadOldOrNew : Prop :=
  ∀ (q : Core) (c : MintCmd) (occ : Nat), c.started = true →
    (∀ m ∈ [c.wsrc, c.asrc, c.wbegun, c.abegun, q.wb, q.ab], m.wf = true) →
    (∀ a, (c.settled q occ).wsrc.read a = c.wsrc.read a ∨ (c.settled q occ).wsrc.read a = q.wb.read a ∧ c.wbegun.read a ≠ q.wb.read a) ∧
    (∀ a, (c.settled q occ).asrc.read a = c.asrc.read a ∨ (c.settled q occ).asrc.read a = q.ab.read a ∧ c.abegun.read a ≠ q.ab.read a) ∧
    (c.wbegun = q.wb → (c.settled q occ).wsrc = c.wsrc) ∧ (c.abegun = q.ab → (c.settled q occ).asrc = c.asrc)

/-- R28, R170, R171, R179 to R198: a started command retires: it leaves the queue, its done flag is posted once and no other flag
moves, the ring that it reads or fills advances and no other, memory is unchanged, and, where it has its operands (its ring
has not ended), its result is there (of the sources that it settles then, `RetiringCommandsReadOldOrNew`): the mode with a cleared accumulator, the latch that it loads, the C rows of its stream,
the accumulator of `mouter`, the map, the status and the representatives of `msig`, the tiles and the triples of a drain,
the sums of `mfold`, the accumulator spilled to or filled from the C-buffer, the accumulator or a latch cleared. Of a ring
that has ended it does nothing but that. An advance that the ring does not allow is not made, and as with a ring that has ended
the context gets a Ring-Protocol record with the handle. Commands on different units may retire in any order. -/
def Sys2Proof.Claims.MintCommandsRetire : Prop :=
  ∀ (s : State) (k : Nat) (before : List MintCmd) (c : MintCmd) (after : List MintCmd),
    (s.core k).mint.queue = before ++ c :: after → (∀ x ∈ before ++ after, x.id ≠ c.id) →
      (c.started = false → exec (.mintCommandRetire k c.id) s = .next s) ∧
      (c.started = true →
        ∃ u, exec (.mintCommandRetire k c.id) s = .next u ∧
          bareQueue (u.core k).mint.queue = bareQueue (before ++ after) ∧ u.mem = s.mem ∧
          (∀ f, (u.core k).flag f =
            if c.op.done c.params = some f then min 16777215 ((s.core k).flag f + s.tookNow k f + 1) - s.tookNow k f
            else (s.core k).flag f) ∧
          (∀ h, c.op.ring = some h → (∀ e, c.op.kind ≠ .drain e) →
            (u.core k).ring h = if c.op.take (s.core k) = .ended ∨ ((s.core k).ring h).fill = 0 then (s.core k).ring h
              else ((s.core k).ring h).advC 1) ∧
          (∀ h, h ∉ c.op.rings c.params → (u.core k).ring h = (s.core k).ring h) ∧
          (∀ e h, c.op.kind = .drain e → c.op.ring = none → (drainRec c.params).ring = some h →
            (u.core k).ring h =
              if c.op.drainEnded (s.core k) c.params = true ∨
                  ((s.core k).ring h).slots.toNat + 1 ≤ ((s.core k).ring h).fill.toNat then (s.core k).ring h
              else if (drainRec c.params).reos = true ∧ ((s.core k).ring h).fill.toNat + 2 ≤ ((s.core k).ring h).slots.toNat + 1 then
                (((s.core k).ring h).advP 1).advEos
              else ((s.core k).ring h).advP 1) ∧
          (c.readsPoison (s.core k) = false →
            u.recQueue = s.recQueue ++
              if c.op.take (s.core k) = .ended ∨ c.op.drainEnded (s.core k) c.params = true ∨ advanceRefused (s.core k) c = true then
                [(c.card, k, c.c, { cause := .ringProtocol, trap := true, src := 0, ch := 0, id := 0, baddr := c.baddr
                                    pay := [((c.op.rings c.params).headD 0).setWidth 64] })]
              else []) ∧
          (c.op.take (s.core k) = .slot → c.readsPoison (s.core k) = false →
            MintResult (s.core k) (u.core k) (c.settled (s.core k) s.freeCtr)) ∧
          (c.op.take (s.core k) ≠ .slot → (∀ e, c.op.kind ≠ .drain e) →
            BuffersKept (s.core k) (u.core k) [] ∧ (u.core k).mint.acc = (s.core k).mint.acc ∧
              (u.core k).mint.latches = (s.core k).mint.latches))

/-- R170, R182: a started direct `mstream` retires: it writes the C rows of its stream, 1,024 bytes each from CADDR on, and no
other byte of a typed buffer, no latch, no accumulator row and nothing of memory; it leaves the queue. -/
def Sys2Proof.Claims.StreamsWriteTheirRowsAlone : Prop :=
  ∀ (s : State) (k : Nat) (before : List MintCmd) (c : MintCmd) (after : List MintCmd),
    (s.core k).mint.queue = before ++ c :: after → (∀ x ∈ before ++ after, x.id ≠ c.id) → c.started = true →
      c.op.kind = .stream → c.op.ring = none → c.readsPoison (s.core k) = false →
        ∃ u, exec (.mintCommandRetire k c.id) s = .next u ∧
          bareQueue (u.core k).mint.queue = bareQueue (before ++ after) ∧ u.mem = s.mem ∧
          (u.core k).mint.acc = (s.core k).mint.acc ∧ (u.core k).mint.latches = (s.core k).mint.latches ∧
          ∀ (b : Buf) (a : Nat),
            (b = .cb → a < (streamRec (param c.params 2)).caddr ∨
              (streamRec (param c.params 2)).caddr + 1024 * (streamRec (param c.params 2)).mrows ≤ a) →
              ((u.core k).buf b).read a = ((s.core k).buf b).read a

/-- R28, R169, R170, R171, R179, R180, R181, R182, R183, R184, R185, R186, R187, R188, R189, R190, R191, R192, R193, R194,
R195, R196, R197, R198: the retirement of Mint commands, in any order, and what each leaves. Parts of it rest on
choices and readings of the model itself, no rules of the spec: log entries 3, 20, 21 and 48. -/
def Obligations.MintCommandsLeaveTheirResults : Prop :=
  RetiringCommandsReadOldOrNew ∧ MintCommandsRetire ∧ StreamsWriteTheirRowsAlone

/-! ### The copy slots -/

/-- R205, R208, R209, R213, R247, R261: a command of a copy slot whose checks pass enters its core's transfers, with the
next identifier of its channel, and starts later; with no room for it, its bundle stalls (R33). Parts of it rest on
choices and readings of the model itself, no rules of the spec: log entries 9, 24 and 48. -/
def Obligations.CommandsEnterTheTransferPool : Prop :=
  ∀ (s t : State) (k c : Nat) (i : Instr) (slot : Nat) (g : Guard) (j : Issue) (feat : Option Nat) (l : List Dword),
    Issuing s k c t → (t.ctx k c).inHandler = false → commandForm (t.ctx k c) i = some (slot, g, j, feat) →
      (∀ n, feat = some n → t.accepted n = true) → (t.ctx k c).guard g = true →
      CommandPasses t (partyOfCtx t k c) j l →
        (HasRoom (t.core k) j →
          ∃ u, exec i s = .next (u.fallThrough k c []) ∧ AcceptedTransfer t u (partyOfCtx t k c) j l) ∧
        (¬ HasRoom (t.core k) j → exec i s = .next (t.stallOn k c .pool))

/-- R81, R83, R208, R298: the checks of a command in their order: a timed copy needs TIMEDCOPY and a prefetch TILL,
whatever the guard; a false guard has no effect; then the window record, the address and notify words (Reserved-
Field), the typed buffer that no window covers (Buffer-Permission), the lowest byte outside a window (Buffer-Bounds),
and, for a push or a pop, the ring (Ring-Protocol with the handle). Which field TVAL then names, and that NOTE with EN
= 0 or a reserved SCOPE is a reserved field, is the model's choice (log entry 46), no rule of the spec. Parts of it
rest on choices and readings of the model itself, no rules of the spec: log entries 9, 24, 46 and 48. -/
def Obligations.CommandChecksInOrder : Prop :=
  ∀ (s t : State) (k c : Nat) (i : Instr) (slot : Nat) (g : Guard) (j : Issue) (feat : Option Nat),
    Issuing s k c t → commandForm (t.ctx k c) i = some (slot, g, j, feat) →
      ((t.ctx k c).inHandler = true → exec i s = .next (t.slotFault k c slot .illegalEncoding 0)) ∧
      ((t.ctx k c).inHandler = false →
        (∀ n, feat = some n → t.accepted n = false →
          exec i s = .next (t.slotFault k c slot .featureNotAccepted (BitVec.ofNat 64 n))) ∧
        ((∀ n, feat = some n → t.accepted n = true) →
          ((t.ctx k c).guard g = false → exec i s = .next (t.fallThrough k c [])) ∧
          ((t.ctx k c).guard g = true →
            (∀ e v, j.kind.usesRec = true → recFault j.wrec j.kind (t.accepted 3) = some (e, v) →
              exec i s = .next (t.slotFault k c slot e v)) ∧
            ((j.kind.usesRec = true → recFault j.wrec j.kind (t.accepted 3) = none) →
              (j.wordsBad = true → exec i s = .next (t.slotFault k c slot .reservedField 0)) ∧
              (j.wordsBad = false → j.denied t (partyOfCtx t k c) = true →
                exec i s = .next (t.slotFault k c slot .bufferPermission 0)) ∧
              (∀ a, j.wordsBad = false → j.denied t (partyOfCtx t k c) = false →
                j.outside t (partyOfCtx t k c) = some a →
                exec i s = .next (t.slotFault k c slot .bufferBounds (BitVec.ofInt 64 a))) ∧
              (j.kind.usesRing = true → j.wordsBad = false → j.denied t (partyOfCtx t k c) = false →
                j.outside t (partyOfCtx t k c) = none → j.ringBad t (partyOfCtx t k c) = true →
                  exec i s = .next (t.slotFault k c slot .ringProtocol (j.h.setWidth 64)))))))

/-- R203, R204: `wset` writes the bits of one field of a window record and no other bit of it; `wchk` leaves its report in
flight and never faults. Which field a report names, and that NOTE is not looked at, is the model's choice (log entry 46). -/
def Sys2Proof.Claims.WindowRecordsAreWrittenAndChecked : Prop :=
  ∀ (s t : State) (k c : Nat) (g : Guard) (c1 : Bool) (f : BitVec 4) (w : BitVec 2) (xa xd : Reg),
    Issuing s k c t → (t.ctx k c).inHandler = false → (t.ctx k c).guard g = true →
      (∃ v : BitVec 768,
        exec (.wset g c1 f w xa) s =
          .next (State.fallThrough (t.modCtx k c fun x => { x with w := Tab.put x.w w.toNat v }) k c []) ∧
        ∀ b, b < 768 → v.getLsbD b =
          if (wsetBits f.toNat).1 ≤ b ∧ b < (wsetBits f.toNat).1 + (wsetBits f.toNat).2 then
            ((t.ctx k c).readX xa).getLsbD (b - (wsetBits f.toNat).1)
          else ((t.ctx k c).wrec w).getLsbD b) ∧
      exec (.wchk g c1 w xd) s = .next (t.fallThrough k c
        [t.result k c (copySlot c1) 1 (.x xd) (.dword (wchkReport ((t.ctx k c).wrec w) (t.accepted 3) (t.ctx k c)))])

/-- R25, R220: `rdesc` writes its descriptor from two registers, where the value is legal and a valid ring lies inside the
buffer and the window; the descriptor then reads back as written, half by half, through `rget`. An illegal value takes
Reserved-Field, a ring that leaves its bounds Buffer-Bounds; neither writes. -/
def Sys2Proof.Claims.RingDescriptorsAreWrittenAndRead : Prop :=
  ∀ (s t : State) (k c : Nat) (g : Guard) (c1 : Bool) (h : BitVec 4) (xa xb xd : Reg) (half : Bool),
    Issuing s k c t → (t.ctx k c).inHandler = false → (t.ctx k c).guard g = true →
      (ringUnpack ((t.ctx k c).readX xb ++ (t.ctx k c).readX xa) ((t.core k).ring h) = none →
        exec (.rdesc g c1 h xa xb) s = .next (t.slotFault k c (copySlot c1) .reservedField 0)) ∧
      (∀ r, ringUnpack ((t.ctx k c).readX xb ++ (t.ctx k c).readX xa) ((t.core k).ring h) = some r →
        r.pack = (t.ctx k c).readX xb ++ (t.ctx k c).readX xa ∧
        (r.valid = false ∨ r.regionOut (t.ctx k c) = none →
          ∃ r', r' = { r with stampT := r'.stampT, stampM := r'.stampM, stampS := r'.stampS } ∧
            exec (.rdesc g c1 h xa xb) s = .next (State.fallThrough (t.modCore k fun q => q.setRing h r') k c [])) ∧
        (∀ a, r.valid = true → r.regionOut (t.ctx k c) = some a →
          exec (.rdesc g c1 h xa xb) s = .next (t.slotFault k c (copySlot c1) .bufferBounds (BitVec.ofInt 64 a)))) ∧
      exec (.rget g c1 xd h half) s = .next (t.fallThrough k c
        [t.result k c (copySlot c1) 1 (.x xd)
          (.dword (((t.core k).ring h).pack.extractLsb' (if half then 64 else 0) 64))])

/-- R219: `dlow` leaves LOW, NEXT or DSHC, as they stood when the bundle issued, in flight. -/
def Obligations.DlowReadsTheChannel : Prop :=
  ∀ (s t : State) (k c : Nat) (g : Guard) (c1 : Bool) (xd : Reg) (ch : BitVec 4) (sel : BitVec 2),
    Issuing s k c t → (t.ctx k c).inHandler = false → (t.ctx k c).guard g = true →
      exec (.dlow g c1 xd ch sel) s = .next (t.fallThrough k c
        [t.result k c (copySlot c1) 1 (.x xd) (.dword
          (if sel = 0 then ((t.core k).chan ch.toNat).low
            else if sel = 1 then ((t.core k).chan ch.toNat).next else (t.core k).dshc))])

/-- R298: in a handler every copy-slot instruction that acts at once takes Illegal-Encoding. -/
def Sys2Proof.Claims.CopySlotsOfAHandler : Prop :=
  ∀ (s t : State) (k c : Nat) (i : Instr) (g : Guard) (c1 : Bool),
    Issuing s k c t → (t.ctx k c).inHandler = true →
      ((∃ f w xa, i = .wset g c1 f w xa) ∨ (∃ w xd, i = .wchk g c1 w xd) ∨ (∃ h xa xb, i = .rdesc g c1 h xa xb) ∨
        (∃ xd h half, i = .rget g c1 xd h half) ∨ (∃ xd ch sel, i = .dlow g c1 xd ch sel)) →
        exec i s = .next (t.slotFault k c (copySlot c1) .illegalEncoding 0)

/-- R88: the other copy-slot instructions with a false guard have no effect. -/
def Sys2Proof.Claims.FalseGuardsOfTheCopySlots : Prop :=
  ∀ (s t : State) (k c : Nat) (i : Instr) (g : Guard) (c1 : Bool),
    Issuing s k c t → (t.ctx k c).inHandler = false → (t.ctx k c).guard g = false →
      ((∃ f w xa, i = .wset g c1 f w xa) ∨ (∃ w xd, i = .wchk g c1 w xd) ∨ (∃ h xa xb, i = .rdesc g c1 h xa xb) ∨
        (∃ xd h half, i = .rget g c1 xd h half) ∨ (∃ xd ch sel, i = .dlow g c1 xd ch sel)) →
        exec i s = .next (t.fallThrough k c [])

/-- R25, R88, R203, R204, R220, R298: the copy-slot instructions that act at once, and the guards of all of them. Parts of
it rest on choices and readings of the model itself, no rules of the spec: log entries 9, 24 and 46. -/
def Obligations.CopySlotCommandsAndRecords : Prop :=
  WindowRecordsAreWrittenAndChecked ∧ RingDescriptorsAreWrittenAndRead ∧ CopySlotsOfAHandler ∧ FalseGuardsOfTheCopySlots

/-! ### The synchronisation slot -/

/-- R30, R32, R221: `fwait`, whose flag has reached the count, subtracts it from that flag alone; short of it, its bundle stalls
and nothing of it commits; the count of a parked wait is taken already. -/
def Sys2Proof.Claims.FlagWaitSubtracts : Prop :=
  ∀ (s t : State) (k c : Nat) (f : BitVec 5) (n : Cnt) (sc : Scope),
    Issuing s k c t → (t.ctx k c).timedOut = false →
      ((t.ctx k c).taken ≠ none → exec (.fwait f n sc) s = .next (t.fallThrough k c [])) ∧
      ((t.ctx k c).taken = none → countOf (t.ctx k c) n ≤ (t.core k).flag f →
        ∃ u, exec (.fwait f n sc) s = .next (State.fallThrough u k c []) ∧ Taken t u k f (countOf (t.ctx k c) n)) ∧
      ((t.ctx k c).taken = none → (t.core k).flag f < countOf (t.ctx k c) n → exec (.fwait f n sc) s = .next (t.stallOn k c .sync))

/-- R30, R31, R221, R283: `fpost` at core scope, whatever stores its context has pending, or whose context's stores have all
performed at its scope, posts its count; a store of the context that has not performed at the post's scope stalls its
bundle. -/
def Sys2Proof.Claims.FlagPostAdds : Prop :=
  ∀ (s t : State) (k c : Nat) (f : BitVec 5) (n : Cnt) (sc : Scope),
    Issuing s k c t →
      ((sc = .core ∨ ∀ p ∈ (t.core k).stores, p.c = c → p.ord < (t.core k).storeCtr ∧ p.performedAt sc = true) →
        ∃ q, exec (.fpost f n sc) s = .next (State.fallThrough (t.setCore k q) k c []) ∧
          Posted (t.core k) q f (countOf (t.ctx k c) n) (t.tookNow k f)) ∧
      (∀ p ∈ (t.core k).stores, p.c = c → p.ord < (t.core k).storeCtr → p.performedAt sc = false →
        exec (.fpost f n sc) s = .next (t.stallOn k c .post))

/-- R30, R31, R32, R221, R283: waiting for a flag and posting to one. Parts of it rest on choices and readings of the
model itself, no rules of the spec: log entries 9, 19, 23 and 41. -/
def Obligations.FlagsAreCountedAndTaken : Prop :=
  FlagWaitSubtracts ∧ FlagPostAdds

/-- R26, R28, R221: `rwait.c` and `rwait.p` by the party that the descriptor names, for no more slots than the ring has:
satisfied, the first leaves its report in flight and the second has no effect; else the bundle stalls. Neither moves HEAD or
TAIL. -/
def Sys2Proof.Claims.RingWaitsReport : Prop :=
  ∀ (s t : State) (k c : Nat) (h : BitVec 4) (n : Cnt) (xd : Reg),
    Issuing s k c t → (t.ctx k c).timedOut = false → countOf (t.ctx k c) n ≤ ((t.core k).ring h).slots.toNat + 1 →
      (MayConsume ((t.core k).ring h) c →
        (consumerReady ((t.core k).ring h) (countOf (t.ctx k c) n) →
          exec (.rwaitC xd h n) s = .next (t.fallThrough k c
            [t.result k c 6 1 (.x xd) (.dword (consumerReport ((t.core k).ring h) (countOf (t.ctx k c) n)))])) ∧
        (¬ consumerReady ((t.core k).ring h) (countOf (t.ctx k c) n) →
          exec (.rwaitC xd h n) s = .next (t.stallOn k c .sync))) ∧
      (MayProduce ((t.core k).ring h) c →
        (countOf (t.ctx k c) n + ((t.core k).ring h).fill.toNat ≤ ((t.core k).ring h).slots.toNat + 1 ∨
            countOf (t.ctx k c) n = 0 →
          exec (.rwaitP h n) s = .next (t.fallThrough k c [])) ∧
        (((t.core k).ring h).slots.toNat + 1 < countOf (t.ctx k c) n + ((t.core k).ring h).fill.toNat →
          countOf (t.ctx k c) n ≠ 0 → exec (.rwaitP h n) s = .next (t.stallOn k c .sync)))

/-- R26, R27, R28: `radv.c`, `radv.p` and `radv.eos` by the party that the descriptor names, within the filled (free) slots,
move HEAD (TAIL) and FILL of their ring; the end-of-stream form fills one slot, marks it and sets EOSP; a consumer advance
past that slot sets EOSC. -/
def Sys2Proof.Claims.RingAdvancesMove : Prop :=
  ∀ (s t : State) (k c : Nat) (h : BitVec 4) (n : Cnt),
    Issuing s k c t →
      (MayConsume ((t.core k).ring h) c → countOf (t.ctx k c) n ≤ ((t.core k).ring h).fill.toNat →
        countOf (t.ctx k c) n ≤ ((t.core k).ring h).slots.toNat + 1 →
          ∃ r, exec (.radvC h n) s = .next (State.fallThrough (t.modCore k fun q => q.setRing h r) k c []) ∧
            Consumed ((t.core k).ring h) r (countOf (t.ctx k c) n)) ∧
      (MayProduce ((t.core k).ring h) c →
        (countOf (t.ctx k c) n + ((t.core k).ring h).fill.toNat ≤ ((t.core k).ring h).slots.toNat + 1 →
          ∃ r, exec (.radvP h n) s = .next (State.fallThrough (t.modCore k fun q => q.setRing h r) k c []) ∧
            Produced ((t.core k).ring h) r (countOf (t.ctx k c) n) ∧ r.eosp = ((t.core k).ring h).eosp ∧
            r.eosSlot = ((t.core k).ring h).eosSlot) ∧
        (((t.core k).ring h).fill.toNat ≤ ((t.core k).ring h).slots.toNat →
          ∃ r, exec (.radvEos h) s = .next (State.fallThrough (t.modCore k fun q => q.setRing h r) k c []) ∧
            Produced ((t.core k).ring h) r 1 ∧ r.eosp = true ∧ r.eosSlot = some ((t.core k).ring h).tail.toNat))

/-- R28: a ring operation of the `y` slot on an invalid ring, by another party than the descriptor names, after the end of its
stream, for more slots than the ring has, or an advance past the filled (free) slots, takes Ring-Protocol with the handle,
and nothing of it commits. -/
def Sys2Proof.Claims.RingProtocolIsKept : Prop :=
  ∀ (s t : State) (k c : Nat) (h : BitVec 4) (n : Cnt) (xd : Reg),
    Issuing s k c t →
      (¬ MayConsume ((t.core k).ring h) c ∨ ((t.core k).ring h).slots.toNat + 1 < countOf (t.ctx k c) n →
        exec (.rwaitC xd h n) s = .next (t.slotFault k c 6 .ringProtocol (h.setWidth 64))) ∧
      (¬ MayProduce ((t.core k).ring h) c ∨ ((t.core k).ring h).slots.toNat + 1 < countOf (t.ctx k c) n →
        exec (.rwaitP h n) s = .next (t.slotFault k c 6 .ringProtocol (h.setWidth 64))) ∧
      (¬ MayConsume ((t.core k).ring h) c ∨ ((t.core k).ring h).fill.toNat < countOf (t.ctx k c) n →
        exec (.radvC h n) s = .next (t.slotFault k c 6 .ringProtocol (h.setWidth 64))) ∧
      (¬ MayProduce ((t.core k).ring h) c ∨
          ((t.core k).ring h).slots.toNat + 1 < countOf (t.ctx k c) n + ((t.core k).ring h).fill.toNat →
        exec (.radvP h n) s = .next (t.slotFault k c 6 .ringProtocol (h.setWidth 64))) ∧
      (¬ MayProduce ((t.core k).ring h) c ∨ ((t.core k).ring h).slots.toNat + 1 ≤ ((t.core k).ring h).fill.toNat →
        exec (.radvEos h) s = .next (t.slotFault k c 6 .ringProtocol (h.setWidth 64)))

/-- R221: `dwait` goes on when at most its count of transfers of the channel are in flight (immediate form), or when LOW has
passed the identifier (register form); else its bundle stalls. -/
def Sys2Proof.Claims.ChannelWaits : Prop :=
  ∀ (s t : State) (k c : Nat) (ch : BitVec 4) (n : Cnt) (sc : Scope),
    Issuing s k c t → (t.ctx k c).timedOut = false →
      ((match n with
        | .imm v => (((t.core k).chan ch.toNat).next - ((t.core k).chan ch.toNat).low).toNat ≤ v.toNat
        | .reg r => ((t.ctx k c).readX r).toNat < ((t.core k).chan ch.toNat).low.toNat) →
          exec (.dwait ch n sc) s = .next (t.fallThrough k c [])) ∧
      (¬ (match n with
        | .imm v => (((t.core k).chan ch.toNat).next - ((t.core k).chan ch.toNat).low).toNat ≤ v.toNat
        | .reg r => ((t.ctx k c).readX r).toNat < ((t.core k).chan ch.toNat).low.toNat) →
          exec (.dwait ch n sc) s = .next (t.stallOn k c .chan))

/-- R26, R27, R28, R221: the ring and channel operations of the `y` slot. Parts of it rest on choices and readings of the
model itself, no rules of the spec: log entries 9 and 23. -/
def Obligations.RingsAndChannelsInTheSyncSlot : Prop :=
  RingWaitsReport ∧ RingAdvancesMove ∧ RingProtocolIsKept ∧ ChannelWaits

/-! ### Traps, landing, issue and selection -/

/-- R32, R295 to R297, R304: a fault of a user-level context enters the handler of its card: results in flight go to the snapshot,
the trap registers record the case, STATE becomes TRAPPED, and the context goes on at the handler's entry; its registers stay.
The count that a parked wait had taken goes back to its flag. With an invalid handler entry it is a double fault. R303: in the handler it is a double fault, which keeps the trap registers
and the snapshot and stops the context. R301: a CoW-Write or Page-Absent goes to the page service. -/
def Sys2Proof.Claims.FaultsEnterHandlerServiceOrStop : Prop :=
  ∀ (s : State) (k c : Nat) (tr : Trap),
    ((s.ctx k c).inHandler = false → tr.cause ≠ .cowWrite → tr.cause ≠ .pageAbsent → hvalid (s.handler k c) = true →
      (s.raise k c tr).ctx k c = Entered (s.ctx k c) (hentry (s.handler k c)) tr ∧
      ((s.raise k c tr).core k).run = some c ∧ (s.raise k c tr).mem = s.mem ∧
      ((s.ctx k c).taken = none → ((s.raise k c tr).core k).flags = (s.core k).flags) ∧
      ∀ f n, (s.ctx k c).taken = some (f, n) →
        ((s.raise k c tr).core k).flag f = min 16777215 ((s.core k).flag f + n)) ∧
    ((s.ctx k c).inHandler = false → tr.cause ≠ .cowWrite → tr.cause ≠ .pageAbsent → hvalid (s.handler k c) = false →
      (s.raise k c tr).ctx k c =
        Stopped (Entered (s.ctx k c) (hentry (s.handler k c)) tr) .fetchOutsideCode (hentry (s.handler k c))) ∧
    ((s.ctx k c).inHandler = true →
      (s.raise k c tr).ctx k c = Stopped (s.ctx k c) tr.cause tr.epcb ∧ ((s.raise k c tr).core k).run = none ∧
      (s.raise k c tr).mem = s.mem) ∧
    ((s.ctx k c).inHandler = false → (tr.cause = .cowWrite ∨ tr.cause = .pageAbsent) →
      ((s.raise k c tr).ctx k c).st = .trapped ∧ ((s.raise k c tr).ctx k c).server = .pageService ∧
      ((s.raise k c tr).ctx k c).cause = (s.ctx k c).cause ∧ ((s.raise k c tr).ctx k c).tval = (s.ctx k c).tval ∧
      ((s.raise k c tr).ctx k c).epcb = tr.epcb &&& ~~~31 ∧
      (s.raise k c tr).pageReqs = s.pageReqs ++
        [{ asid := (s.cardOf k c).asid, va := tr.tval, cow := decide (tr.cause = .cowWrite), who := .ctx k c }])

/-- R39, R59, R135, R136, R145: the one result due at a boundary lands: its register takes its value, its flags are ORed into its
slot's set and recorded where they are the first event, and the context's other results stay in flight; WCONF, memory and every
other context are unchanged. -/
def Sys2Proof.Claims.ResultsLandBeforeTheirBundle : Prop :=
  ∀ (s : State) (k c : Nat) (a : List Flight) (f : Flight) (b : List Flight),
    AtBoundary s k c → OneDue s k c a f b → f.flags &&& f.traps = 0 →
      ∃ u, exec (.resultLands k) s = .next u ∧ (u.ctx k c).flights = a ++ b ∧ landsIn (u.ctx k c) (u.core k) (s.core k) f ∧
        FirstEvent (s.ctx k c) (u.ctx k c) f ∧ (u.ctx k c).wconf = (s.ctx k c).wconf ∧
        (u.ctx k c).fflags = (s.ctx k c).fflags ||| (f.flags.setWidth 64 <<< (5 * f.slot)) ∧
        (∀ r, f.dest ≠ .x r → (u.ctx k c).readX r = (s.ctx k c).readX r) ∧
        (∀ r, f.dest ≠ .p r → (u.ctx k c).readP r = (s.ctx k c).readP r) ∧
        (∀ r, f.dest ≠ .mp r → (u.ctx k c).mpReg r = (s.ctx k c).mpReg r) ∧
        (∀ r, (∀ m, f.dest ≠ .v r m) → (u.core k).vreg r = (s.core k).vreg r) ∧
        (∀ r, (∀ m, f.dest ≠ .q r m) → (u.core k).qreg r = (s.core k).qreg r) ∧
        (u.ctx k c).pc = (s.ctx k c).pc ∧ (∀ d, d ≠ c → u.ctx k d = s.ctx k d) ∧ u.mem = s.mem

/-- R42, R43, R136: two results of one bundle that land together are delivered in slot order, and on one register set WCONF. -/
def Sys2Proof.Claims.MeetingResultsSetWconf : Prop :=
  ∀ (s : State) (k c : Nat) (f g : Flight),
    AtBoundary s k c → s.core k = { s.core k with ctxs := [(c, s.ctx k c)] } → (s.ctx k c).flights = [f, g] → f.r ≤ 1 → g.r ≤ 1 →
      f.seq = g.seq → f.slot < g.slot → f.flags = 0 → g.flags = 0 → (s.ctx k c).mintEvs = [] →
        ∃ u, exec (.resultLands k) s = .next u ∧ (u.ctx k c).flights = [] ∧
          (Meet f.dest g.dest → (u.ctx k c).wconf = true) ∧
          (¬ Meet f.dest g.dest → (u.ctx k c).wconf = (s.ctx k c).wconf) ∧
          (∀ r v w, r ≠ 0 → f.dest = .x r → g.dest = .x r → f.val = .dword v → g.val = .dword w → (u.ctx k c).readX r = w) ∧
          (u.ctx k c).fevr = (s.ctx k c).fevr ∧ u.mem = s.mem

/-- R302, R305, R387: with a record pending whose trap is taken at a boundary where no result traps, the results that are due do
not land: they go to the snapshot with the others, and the handler of the context is entered before the bundle. -/
def Sys2Proof.Claims.RecordsTrapBeforeResultsLand : Prop :=
  ∀ (s : State) (k c : Nat),
    s.issuer k = some c → ((s.core k).ctxs.map Prod.fst).Nodup → (s.ctx k c).haltReq = false → (s.ctx k c).start = 0 →
      (s.core k).stalled = false → (s.ctx k c).phase = .normal → (s.ctx k c).pend = true → (s.ctx k c).inHandler = false → (s.ctx k c).fpPend = none →
      (∀ f ∈ (s.ctx k c).flights, f.flags &&& f.traps = 0) → (s.ctx k c).mintEvs = [] →
        exec (.resultLands k) s = .next s ∧
        (hvalid (s.handler k c) = true →
          ∃ u, exec (.bundleIssue k) s = .next u ∧ (u.ctx k c).st = .trapped ∧ (u.ctx k c).server = .handler ∧
            (u.ctx k c).pend = false ∧ (u.ctx k c).flights = [] ∧
            (u.ctx k c).snapshot = (s.ctx k c).snapshot ++ (s.ctx k c).flights ∧ (u.ctx k c).x = (s.ctx k c).x ∧
            (u.ctx k c).epcb = (s.ctx k c).pc &&& ~~~31 ∧ (u.ctx k c).slotres = 0 ∧ (u.ctx k c).tinfo.getLsbD 4 = true ∧
            (u.ctx k c).fflags = (s.ctx k c).fflags)

/-- R60: a due result that set a flag whose trap is enabled does not land: its flags are set and its registers keep their
values, and the bundle at this boundary gives way to FP-Trap with those flags as its trap value. -/
def Sys2Proof.Claims.TrappingResultsDoNotLand : Prop :=
  ∀ (s : State) (k c : Nat) (a : List Flight) (f : Flight) (b : List Flight),
    AtBoundary s k c → OneDue s k c a f b → f.flags &&& f.traps ≠ 0 → (s.ctx k c).inHandler = false →
      (s.ctx k c).fpPend = none →
      (∃ u, exec (.resultLands k) s = .next u ∧ (u.ctx k c).flights = a ++ b ∧
        (u.ctx k c).fflags = (s.ctx k c).fflags ||| (f.flags.setWidth 64 <<< (5 * f.slot)) ∧
        (∀ r, (u.ctx k c).readX r = (s.ctx k c).readX r) ∧ (∀ r, (u.core k).vreg r = (s.core k).vreg r) ∧
        ∀ r, (u.core k).qreg r = (s.core k).qreg r) ∧
      (hvalid (s.handler k c) = true →
        ∃ u, exec (.bundleIssue k) s = .next u ∧ (u.ctx k c).st = .trapped ∧ (u.ctx k c).server = .handler ∧
          (u.ctx k c).cause = 0x11 ∧ (u.ctx k c).tval = f.flags.setWidth 64 ∧ (u.ctx k c).epcb = (s.ctx k c).pc &&& ~~~31 ∧
          (u.ctx k c).slotres = 0 ∧ (u.ctx k c).pc = hentry (s.handler k c) ∧ (u.ctx k c).snapshot = (s.ctx k c).snapshot ++ (a ++ b))

/-- R32, R39, R42, R43, R59, R60, R135, R136, R145, R295, R296, R297, R301, R302, R303, R304, R305, R387: where a fault
takes its context, and where results land. Parts of it rest on choices and readings of the model itself, no rules of
the spec: log entries 16 and 17. -/
def Obligations.FaultsAndResults : Prop :=
  FaultsEnterHandlerServiceOrStop ∧ ResultsLandBeforeTheirBundle ∧ MeetingResultsSetWconf ∧ RecordsTrapBeforeResultsLand ∧ TrappingResultsDoNotLand

/-- R79, R81, R82: the issue of a bundle whose header is zero and which has one slot that is not all zero is the execution of
that slot's instruction by itself. -/
def Sys2Proof.Claims.OneSlotBundlesRunTheirInstruction : Prop :=
  ∀ (s u : State) (k c : Nat) (w : BitVec 256) (i : Instr),
    s.focus = .core k → s.issuer k = some c → s.boundary k c = .go u → u.fetch k c (u.ctx k c).pc = .ok w →
      soleInstr w (u.ctx k c) = some i → exec (.bundleIssue k) s = exec i s

/-- R80, R82, R85, R86, R129: the next bundle of a core: a fetch that faults and a header with KIND 3 or a reserved bit take
their trap; an all-zero bundle that ends a loop level counts its pass, and goes back to the level's start or, after the last
pass, on with the level inactive. -/
def Sys2Proof.Claims.BundleIssueTakesTheNextBundle : Prop :=
  ∀ (s u : State) (k c : Nat),
    s.issuer k = some c → s.boundary k c = .go u → (u.ctx k c).drain = none → (u.ctx k c).start = 0 →
      (∀ e, u.fetch k c (u.ctx k c).pc = .fault e →
        exec (.bundleIssue k) s = .next ((u.modCtx k c id).raise k c (Trap.atIssue e (u.ctx k c).pc (u.ctx k c).pc 0))) ∧
      (∀ w, u.fetch k c (u.ctx k c).pc = .ok w → (bundleHead w).extractLsb' 0 2 = 3 →
        exec (.bundleIssue k) s = .next (((u.modCtx k c id).fetchFill k c).raise k c (Trap.atIssue .bundleKind 0 (u.ctx k c).pc 0))) ∧
      (∀ w, u.fetch k c (u.ctx k c).pc = .ok w → (bundleHead w).extractLsb' 0 2 = 0 →
        (bundleHead w).getLsbD 2 = false → (bundleHead w).extractLsb' 14 2 ≠ 0 →
        exec (.bundleIssue k) s = .next (((u.modCtx k c id).fetchFill k c).raise k c (Trap.atIssue .reservedField 0 (u.ctx k c).pc 0))) ∧
      (∀ (w : BitVec 256) (lv : BitVec 3), u.fetch k c (u.ctx k c).pc = .ok w → lv.toNat < 6 →
        w = BitVec.ofNat 256 (4 + 8 * lv.toNat) → (u.ctx k c).inHandler = false → ((u.ctx k c).loop lv).act = true →
          ∃ v, exec (.bundleIssue k) s = .next v ∧ (v.core k).seq = (u.core k).seq + 1 ∧ v.mem = u.mem ∧
            (∀ l : BitVec 3, l ≠ lv → (v.ctx k c).loop l = (u.ctx k c).loop l) ∧
            (if (((u.ctx k c).loop lv).count + 1).toNat < ((u.ctx k c).loop lv).bound.toNat then
              (v.ctx k c).loop lv = { (u.ctx k c).loop lv with count := ((u.ctx k c).loop lv).count + 1 } ∧
                (v.ctx k c).pc = ((u.ctx k c).loop lv).start.setWidth 64 <<< 5
            else (v.ctx k c).loop lv = { (u.ctx k c).loop lv with count := ((u.ctx k c).loop lv).count + 1, act := false } ∧
                (v.ctx k c).pc = (u.ctx k c).pc + 32))

/-- R36: a yield bundle with no slots first issues fill bundles while results of its context are in flight; then it issues,
and its context becomes READY at the next bundle. One whose `fwait` is not satisfied parks: no slot issues and the context
waits. -/
def Sys2Proof.Claims.YieldGivesUpTheCore : Prop :=
  ∀ (s u : State) (k c : Nat) (w : BitVec 256),
    s.issuer k = some c → s.boundary k c = .go u → s.fetch k c (s.ctx k c).pc = .ok w → (u.ctx k c).drain = none →
      (u.ctx k c).start = 0 → (u.ctx k c).parked = false → (u.ctx k c).taken = none → (u.ctx k c).timedOut = false →
      (u.ctx k c).inHandler = false → u.fetch k c (u.ctx k c).pc = .ok w →
      (w = 1 → (u.ctx k c).flights ≠ [] → exec (.yield k) s = .next (((u.modCtx k c id).fetchFill k c).fillBundle k c)) ∧
      (w = 1 → (u.ctx k c).flights = [] →
        ∃ v, exec (.yield k) s = .next v ∧ (v.ctx k c).st = .ready ∧ (v.ctx k c).readyAt = u.timebase.toNat ∧
          (v.ctx k c).pc = (u.ctx k c).pc + 32 ∧ (v.core k).run = none ∧ (v.core k).lastIssued = some c ∧ v.mem = u.mem) ∧
      (∀ f n sc, (bundleHead w).extractLsb' 0 14 = 1 → (bundleHead w).extractLsb' 14 2 = 0 → (u.ctx k c).flights = [] →
        slotWord w (u.ctx k c) 6 = some (.ok (.fwait f n sc)) → (u.core k).flag f < countOf (u.ctx k c) n →
        ∃ v, exec (.yield k) s = .next v ∧ (v.ctx k c).st = .waiting ∧ (v.ctx k c).parked = true ∧
          (v.ctx k c).pc = (u.ctx k c).pc ∧ (v.core k).run = none ∧ (v.core k).flags = (u.core k).flags ∧ v.mem = u.mem)

/-- R37, R307: with no context running, the core selects a READY context: with none past the ageing limit and no timed-out
wait, one of highest PRIO, the first round-robin after the last that issued. It runs, and its snapshot replays; with none
READY nothing happens. -/
def Sys2Proof.Claims.SelectionTakesTheFirstReady : Prop :=
  ∀ (s : State) (k : Nat), (s.core k).run = none →
    (∀ c, c < 8 → (s.ctx k c).timedOut = false) →
      ((∀ c, c < 8 → (s.ctx k c).st ≠ .ready) → exec (.contextSelect k) s = .next s) ∧
      (∀ c, c < 8 → (s.ctx k c).st = .ready → (s.ctx k c).declined = none → (s.ctx k c).pend = false →
        (∀ d, d < 8 → (s.ctx k d).st = .ready →
          s.timebase.toNat - (s.ctx k d).readyAt ≤ Tab.get 0x1000 (s.die (k / 48)).disp.yage (k % 48 / 4)) →
        (∀ l, (s.core k).lastIssued = some l → l < 8) →
        (∀ d, d < 8 → d ≠ c → (s.ctx k d).st = .ready → (s.ctx k d).prio.toNat < (s.ctx k c).prio.toNat ∨
          (s.ctx k d).prio = (s.ctx k c).prio ∧ turnOf (s.core k) c < turnOf (s.core k) d) →
          exec (.contextSelect k) s = .next (State.modCore
            (s.modCtx k c fun x => { x with st := .running, flights := x.flights ++ x.snapshot, snapshot := [] })
            k fun q => { q with run := some c, hold := none })) ∧
      (∀ c, c < 8 → (s.ctx k c).st = .ready →
        Tab.get 0x1000 (s.die (k / 48)).disp.yage (k % 48 / 4) < s.timebase.toNat - (s.ctx k c).readyAt →
        (s.ctx k c).declined = none → (s.ctx k c).pend = false →
        (∀ d, d < 8 → d ≠ c → (s.ctx k d).st = .ready → (s.ctx k c).readyAt < (s.ctx k d).readyAt) →
          ∃ u, exec (.contextSelect k) s = .next u ∧ (u.core k).run = some c ∧ (u.ctx k c).st = .running)

/-- R36, R37, R79, R80, R81, R82, R85, R86, R129, R307: the issue of a bundle, a yield, and the selection of a context.
Parts of it rest on choices and readings of the model itself, no rules of the spec: log entries 9 and 16. -/
def Obligations.BundlesAndSelections : Prop :=
  OneSlotBundlesRunTheirInstruction ∧ BundleIssueTakesTheNextBundle ∧ YieldGivesUpTheCore ∧ SelectionTakesTheFirstReady

/-- R32, R33, R122, R158, R167, R209, R222: a stalled bundle tries again as a whole when what it waits for may have come; a
core that does not stall for it is left alone. -/
def Sys2Proof.Claims.StalledBundlesTryAgain : Prop :=
  ∀ (s : State) (k : Nat) (h : Hold) (i : Instr), RetryOf k h i →
    ((s.core k).hold = some h → exec i s = exec (.bundleIssue k) s) ∧
    ((s.core k).hold = none → exec i s = .next s) ∧
    (∀ c, s.issuer k = some c → (s.core k).hold = none → (s.ctx k c).start = 0 → (s.ctx k c).phase = .exitFill →
      (s.ctx k c).haltReq = false → (∀ x ∈ (s.core k).ctxs, x.2.flights = []) →
        exec i s = .next s ∧ ∃ u, exec (.bundleIssue k) s = .next u ∧ (u.ctx k c).st = .idle)

/-- R30, R122, R158, R167, R209, R222: the stalled bundle of one instruction whose wait is over completes with the event: a flag
wait takes its count, a ring access reads its slot, a global load leaves its value (that it is the value at issue, by the
translation that it then leaves cached, is the model's choice, log entries 8 and 41), a Mint command and a transfer enter the
queue and the pool. -/
def Sys2Proof.Claims.RetriesComplete : Prop :=
  ∀ (s t u : State) (k c : Nat) (w : BitVec 256) (i : Instr),
    Issuing s k c t → s.boundary k c = .go u → u.fetch k c (u.ctx k c).pc = .ok w → soleInstr w (u.ctx k c) = some i →
      (∀ f n sc, i = .fwait f n sc → (s.core k).hold = some .sync → (t.ctx k c).timedOut = false → (t.ctx k c).taken = none →
        countOf (t.ctx k c) n ≤ (t.core k).flag f →
          ∃ v, exec (.syncWaitComplete k) s = .next (State.fallThrough v k c []) ∧ Taken t v k f (countOf (t.ctx k c) n)) ∧
      (∀ y, i = .vrd y → (s.core k).hold = some (.ring (vectorSlot y)) → (t.ctx k c).inHandler = false → formatsAccepted t y →
        (t.ctx k c).guard y.g = true → ringFault y (t.slotView k c (vectorSlot y)) ((t.core k).ring y.w.ring) true = none →
        y.w.imm1.toNat + 1 ≤ ((t.core k).ring y.w.ring).fill.toNat → (t.core k).poison = [] →
          ∃ l, exec (.ringAccessResume k) s =
            .next (t.fallThrough k c [t.result k c (vectorSlot y) 5 (.v y.vd y.w.gmask) (.lanes l)])) ∧
      (∀ g rd ra imm n signed l direct, loadForm i = some (g, rd, ra, .gv, imm, n, signed) →
        (s.core k).hold = some .global → (t.ctx k c).guard g = true →
        t.ctxSpan k c .read (ea (t.ctx k c) ra imm) n = .ok l direct → Unfenced t k c → t.poisonedAny (.core k) l = false →
          exec (.globalAccessComplete k) s = .next ((filled t k c (ea (t.ctx k c) ra imm) n).fallThrough k c
            [t.result k c 0 1 (.x rd) (.dword (loaded signed (l.map (t.coreByte k))))])) ∧
      (∀ g op mp, mintForm i = some (g, op, mp) → (s.core k).hold = some .mintQueue → (t.ctx k c).inHandler = false →
        (t.ctx k c).guard g = true → mintFeatures t op →
        op.check (t.core k) (t.ctx k c) (mintParams (t.ctx k c) op mp) (t.accepted 2) = none →
        (∀ n, (t.ctx k c).card = some n → t.mintUnclaimed k n = false) → (t.core k).mint.queue.length < 32 →
          exec (.mintQueueEntryFree k) s = .next (State.fallThrough
            (t.modCore k fun q => { q with mint := Queued q (t.ctx k c) c op (mintParams (t.ctx k c) op mp) }) k c [])) ∧
      (∀ slot g j feat l, commandForm (t.ctx k c) i = some (slot, g, j, feat) → (s.core k).hold = some .pool →
        (t.ctx k c).inHandler = false → (∀ n, feat = some n → t.accepted n = true) → (t.ctx k c).guard g = true →
        CommandPasses t (partyOfCtx t k c) j l → HasRoom (t.core k) j →
          ∃ v, exec (.transferPoolFree (.core k)) s = .next (v.fallThrough k c []) ∧
            AcceptedTransfer t v (partyOfCtx t k c) j l)

/-- R32, R35: a parked context whose flag has reached its count, with no waiter of higher rank for that flag ready, takes the
count and becomes READY; short of the count it stays WAITING. -/
def Sys2Proof.Claims.ParkedWaitsAreSatisfied : Prop :=
  ∀ (s : State) (k c : Nat) (f : BitVec 5) (n : Cnt) (sc : Scope),
    (s.ctx k c).st = .waiting → (s.ctx k c).parked = true → (s.ctx k c).timedOut = false → (s.ctx k c).taken = none →
      s.yInstr k c = some (.fwait f n sc) →
        (countOf (s.ctx k c) n ≤ (s.core k).flag f → rankedFirst (s.core k) f (s.beforeParked k c) = false →
          ∃ u, exec (.waitSatisfied k c) s = .next u ∧ (u.ctx k c).st = .ready ∧ (u.ctx k c).readyAt = s.timebase.toNat ∧
            (u.core k).flag f = (s.core k).flag f - countOf (s.ctx k c) n ∧
            (u.ctx k c).taken = some (f, countOf (s.ctx k c) n) ∧
            (∀ e : BitVec 5, e ≠ f → (u.core k).flag e = (s.core k).flag e) ∧ u.mem = s.mem) ∧
        ((s.core k).flag f < countOf (s.ctx k c) n → exec (.waitSatisfied k c) s = .next s)

/-- R33, R222, R227, R293, R299: a wait that has lasted longer than the limit of its card: a parked context is marked to be
selected next, a hand stops with Sync-Timeout, and a stalled `fwait` takes Sync-Timeout with its flag as trap value; a wait
within the limit, or of a card without one, is left alone. -/
def Sys2Proof.Claims.WaitsTimeOut : Prop :=
  ∀ (s : State) (k c : Nat) (r : Role) (limit since : Nat),
    ((s.cardOf k c).wdwait = some limit → (s.ctx k c).st = .waiting → (s.ctx k c).parked = true →
      (s.ctx k c).timedOut = false →
        (limit < s.timebase.toNat - (s.ctx k c).waitAt →
          exec (.syncTimeout (.parked k c)) s = .next (s.modCtx k c fun x => { x with timedOut := true })) ∧
        (s.timebase.toNat - (s.ctx k c).waitAt ≤ limit → exec (.syncTimeout (.parked k c)) s = .next s)) ∧
    ((s.card (((s.hand k r).card).getD 0)).wdwait = some limit → (s.hand k r).running = true →
      (s.hand k r).waitAt = some since →
        (limit < s.timebase.toNat - since →
          exec (.syncTimeout (.hand k r)) s = .next (handStops s k r .syncTimeout (s.hand k r).waitTval)) ∧
        (s.timebase.toNat - since ≤ limit → exec (.syncTimeout (.hand k r)) s = .next s)) ∧
    ((s.cardOf k c).wdwait = none → exec (.syncTimeout (.parked k c)) s = .next s) ∧
    (∀ t u w f n sc, Issuing s k c t → s.boundary k c = .go u → u.fetch k c (u.ctx k c).pc = .ok w →
      soleInstr w (u.ctx k c) = some (.fwait f n sc) → (s.core k).hold = some .sync → (s.cardOf k c).wdwait = some limit →
      (t.ctx k c).taken = none → (t.core k).flag f < countOf (t.ctx k c) n →
        (limit < s.timebase.toNat - (s.ctx k c).waitAt →
          exec (.syncTimeout (.core k)) s = .next (t.slotFault k c 6 .syncTimeout (f.setWidth 64))) ∧
        (s.timebase.toNat - (s.ctx k c).waitAt ≤ limit → exec (.syncTimeout (.core k)) s = .next s))

/-- R30, R32, R33, R35, R122, R158, R167, R209, R222, R227, R293, R299: how a stalled bundle or a parked wait goes on, and
how it ends. Parts of it rest on choices and readings of the model itself, no rules of the spec: log entries 8, 23 and
41. -/
def Obligations.StallsAndParkedWaits : Prop :=
  StalledBundlesTryAgain ∧ RetriesComplete ∧ ParkedWaitsAreSatisfied ∧ WaitsTimeOut

/-- R278 to R280: the oldest committed store to its bytes performs: at die scope its bytes stand in the L2 of its die and
memory is unchanged; at module scope, or where no L2 may hold them, memory has them and the store is gone, and no other byte of memory
changes but where a die writes its dirty bytes back; a store waits for a channel that a row unit holds, its request pending there (R323), and for a domain in
RETENTION (R379), and so does the write-back of a line. A dirty line of
an L2 that performs at module scope is in memory. -/
def Sys2Proof.Claims.StoresPerform : Prop :=
  ∀ (s : State) (k n d a : Nat) (p : PStore) (sc : Scope),
    ((s.core k).stores[n]? = some p → p.level = .core → s.poison = [] → (p.bytes.map Prod.fst).Nodup → k < 96 →
      (∀ q ∈ (s.core k).stores, q ≠ p → q.meets p.bytes = false) → (∀ q ∈ (s.core k).stores, q.ord = p.ord → q = p) →
      p.bytes ≠ [] → (s.core k).stores.Nodup →
        ((sc = .yard ∨ sc = .die) → p.direct = false →
          ∃ u, exec (.globalStorePerform (.pending k n) sc) s = .next u ∧ u.mem = s.mem ∧
            (∀ b ∈ p.bytes, u.dieByte (dieOf k) b.1 = b.2) ∧
            ∀ x, x ∉ p.bytes.map Prod.fst → u.dieByte (dieOf k) x = s.dieByte (dieOf k) x) ∧
        ((sc = .module ∨ sc = .system ∨ (sc ≠ .core ∧ p.direct = true)) →
          (∀ w, s.busyFor (p.bytes.map Prod.fst) = some w →
            exec (.globalStorePerform (.pending k n) sc) s = .next (s.awaitDomain (dieOf k) (some w))) ∧
          (s.busyFor (p.bytes.map Prod.fst) = none →
          ∃ u, exec (.globalStorePerform (.pending k n) sc) s = .next u ∧ p ∉ (u.core k).stores ∧
            (∀ b ∈ p.bytes, u.mem.read b.1 = b.2) ∧
            ∀ x, x ∉ p.bytes.map Prod.fst → (∀ e, (s.die e).dirty x = none) → u.mem.read x = s.mem.read x)) ∧
        exec (.globalStorePerform (.pending k n) .core) s = .next s) ∧
    (∀ w, (s.die d).l2.map Prod.fst = [a] → (sc = .module ∨ sc = .system) → s.busyFor [a] = some w →
      exec (.globalStorePerform (.dirty d a) sc) s = .next (s.awaitDomain d (some w))) ∧
    (∀ v, d < 2 → (s.die d).l2 = [(a, v)] → (sc = .module ∨ sc = .system) → s.busyFor [a] = none →
      ∃ u, exec (.globalStorePerform (.dirty d a) sc) s = .next u ∧ u.mem.read a = v ∧ (u.die d).l2 = [] ∧
        ∀ x, x ≠ a → (∀ e, (s.die e).dirty x = none) → u.mem.read x = s.mem.read x)

/-- R302: an engine record reaches its context: into one of its eight entries, or, with all of them taken, it is lost and
counted; one with TRAP makes a record pending and a WAITING context READY. A record for an IDLE context goes to its card's
report. -/
def Sys2Proof.Claims.EngineRecordsReachTheirContext : Prop :=
  ∀ (s : State) (n k c card : Nat) (r : EngRec), s.recQueue[n]? = some (card, k, c, r) →
    ((s.ctx k c).st = .idle ∨ (s.ctx k c).card ≠ some card →
      ∃ u, exec (.engineRecordDelivery n) s = .next u ∧ u.recQueue = s.recQueue.eraseIdx n ∧ u.ctx k c = s.ctx k c ∧
        Tab.get [] u.cardRecs card = Tab.get [] s.cardRecs card ++ [(k, c, r)]) ∧
    ((s.ctx k c).st ≠ .idle → (s.ctx k c).card = some card →
      ∃ u, exec (.engineRecordDelivery n) s = .next u ∧ u.recQueue = s.recQueue.eraseIdx n ∧ u.mem = s.mem ∧
        (u.ctx k c).records =
          (if (s.ctx k c).records.length < 8 then (s.ctx k c).records ++ [r] else (s.ctx k c).records) ∧
        (u.ctx k c).lost =
          (if (s.ctx k c).records.length < 8 then (s.ctx k c).lost else min 255 ((s.ctx k c).lost + 1)) ∧
        (u.ctx k c).pend = ((s.ctx k c).pend || r.trap) ∧
        (u.ctx k c).st = (if (s.ctx k c).st = .waiting ∧ r.trap = true then .ready else (s.ctx k c).st))

/-- R278, R279, R280, R302, R323, R379: performing committed stores, and delivering engine records. Parts of it rest on
choices and readings of the model itself, no rules of the spec: log entries 41 and 43. -/
def Obligations.StoresPerformAndRecordsArrive : Prop :=
  StoresPerform ∧ EngineRecordsReachTheirContext

/-! ### The hands -/

/-- R223, R225: an RV64IMC, Zicsr, Zba or Zbb instruction that neither loads nor stores writes its result, goes on at its
next address and retires; nothing else of the module changes. `x0` stays zero. -/
def Sys2Proof.Claims.HandInstructionsWriteTheirResult : Prop :=
  ∀ (s : State) (k : Nat) (r : Role) (i : RvOp) (form : RvForm) (rd : Reg) (v pc : Dword),
    HandRuns s k r → rvValue s k r (s.hand k r) (formBytes form) i = some (rd, v, pc) →
      exec (.handRvInstruction i form) s = .next (handDone s k r rd v pc) ∧
      ((handDone s k r rd v pc).hand k r).readX rd = (if rd = 0 then 0 else v) ∧
      ∀ x, x ≠ rd → ((handDone s k r rd v pc).hand k r).readX x = (s.hand k r).readX x

/-- R224, R227: a load of a hand reads its instruction store or its data scratch, zero- or sign-extended; a store writes the
scratch alone; an access that leaves its row of the map, or any store elsewhere, stops the hand with Buffer-Bounds and the
address, and changes no byte. -/
def Sys2Proof.Claims.HandMemoryAccess : Prop :=
  ∀ (s : State) (k : Nat) (r : Role) (form : RvForm) (rd rs1 rs2 : Reg) (imm : BitVec 12) (lo : RvLoad) (so : RvStore) (a : Dword),
    HandRuns s k r → a = (s.hand k r).readX rs1 + imm.signExtend 64 →
      (inInstrs a (loadSize lo) ∨ inScratch a (loadSize lo) →
        exec (.handRvInstruction (.load lo rd rs1 imm) form) s =
          .next (handDone s k r rd
            (rvLoaded lo ((List.range (loadSize lo)).map fun j => handByte (s.hand k r) (a.toNat + j)))
            ((s.hand k r).pc + formBytes form))) ∧
      (¬ inInstrs a (loadSize lo) → ¬ inScratch a (loadSize lo) →
        exec (.handRvInstruction (.load lo rd rs1 imm) form) s = .next (handStops s k r .bufferBounds a)) ∧
      (inScratch a (storeSize so) →
        ∃ m, exec (.handRvInstruction (.store so rs1 rs2 imm) form) s =
            .next (handDone (s.modHand k r fun h => { h with dmem := m }) k r 0 0 ((s.hand k r).pc + formBytes form)) ∧
          ∀ b, m.read b =
            if a.toNat - 0x10000 ≤ b ∧ b < a.toNat - 0x10000 + storeSize so then
              ((s.hand k r).readX rs2).extractLsb' (8 * (b - (a.toNat - 0x10000))) 8
            else (s.hand k r).dmem.read b) ∧
      (¬ inScratch a (storeSize so) →
        exec (.handRvInstruction (.store so rs1 rs2 imm) form) s = .next (handStops s k r .bufferBounds a))

/-- R223, R224, R225, R227: the RV64 instructions of the hands. Parts of it rest on choices and readings of the model
itself, no rules of the spec: log entry 32. -/
def Obligations.HandInstructionsAndMemoryAccess : Prop :=
  HandInstructionsWriteTheirResult ∧ HandMemoryAccess

/-- R224, R227: `ecall` stops the hand with Software-Trap; `mret`, `sret` and `wfi` with Privilege; `ebreak` with Breakpoint
where its card's kernel enables breakpoints, and else has no effect; the RISC-V `fence` has none. -/
def Sys2Proof.Claims.HandEnvironmentInstructions : Prop :=
  ∀ (s : State) (k : Nat) (r : Role) (form : RvForm) (op : RvPriv) (imm : BitVec 12) (rs1 rd : Reg),
    HandRuns s k r →
      exec .handEcall s = .next (handStops s k r .softwareTrap 0) ∧
      exec (.handPrivileged op) s = .next (handStops s k r .privilege 0) ∧
      ((s.card (((s.hand k r).card).getD 0)).brken = true → exec (.handEbreak form) s = .next (handStops s k r .breakpoint 0)) ∧
      ((s.card (((s.hand k r).card).getD 0)).brken = false →
        exec (.handEbreak form) s = .next (handDone s k r 0 0 ((s.hand k r).pc + formBytes form))) ∧
      exec (.handRvFence imm rs1 rd) s = .next (handDone s k r 0 0 ((s.hand k r).pc + 4))

/-- R229: `h.dcmd` and `h.tcmd` issue the syllable in their source register, whose OP each of them limits, whose upper half
and guard must be zero, and whose command passes the checks of R208: it enters the core's transfers with the hand as its
issuer, and its identifier goes to `rd`. With no room the hand stalls. Another OP is Illegal-Encoding; a command issued with
a non-zero upper half is Reserved-Field; one that needs a feature that is not accepted, Feature-Not-Accepted with its FEAT
bit. -/
def Sys2Proof.Claims.HandCommandsEnterTheTransferPool : Prop :=
  ∀ (s : State) (k : Nat) (r : Role) (rd rs1 : Reg) (v : Dword) (op : Nat) (i : Instr) (w : Instr) (lo hi : Nat),
    HandRuns s k r → v = (s.hand k r).readX rs1 → op = (v.extractLsb' 26 6).toNat →
      (i = .hDcmd rd rs1 ∧ lo = 3 ∧ hi = 9 ∨ i = .hTcmd rd rs1 ∧ lo = 10 ∧ hi = 13) →
      (op < lo ∨ hi < op → exec i s = .next (handStops s k r .illegalEncoding 0)) ∧
      (∀ g j feat, lo ≤ op → op ≤ hi → decodeC false (v.extractLsb' 0 32) = .ok w →
        issueOf w (s.hand k r).readX (s.hand k r).wrec = some (g, j, feat) →
          (v.extractLsb' 32 32 ≠ 0 → exec i s = .next (handStops s k r .reservedField 0)) ∧
          (∀ n, v.extractLsb' 32 32 = 0 → g.pg = 0 → g.inv = false → feat = some n → s.accepted n = false →
            exec i s = .next (handStops s k r .featureNotAccepted (BitVec.ofNat 64 n))) ∧
          (∀ l, v.extractLsb' 32 32 = 0 → g.pg = 0 → g.inv = false → (∀ n, feat = some n → s.accepted n = true) →
            CommandPasses s (s.handParty k r) j l →
              (HasRoom (s.core k) j → ∃ u, AcceptedTransfer s u (s.handParty k r) j l ∧
                exec i s = .next (handDone
                  (u.modHand k r fun h => { h with issued := h.issued ++ [(j.ch, ((s.core k).chan j.ch).next)] }) k r rd
                  ((s.core k).chan j.ch).next ((s.hand k r).pc + 4))) ∧
              (¬ HasRoom (s.core k) j → exec i s = .next s)))

/-- R203, R204, R219, R220, R226, R230, R232, R283: the hand's own window records, its reads of a channel and of a descriptor, its
posts, before which, at a wider scope than its core, the stores that it has acquired perform at that scope (or it stalls until
they can), and its end. Which field a report of `wchk` names, and that NOTE is not looked at, is the model's choice (log entry
46). -/
def Sys2Proof.Claims.HandRecordsReadsAndEnd : Prop :=
  ∀ (s : State) (k : Nat) (r : Role) (rd rs1 : Reg) (w : BitVec 2) (f : BitVec 4) (ch h : BitVec 4) (sel : BitVec 2)
    (half : Bool) (fl : BitVec 5) (sc : Scope) (status : BitVec 8),
    HandRuns s k r →
      (∃ v : BitVec 768,
        exec (.hWset w f rs1) s = .next
          (handDone (s.modHand k r fun x => { x with w := Tab.put x.w w.toNat v }) k r 0 0 ((s.hand k r).pc + 4)) ∧
        ∀ b, b < 768 → v.getLsbD b =
          if (wsetBits f.toNat).1 ≤ b ∧ b < (wsetBits f.toNat).1 + (wsetBits f.toNat).2 then
            ((s.hand k r).readX rs1).getLsbD (b - (wsetBits f.toNat).1)
          else ((s.hand k r).wrec w).getLsbD b) ∧
      exec (.hWchk rd w) s = .next
        (handDone s k r rd (wchkReport ((s.hand k r).wrec w) (s.accepted 3) (s.patron k r)) ((s.hand k r).pc + 4)) ∧
      exec (.hDlow rd ch sel) s = .next
        (handDone s k r rd
          (if sel = 0 then ((s.core k).chan ch.toNat).low
            else if sel = 1 then ((s.core k).chan ch.toNat).next else (s.core k).dshc) ((s.hand k r).pc + 4)) ∧
      exec (.hRget rd h half) s = .next
        (handDone s k r rd (((s.core k).ring h).pack.extractLsb' (if half then 64 else 0) 64) ((s.hand k r).pc + 4)) ∧
      (∃ q, exec (.hFpost fl rs1 .core) s = .next (handDone (s.setCore k q) k r 0 0 ((s.hand k r).pc + 4)) ∧
        Posted (s.core k) q fl ((s.hand k r).readX rs1).toNat (s.tookNow k fl)) ∧
      (sc ≠ .core →
        (∀ a, s.storesWait k (decide (3 ≤ sc.rank)) (s.hand k r).acquired = some a →
          exec (.hFpost fl rs1 sc) s = .next (s.awaitDomain (dieOf k) (some a))) ∧
        (s.storesWait k (decide (3 ≤ sc.rank)) (s.hand k r).acquired = none →
          ∃ u q, exec (.hFpost fl rs1 sc) s = .next (handDone (u.setCore k q) k r 0 0 ((s.hand k r).pc + 4)) ∧
            u = s.performWhere k (decide (3 ≤ sc.rank)) (s.hand k r).acquired ∧
            (∀ p ∈ (u.core k).stores, p.ord < (s.hand k r).acq → p.performedAt sc = true) ∧
            Posted (u.core k) q fl ((s.hand k r).readX rs1).toNat (u.tookNow k fl))) ∧
      exec (.hExit status) s = .next
        (handDone (s.modHand k r fun x => { x with running := false, status := some status }) k r 0 0 ((s.hand k r).pc + 4))

/-- R26 to R28, R231, R232: the waits and advances of a hand: on a channel by count or by identifier, on a ring that names
the hand, on a flag (which they then subtract from), and `h.fence`, which waits for every command that the hand has issued.
A satisfied wait on a flag or for a ring's consumer acquires what the contexts of its core have stored (the model's choice, log
entry 41). Unsatisfied, they stall the hand; a wait on a flag with n = 0 completes at once, whoever else waits; a breach of R28
stops the hand with Ring-Protocol: the wrong party, a ring that is not valid or past the end of its stream, a wait or an advance
for more slots than the ring has, an advance past the filled or the free slots. -/
def Sys2Proof.Claims.HandWaitsAndAdvances : Prop :=
  ∀ (s : State) (k : Nat) (r : Role) (rd rs1 : Reg) (ch h : BitVec 4) (fl : BitVec 5) (sc : Scope) (n : Nat) (c : Chan)
    (g : Ring) (pc : Dword),
    HandRuns s k r → n = ((s.hand k r).readX rs1).toNat → c = (s.core k).chan ch.toNat → g = (s.core k).ring h →
      pc = (s.hand k r).pc + 4 →
      exec (.hDwait ch rs1 sc) s = .next (if (c.next - c.low).toNat ≤ n then handDone s k r 0 0 pc else handWaits s k r) ∧
      exec (.hDwaitId ch rs1 sc) s = .next (if n < c.low.toNat then handDone s k r 0 0 pc else handWaits s k r) ∧
      (HandConsumes g r → n ≤ g.slots.toNat + 1 →
        (consumerReady g n → exec (.hRwaitC rd h rs1) s = .next
          (handDone (s.modHand k r fun x => { x with acq := (s.core k).storeCtr }) k r rd (consumerReport g n) pc)) ∧
        (¬ consumerReady g n → exec (.hRwaitC rd h rs1) s = .next (handWaits s k r)) ∧
        (n ≤ g.fill.toNat → ∃ g', Consumed g g' n ∧
          exec (.hRadvC h rs1) s = .next (handDone (s.modCore k fun q => q.setRing h g') k r 0 0 pc))) ∧
      (HandProduces g r → n ≤ g.slots.toNat + 1 →
        (n + g.fill.toNat ≤ g.slots.toNat + 1 ∨ n = 0 → exec (.hRwaitP h rs1) s = .next (handDone s k r 0 0 pc)) ∧
        (g.slots.toNat + 1 < n + g.fill.toNat → n ≠ 0 → exec (.hRwaitP h rs1) s = .next (handWaits s k r)) ∧
        (n + g.fill.toNat ≤ g.slots.toNat + 1 → ∃ g', Produced g g' n ∧ g'.eosp = g.eosp ∧ g'.eosSlot = g.eosSlot ∧
          exec (.hRadvP h rs1) s = .next (handDone (s.modCore k fun q => q.setRing h g') k r 0 0 pc))) ∧
      (HandProduces g r → g.fill.toNat ≤ g.slots.toNat → ∃ g', Produced g g' 1 ∧ g'.eosp = true ∧
        g'.eosSlot = some g.tail.toNat ∧
        exec (.hRadvEos h) s = .next (handDone (s.modCore k fun q => q.setRing h g') k r 0 0 pc)) ∧
      (¬ HandConsumes g r ∨ g.slots.toNat + 1 < n →
        exec (.hRwaitC rd h rs1) s = .next (handStops s k r .ringProtocol (h.setWidth 64)) ∧
        exec (.hRadvC h rs1) s = .next (handStops s k r .ringProtocol (h.setWidth 64))) ∧
      (g.fill.toNat < n → exec (.hRadvC h rs1) s = .next (handStops s k r .ringProtocol (h.setWidth 64))) ∧
      (g.slots.toNat + 1 < n → exec (.hRwaitP h rs1) s = .next (handStops s k r .ringProtocol (h.setWidth 64))) ∧
      (g.slots.toNat + 1 < n + g.fill.toNat →
        exec (.hRadvP h rs1) s = .next (handStops s k r .ringProtocol (h.setWidth 64))) ∧
      (g.slots.toNat + 1 ≤ g.fill.toNat →
        exec (.hRadvEos h) s = .next (handStops s k r .ringProtocol (h.setWidth 64))) ∧
      (¬ HandProduces g r →
        exec (.hRwaitP h rs1) s = .next (handStops s k r .ringProtocol (h.setWidth 64)) ∧
        exec (.hRadvP h rs1) s = .next (handStops s k r .ringProtocol (h.setWidth 64)) ∧
        exec (.hRadvEos h) s = .next (handStops s k r .ringProtocol (h.setWidth 64))) ∧
      (n ≤ (s.core k).flag fl → n = 0 ∨ rankedFirst (s.core k) fl (s.beforeHand k r) = false →
        ∃ u, Taken s u k fl n ∧
          exec (.hFwait fl rs1 sc) s = .next
            (handDone (u.modHand k r fun x => { x with acq := (s.core k).storeCtr }) k r 0 0 pc)) ∧
      (n ≤ (s.core k).flag fl → n ≠ 0 → rankedFirst (s.core k) fl (s.beforeHand k r) = true →
        exec (.hFwait fl rs1 sc) s = .next (handWaits s k r)) ∧
      ((s.core k).flag fl < n → exec (.hFwait fl rs1 sc) s = .next (handWaits s k r)) ∧
      ((∀ x ∈ (s.hand k r).issued, (s.core k).findTransfer x.1 x.2 = none) →
        exec (.hFence sc) s = .next (handDone (s.modHand k r fun x => { x with issued := [] }) k r 0 0 pc)) ∧
      ((∃ x ∈ (s.hand k r).issued, (s.core k).findTransfer x.1 x.2 ≠ none) → exec (.hFence sc) s = .next s)

/-- R26, R27, R28, R203, R204, R219, R220, R224, R226, R227, R230, R231, R232, R283: the other instructions that are the
hand's own. Parts of it rest on choices and readings of the model itself, no rules of the spec: log entries 23, 32, 41
and 46. -/
def Obligations.HandRecordsWaitsAndEnd : Prop :=
  HandRecordsReadsAndEnd ∧ HandWaitsAndAdvances ∧ HandEnvironmentInstructions

/-- R209, R229: when an entry of the pool is free, the command at which a hand stalls is executed again; the agent in focus
stays. -/
def Sys2Proof.Claims.HandsTryTheirCommandAgain : Prop :=
  ∀ (s u : State) (k : Nat) (r : Role) (w : BitVec 32) (rd rs1 : Reg) (i : Instr), (s.hand k r).fetch = .ok w →
    decodeH w = .ok i → (i = .hDcmd rd rs1 ∨ i = .hTcmd rd rs1) → exec i { s with focus := .hand k r } = .next u →
      exec (.transferPoolFree (.hand k r)) s = .next { u with focus := s.focus }

/-- R208, R209, R229: the commands that a hand issues. Parts of it rest on choices and readings of the model itself, no
rules of the spec: log entry 32. -/
def Obligations.HandCommands : Prop :=
  HandCommandsEnterTheTransferPool ∧ HandsTryTheirCommandAgain

/-! ### Row units -/

/-- R242, R243, R244: the arithmetic micro-words, `ldg`, `movi`, `ldc` and `nop` write their own register from the
registers as they stood: the lanes below D of a row register, a scalar register (`s0` stays +0), the triples of an
accumulator. No other register, nothing else of the unit but its micro-PC and its count of words, and nothing of
memory changes. Parts of it rest on choices and readings of the model itself, no rules of the spec: log entry 26. -/
def Obligations.RowOperationsWriteTheirRegister : Prop :=
  ∀ (s : State) (u : UnitId) (e : RowEnv) (i : Instr), UnitRuns s u e →
    (∀ gd f, rowLanesOf e (s.unit u) i = some (gd, f) →
      ∃ r, exec i s = .next (s.setUnit u r) ∧ RowFrame r (stepped (s.unit u)) ∧
        SameRegs e r (s.unit u) (fun _ => False) (· = gd) (fun _ => False) ∧ ∀ l, l < e.d → r.lane e gd l = f l) ∧
    (∀ sd v, rowScalarOf e (s.unit u) i = some (sd, v) →
      ∃ r, exec i s = .next (s.setUnit u r) ∧ RowFrame r (stepped (s.unit u)) ∧
        SameRegs e r (s.unit u) (· = sd) (fun _ => False) (fun _ => False) ∧ r.readS sd = if sd = 0 then 0 else v) ∧
    (∀ t f, rowTriplesOf e (s.unit u) i = some (t, f) →
      ∃ r, exec i s = .next (s.setUnit u r) ∧ RowFrame r (stepped (s.unit u)) ∧
        SameRegs e r (s.unit u) (fun _ => False) (fun _ => False) (· = t) ∧ ∀ l, l < e.d → r.triple e t l = f l) ∧
    exec .rowNop s = .next (s.setUnit u (stepped (s.unit u)))

/-- R379: in a Vault that is in RETENTION the row units are stopped: no micro-word, no arrival of a shipped program's row and no
start of an item has an effect there. -/
def Sys2Proof.Claims.RetentionStopsRowUnits : Prop :=
  ∀ (s : State) (u : UnitId), s.unitStopped u = true →
    ((s.unit u).shipped = true → (s.unit u).pos.isSome = true → (s.unit u).rowDue.isSome = true →
      (∀ e, s.rowEnv u = some e → e.item.poss.length > ((s.unit u).pos.getD 0)) → exec (.rowSectorReadDone u) s = .next s) ∧
    (s.focus = .unit u → ∀ i, i ∈ [Instr.rowNop, .rowHalt] → exec i s = .next s) ∧
    (s.focus = .unit u → ∀ i e, s.rowEnv u = some e →
      (rowLanesOf e (s.unit u) i).isSome = true ∨ (rowScalarOf e (s.unit u) i).isSome = true ∨
        (rowTriplesOf e (s.unit u) i).isSome = true ∨ (∃ l, i = .rowBr l) ∨ (∃ sa l, i = .rowLoop sa l) ∨ (∃ l, i = .rowNext l) ∨
        (∃ g, i = .rowLdt g) ∨ (∃ g p, i = .rowLds g p) ∨ (∃ d q, i = .rowLdss d q) ∨
        (∃ row, (rowStored s e (s.unit u) row i).isSome = true) ∨ (∃ g, i = .rowEmit g) ∨ (∃ t, i = .rowEmitq t) →
        exec i s = .next s)

/-- R244, R323, R325: `br` branches; `loop` counts its scalar register down and branches unless it reaches zero; `next` takes
the weight of its next position into `s12`, requests its row and the row's state record, and holds their channels; with no
position left it branches; while a channel of that row has a turn pending or another unit's read, the unit is suspended
before `next` executes. -/
def Sys2Proof.Claims.RowControl : Prop :=
  ∀ (s : State) (u : UnitId) (e : RowEnv) (lbl : BitVec 10) (sa : BitVec 4), UnitRuns s u e →
    exec (.rowBr lbl) s = .next (s.setUnit u { stepped (s.unit u) with pc := lbl }) ∧
    (∃ r, exec (.rowLoop sa lbl) s = .next (s.setUnit u r) ∧
      r = { stepped (s.unit u) with s := r.s, pc := r.pc } ∧
      (sa ≠ 0 → r.readS sa = (s.unit u).readS sa - 1) ∧ (∀ n, n ≠ sa → r.readS n = (s.unit u).readS n) ∧
      r.pc = if (s.unit u).readS sa = 1 then (s.unit u).pc + 1 else lbl) ∧
    (e.item.poss[nextPos (s.unit u)]? = none →
      exec (.rowNext lbl) s =
        .next (s.setUnit u { stepped (s.unit u) with pc := lbl, holds := [], rowDue := none, stateDue := none })) ∧
    (∀ m, e.item.poss[nextPos (s.unit u)]? = some m →
      (¬ MayRequest s u (s.rowChans e.v e.slot m.row) →
        exec (.rowNext lbl) s = .next (s.setUnit u { s.unit u with holds := [], suspended := true })) ∧
      (MayRequest s u (s.rowChans e.v e.slot m.row) →
        ∃ r t x, exec (.rowNext lbl) s = .next (State.setUnit
            { s.rowFill e.v e.slot m.row with chansvc := x } u r) ∧
          r = { stepped (s.unit u) with
            s := r.s, pos := some (nextPos (s.unit u)), holds := s.rowChans e.v e.slot m.row
            rowDue := some t, stateDue := r.stateDue } ∧
          r.readS 12 = m.wt ∧ (∀ n, n ≠ 12 → r.readS n = (s.unit u).readS n) ∧
          ReadIsDue s e.v e.slot m.row false t ∧
          (r.stateDue = none ↔ descSsz e.desc = 0) ∧ (∀ t', r.stateDue = some t' → ReadIsDue s e.v e.slot m.row true t')))

/-- R244, R246, R334: `halt` ends the item, and its unit is free. A gather item's output is its last `emit` or `emitq`, +0 in
every element where there was none. What an update item has handed to the channels then performs, unless it read poison:
then none of it does, and the Memory-Error record with the address goes to its context. -/
def Sys2Proof.Claims.HaltEndsTheItem : Prop :=
  ∀ (s : State) (u : UnitId) (e : RowEnv), UnitRuns s u e →
    ∃ t, exec .rowHalt s = .next t ∧ (t.unit u).item = none ∧ (t.unit u).holds = [] ∧ t.mem = s.mem ∧
      (∃ y, y = { e.item with
            done := true, nanIn := (s.unit u).poison.isSome
            out := if e.upd = true then none else some ((s.unit u).out.getD (List.replicate e.d 0, false)) } ∧
        (t.vault e.v).cmds = (s.vault e.v).cmds.map fun c =>
          if c.order = e.cmd.order then { e.cmd with items := e.cmd.items.set e.it y } else c) ∧
      ((s.unit u).poison = none → (t.vault e.v).writes = (s.vault e.v).writes ∧ t.recQueue = s.recQueue) ∧
      ∀ va, (s.unit u).poison = some va →
        (t.vault e.v).writes = (s.vault e.v).writes.filter (fun w => !(decide (w.order = e.cmd.order) && decide (w.it = e.it))) ∧
        t.recQueue = s.recQueue ++ match e.cmd.by_.ctx? with
          | none => []
          | some (k, c) => [(e.cmd.card, k, c,
              { cause := .memoryError, trap := true, src := 2, ch := e.cmd.ch, id := e.cmd.id, baddr := e.cmd.baddr, pay := [va] })]

/-- R244, R246: the loads of the current row and its state record wait until its sectors are present; then they leave the
dequantised row, a state row or a state scalar in their register, as the item's own stores and those before it on its row
left it. Before the first `next` they leave +0, as does, without a wait, a state row or scalar that the table does not have. -/
def Sys2Proof.Claims.RowLoadsReadTheCurrentRow : Prop :=
  ∀ (s : State) (u : UnitId) (e : RowEnv) (gd : RowReg) (sd : BitVec 4) (p : Bool) (q : BitVec 2), UnitRuns s u e →
    (e.row (s.unit u) = none →
      exec (.rowLdt gd) s = .next (s.setUnit u ((stepped (s.unit u)).writeG gd (List.replicate e.d 0))) ∧
      exec (.rowLds gd p) s = .next (s.setUnit u ((stepped (s.unit u)).writeG gd (List.replicate e.d 0))) ∧
      exec (.rowLdss sd q) s = .next (s.setUnit u ((stepped (s.unit u)).writeS sd 0))) ∧
    (∀ row, e.row (s.unit u) = some row →
      ((s.unit u).rowDue.isSome = true → exec (.rowLdt gd) s = .next s) ∧
      ((s.unit u).stateDue.isSome = true →
        ((if p then 1 else 0) < descNsr e.desc → exec (.rowLds gd p) s = .next s) ∧
        (q.toNat < descNss e.desc → exec (.rowLdss sd q) s = .next s)) ∧
      (∀ x pz, (s.unit u).rowDue = none → s.readLanes e.v e.slot row (seenStores s e) = .ok (x, pz) →
        exec (.rowLdt gd) s = .next (s.setUnit u
          { (stepped (s.unit u)).writeG gd x with poison := (s.unit u).poison.or pz })) ∧
      (descNsr e.desc ≤ (if p then 1 else 0) →
        exec (.rowLds gd p) s = .next (s.setUnit u ((stepped (s.unit u)).writeG gd (List.replicate e.d 0)))) ∧
      (∀ x pz, (s.unit u).stateDue = none → (if p then 1 else 0) < descNsr e.desc →
        s.stateWords e row (4 * e.d * if p then 1 else 0) e.d = .ok (x, pz) →
          exec (.rowLds gd p) s = .next (s.setUnit u
            { (stepped (s.unit u)).writeG gd x with poison := (s.unit u).poison.or pz })) ∧
      (descNss e.desc ≤ q.toNat → exec (.rowLdss sd q) s = .next (s.setUnit u ((stepped (s.unit u)).writeS sd 0))) ∧
      (∀ x pz, (s.unit u).stateDue = none → q.toNat < descNss e.desc →
        s.stateWords e row (4 * e.d * descNsr e.desc + 4 * q.toNat) 1 = .ok (x, pz) →
          exec (.rowLdss sd q) s = .next (s.setUnit u
            { (stepped (s.unit u)).writeS sd (x.getD 0 0) with poison := (s.unit u).poison.or pz })))

/-- R235, R244 to R246: a store of an update item hands its bytes to the channels, to be performed later, and leaves memory as
it is; in a gather item, or before the first `next`, it has no effect. `emit` and `emitq` set a gather item's output, and
have no effect in an update item. -/
def Sys2Proof.Claims.RowStoresAndOutputs : Prop :=
  ∀ (s : State) (u : UnitId) (e : RowEnv) (i : Instr) (ga : RowReg) (t : Bool), UnitRuns s u e →
    (∀ row x, rowStored s e (s.unit u) row i = some x →
      (e.upd = false ∨ e.row (s.unit u) = none → exec i s = .next (s.setUnit u (stepped (s.unit u)))) ∧
      (∀ l, e.upd = true → e.row (s.unit u) = some row → x = .ok l →
        exec i s = .next ((s.modVault e.v fun y => y.hand e.cmd e.u e.it row l).setUnit u (stepped (s.unit u))))) ∧
    (e.upd = true → exec (.rowEmit ga) s = .next (s.setUnit u (stepped (s.unit u))) ∧
      exec (.rowEmitq t) s = .next (s.setUnit u (stepped (s.unit u)))) ∧
    (e.upd = false →
      exec (.rowEmit ga) s = .next (s.setUnit u { stepped (s.unit u) with out := some ((s.unit u).readG e.d ga, false) }) ∧
      exec (.rowEmitq t) s = .next (s.setUnit u
        { stepped (s.unit u) with out := some (((s.unit u).readT e.d t).flatMap fun x => [x.w, x.mu, x.m2], true) }))

/-- R235, R244, R245, R246, R323, R325, R334, R379: control, loads, stores and outputs of a row program. Parts of it rest
on choices and readings of the model itself, no rules of the spec: log entry 26. -/
def Obligations.RowProgramsControlAndAccess : Prop :=
  RowControl ∧ HaltEndsTheItem ∧ RowLoadsReadTheCurrentRow ∧ RowStoresAndOutputs ∧ RetentionStopsRowUnits

/-! ### Tables, channels, the Till -/

/-- R249: a started table command, the first of its channel not yet sent, reaches the Vault of its table as the youngest of
the commands there. -/
def Sys2Proof.Claims.TableCommandsArriveInOrder : Prop :=
  ∀ (s : State) (k ch id v : Nat) (t : Transfer),
    (s.core k).findTransfer ch (BitVec.ofNat 64 id) = some t → t.started = true → t.kind.isTable = true → t.sent = false →
      v = (tcTable t.recd).toNat / 8192 →
      ((s.core k).transfers.find? (fun x => decide (x.ch = ch) && x.kind.isTable && !x.sent) = some t →
        ∃ u c, exec (.tableCommandArrival k ch id) s = .next u ∧ (u.vault v).cmds = (s.vault v).cmds ++ [c] ∧
          (u.vault v).arrivals = (s.vault v).arrivals + 1 ∧ c.order = (s.vault v).arrivals ∧
          c.src = .transfer k t.ch t.id ∧ c.kind = t.kind.code ∧ c.table = tcTable t.recd ∧ c.prog = tcProg t.recd ∧
          c.nidx = tcNidx t.recd ∧ c.nbags = tcNbags t.recd ∧ c.started = false ∧ c.by_ = t.by_ ∧
          (∀ w, w ≠ v → u.vault w = s.vault w) ∧ u.mem = s.mem) ∧
      ((s.core k).transfers.find? (fun x => decide (x.ch = ch) && x.kind.isTable && !x.sent) ≠ some t →
        exec (.tableCommandArrival k ch id) s = .next s)

/-- R248 to R251, R257, R328: a command starts once no earlier one of its Vault holds it back: its lists are read and, for a
gather, its bags made of them; a prefetch queues its rows for promotion; an update looks its positions up, and its items are
made, once no row of them moves, while a record goes to its context for every index outside the table. A command whose table,
gradient list or ring is unfit ends in error. -/
def Sys2Proof.Claims.TableCommandsStart : Prop :=
  ∀ (s : State) (v n k ch : Nat) (id : Dword) (c : TblCmd),
    (s.vault v).cmds[n]? = some c → c.started = false →
      (HeldBack (s.vault v) c → exec (.tableCommandStart v n) s = .next s) ∧
      (∀ t, ¬ HeldBack (s.vault v) c → c.src = .transfer k ch id → (s.core k).findTransfer ch id = some t →
        (s.cmdBad v c (if c.kind = 1 then some (wordPlace k (t.recd.getD 3 0)) else none) = true →
          exec (.tableCommandStart v n) s = .next (s.finishCmd v c (some (.remoteError, [])))) ∧
        (∀ c' u rows, s.cmdBad v c (if c.kind = 1 then some (wordPlace k (t.recd.getD 3 0)) else none) = false →
          s.readLists v c t.recd = .ok c' → u = s.listFill v c' t.recd →
          rows = descRows ((s.vault v).desc (c.table.toNat % 8192)) →
            (c.kind = 0 → exec (.tableCommandStart v n) s = .next (u.modVault v fun x => x.putCmd
              { c' with started := true, bags := (List.range c'.nbags).map (mkBag rows c'.nidx c'.offs c'.idxs c'.wts) })) ∧
            (1 < c.kind → exec (.tableCommandStart v n) s = .next (u.modVault v fun x =>
              (c'.idxs.foldl (fun x i => if 0 ≤ i ∧ i < (rows : Int) then x.queueRow c.table i.toNat else x) x).putCmd
                { c' with started := true })) ∧
            (c.kind = 1 →
              ((∃ p ∈ inTable c' rows, (s.vault v).moving c.table (c'.idxs.getD p 0).toNat = true) →
                exec (.tableCommandStart v n) s = .next u) ∧
              ((∀ p ∈ inTable c' rows, (s.vault v).moving c.table (c'.idxs.getD p 0).toNat = false) →
                exec (.tableCommandStart v n) s = .next
                  { u.modVault v (fun x =>
                      ((inTable c' rows).foldl (fun x p => x.lookup c.table (c'.idxs.getD p 0).toNat) x).putCmd
                        { c' with started := true, items := itemsByRow c' rows }) with
                    recQueue := s.recQueue ++ (outOfTable c' rows).flatMap fun p =>
                      match c.by_.ctx? with
                      | none => []
                      | some (kc, cc) => [(c.card, kc, cc, tableRecord c .indexRange c.trap
                          [1, c.id, BitVec.ofNat 64 p, BitVec.ofInt 64 (c'.idxs.getD p 0)])] }))))

/-- R237, R252, R255, R322: an item starts on its unit, when the unit is free and not stopped (R379) and, for an update, nothing earlier is left on its
row: the unit's registers stand as at an item's start, and it runs the command's program. -/
def Sys2Proof.Claims.RowItemsStart : Prop :=
  ∀ (s : State) (v n it : Nat) (c : TblCmd) (i : Item) (u : UnitId),
    (s.vault v).cmds[n]? = some c → c.started = true → c.items[it]? = some i → unitOfItem s v c i = .ok u →
      (s.unitStopped u = true ∨ i.started = true ∨ (s.unit u).item.isSome = true ∨ ¬ RowIsFree s v c it i →
        exec (.rowItemStart v n it) s = .next s) ∧
      (s.unitStopped u = false → i.started = false → (s.unit u).item = none → RowIsFree s v c it i →
        ∃ r, exec (.rowItemStart v n it) s = .next ((s.modVault v fun x => x.putCmd
            { c with items := c.items.set it { i with started := true, unit := u } }).setUnit u r) ∧
          r.item = some (v, c.order, it) ∧ r.out = none ∧ r.poison = none ∧ r.holds = [] ∧ r.suspended = false ∧
          r.prog = some (c.prog.toNat, if c.prog = 0x10 then (s.card c.card).rowImage else []) ∧
          FreshItem r (descD ((s.vault v).desc (c.table.toNat % 8192))) i.poss.length)

/-- R252, R255, R258: a shipped program at work on the row that its unit has requested, once it is present. A pooling program
takes the row into its partial, and ends its item after the last member, which leaves the partial as the item's output, or
requests the next. An optimiser hands the new row and the new state to the channels and ends its item. -/
def Sys2Proof.Claims.ShippedProgramsServeTheirRows : Prop :=
  ∀ (s : State) (u : UnitId) (e : RowEnv) (p : Nat) (m : ItemPos),
    s.rowEnv u = some e → s.unitStopped u = false → (s.unit u).shipped = true → (s.unit u).pos = some p → e.item.poss[p]? = some m →
      (s.unit u).rowDue.isSome = true →
      (¬ Arrived s (s.unit u) → exec (.rowSectorReadDone u) s = .next s) ∧
      (Arrived s (s.unit u) →
        (∀ x pz o, e.upd = false → s.readLanes e.v e.slot m.row [] = .ok (x, pz) →
          o = pooled e.cmd.itemMode e.d ((s.unit u).out.map Prod.fst) x m.wt →
            (e.item.poss[p + 1]? = none →
              ∃ t, exec (.rowSectorReadDone u) s = .next t ∧ (t.unit u).item = none ∧ t.mem = s.mem ∧
                (t.vault e.v).cmds = (s.vault e.v).cmds.map fun c =>
                  if c.order = e.cmd.order then
                    { e.cmd with items := e.cmd.items.set e.it { e.item with
                        done := true, out := some (o, decide (e.cmd.mode = .stats))
                        nanIn := ((s.unit u).poison.or pz).isSome } }
                  else c) ∧
            (∀ m', e.item.poss[p + 1]? = some m' → MayRequest s u (s.rowChans e.v e.slot m'.row) →
              ∃ t r, exec (.rowSectorReadDone u) s = .next t ∧ t.unit u = r ∧ t.mem = s.mem ∧ r.pos = some (p + 1) ∧
                r.out = some (o, decide (e.cmd.mode = .stats)) ∧ r.poison = (s.unit u).poison.or pz ∧
                r.holds = s.rowChans e.v e.slot m'.row ∧ ∀ d, r.rowDue = some d → ReadIsDue s e.v e.slot m'.row false d)) ∧
        (∀ ra sa w, e.upd = true → m.row = (e.item.poss.head?.map (·.row)).getD 0 →
          s.rowAddrs e.v e.slot m.row false .write = .ok ra →
          (if descSsz e.desc = 0 then .ok [] else s.rowAddrs e.v e.slot m.row true .write) = .ok sa →
          w = (s.vault e.v).writes → (∀ a ∈ ra ++ sa, s.rowPoisoned w a = false) →
            ∃ t, exec (.rowSectorReadDone u) s = .next t ∧ (t.unit u).item = none ∧ t.mem = s.mem ∧
              (t.vault e.v).writes = ((s.vault e.v).hand e.cmd e.u e.it m.row (updateBytes s e.v e.cmd e.item ra sa)).writes ∧
              (t.vault e.v).cmds = (s.vault e.v).cmds.map fun c =>
                if c.order = e.cmd.order then
                  { e.cmd with items := e.cmd.items.set e.it { e.item with done := true, out := none, nanIn := false } }
                else c))

/-- R244, R250: an item that has executed 65,536 micro-words ends its command: the command leaves its Vault and its units are
free. R325: the sectors that a row program's unit awaits arrive at their time. -/
def Sys2Proof.Claims.ItemLimitsAndSectors : Prop :=
  ∀ (s : State) (u : UnitId),
    (∀ e, s.rowEnv u = some e → 65536 ≤ (s.unit u).words →
      ∃ t, exec (.itemWordLimit u) s = .next t ∧ (t.unit u).item = none ∧
        (t.vault e.v).cmds = (s.vault e.v).cmds.filter fun y => decide (y.order ≠ e.cmd.order)) ∧
    ((s.unit u).shipped = false →
      ∃ a b, exec (.rowSectorReadDone u) s = .next (s.setUnit u { s.unit u with rowDue := a, stateDue := b }) ∧
        (∀ t, a = some t ↔ (s.unit u).rowDue = some t ∧ s.timebase.toNat < t) ∧
        ∀ t, b = some t ↔ (s.unit u).stateDue = some t ∧ s.timebase.toNat < t)

/-- R237, R244, R248, R249, R250, R251, R252, R255, R257, R258, R322, R325, R328, R379: the arrival of table commands and
the start of their items. Parts of it rest on choices and readings of the model itself, no rules of the spec: log
entries 25, 26 and 48. -/
def Obligations.TableCommandsArriveAndStart : Prop :=
  TableCommandsArriveInOrder ∧ TableCommandsStart ∧ RowItemsStart ∧ ShippedProgramsServeTheirRows ∧ ItemLimitsAndSectors

/-- R252 to R254: a looked-up bag whose items are done has its output; the Vault writes it, and the token after the last where
asked, to its ring in order, one slot and one producer advance each; where the ring's descriptor was
rewritten meanwhile, the slot's bytes are open (R220). A poisoned bag's record goes to its context, at once where it traps. -/
def Sys2Proof.Claims.BagsAreCombinedAndWritten : Prop :=
  ∀ (s : State) (v n b k h : Nat) (c : TblCmd) (g : Bag) (r : Ring),
    (s.vault v).cmds[n]? = some c → c.started = true →
      (c.kind = 0 → c.bags[b]? = some g → g.looked = true → g.out = none → (∀ i ∈ c.items, i.bag = b → i.done = true) →
        ∀ o, o = bagOut c (descD ((s.vault v).desc (c.table.toNat % 8192))) g (c.items.filter fun i => decide (i.bag = b)) →
          s.slotShort c (descD ((s.vault v).desc (c.table.toNat % 8192))) o.2 = false →
            exec (.poolCombine v n b) s = .next (s.modVault v fun x => x.putCmd
              { c with
                bags := c.bags.set b
                  { g with
                    out := some o
                    nanIn := g.nanIn || (c.items.filter fun i => decide (i.bag = b)).any (·.nanIn) } })) ∧
      (c.ring = some (k, h) → h < 16 → r = (s.core k).ring (BitVec.ofNat 4 h) → VaultMayFill r →
        (c.bags[c.written]? = some g → g.out.isSome = true → g.poison = none →
          ∃ u, exec (.bagSlotWrite (.vault v) n) s = .next u ∧ u.mem = s.mem ∧
            Produced r ((u.core k).ring (BitVec.ofNat 4 h)) 1 ∧
            u.vault v = (s.vault v).putCmd { c with written := c.written + 1 } ∧
            (s.cmdSpoilt c r = false →
              u = State.modVault
                (s.modCore k fun q => (q.writeBuf r.buf (r.slotAddr r.tail.toNat) (g.bytes c.written c.id)).setRing
                  (BitVec.ofNat 4 h) ((u.core k).ring (BitVec.ofNat 4 h))) v
                (fun x => x.putCmd { c with written := c.written + 1 }))) ∧
        (∀ kc cc rec_, c.bags[c.written]? = some g → g.out.isSome = true → g.poison.isSome = true →
          c.by_.ctx? = some (kc, cc) → rec_ = tableRecord c .indexRange c.trap (g.head c.written c.id) →
          ∃ u, exec (.bagSlotWrite (.vault v) n) s = .next u ∧ u.mem = s.mem ∧
            Produced r ((u.core k).ring (BitVec.ofNat 4 h)) 1 ∧
            (c.trap = true → u.recQueue = s.recQueue ∧ u.ctx kc cc = (s.deliver c.card kc cc rec_).ctx kc cc) ∧
            (c.trap = false → u.recQueue = s.recQueue ++ [(c.card, kc, cc, rec_)])) ∧
        (c.bags.length = c.written → c.eos = true → c.written = c.nbags →
          ∃ u, exec (.bagSlotWrite (.vault v) n) s = .next u ∧ Produced r ((u.core k).ring (BitVec.ofNat 4 h)) 1 ∧
            ((u.core k).ring (BitVec.ofNat 4 h)).eosp = true))

/-- R325, R379: a handed sector may perform: no other unit's read has its channel, and its memory is not in RETENTION. -/
def MayWrite (s : State) (v : Nat) (w : RowWrite) : Prop :=
  s.awaited (64 * w.sector) = none ∧ ∀ c, (s.vault v).writeChan w = some c → s.readBusy w.unit c = false

/-- R216, R253, R256, R325, R379: the sectors that a table command has written perform one by one, the oldest of a sector first,
and none in a channel that another unit's read has or in memory in RETENTION; when none is left, a command that has done
everything it must do completes, once what its notification releases may perform: it leaves its Vault, and its transfer counts
as complete. -/
def Sys2Proof.Claims.TableCommandsComplete : Prop :=
  ∀ (s : State) (v n k ch : Nat) (id : Dword) (c : TblCmd) (t : Transfer),
    (s.vault v).cmds[n]? = some c →
      ((∃ w ∈ (s.vault v).writes, w.order = c.order ∧ (s.vault v).readyWrite w = true) →
        (∀ w ∈ (s.vault v).writes, ¬ MayWrite s v w) →
        ∃ a, exec (.tableCommandComplete v n) s = .next (s.awaitDomain (vaultDie v) a)) ∧
      ((∃ w ∈ (s.vault v).writes, w.order = c.order ∧ (s.vault v).readyWrite w = true ∧
          ∀ y ∈ (s.vault v).writes, y.sector = w.sector → MayWrite s v y) →
        ∃ u w, exec (.tableCommandComplete v n) s = .next u ∧ MayWrite s v w ∧
          (∃ z ∈ (s.vault v).writes, z.order = c.order ∧ (s.vault v).readyWrite z = true ∧ z.sector = w.sector) ∧
          (s.vault v).writes.find? (fun y => decide (y.sector = w.sector)) = some w ∧
          (u.vault v).writes = (s.vault v).writes.erase w ∧ (u.vault v).cmds = (s.vault v).cmds ∧
          ((w.bytes.map Prod.fst).Nodup → ∀ x ∈ w.bytes, u.mem.read x.1 = x.2) ∧
          ∀ a, (∀ x ∈ w.bytes, x.1 / 64 ≠ a / 64) → u.mem.read a = s.mem.read a) ∧
      ((∀ w ∈ (s.vault v).writes, w.order ≠ c.order) →
        (c.complete = false → exec (.tableCommandComplete v n) s = .next s) ∧
        (∀ w, c.complete = true → c.src = .transfer k ch id → (s.core k).findTransfer ch id = some t → s.noteWait k t = some w →
          exec (.tableCommandComplete v n) s = .next (s.awaitDomain (dieOf k) (some w))) ∧
        (c.complete = true → c.src = .transfer k ch id → (s.core k).findTransfer ch id = some t → s.noteWait k t = none →
          ∃ u, exec (.tableCommandComplete v n) s = .next u ∧ TransferGone u k ch id ∧
            (NothingToRelease s k t → u.mem = s.mem) ∧
            (u.vault v).cmds = (s.vault v).cmds.filter fun y => decide (y.order ≠ c.order)))

/-- R323, R324, R335: an ordinary request reaches a channel and calls for a turn; one begins when no unit holds the channel, for
a request or, 256 unit cycles into row service, for a scrub step; the switch takes 40 unit cycles, 64 after a row write in
the 30 before; a request starts 2 unit cycles after the one before it and completes 38 after its start; 16 unit cycles after
the last, or after 256, row service returns and suspended units resume. A unit cycle is two core cycles. -/
def Sys2Proof.Claims.ChannelsAlternate : Prop :=
  ∀ (s : State) (c : ChanId) (x : ChanSvc) (now : Nat), x = s.chan c → now = s.timebase.toNat →
    exec (.ordinaryRequestArrival c) s = .next (s.setChan c { x with pending := x.pending ++ [now] }) ∧
    (x.svc = .row → (∀ u ∈ s.units, c ∉ u.2.holds) → (x.pending ≠ [] ∨ 256 ≤ (now - x.since) / 2 ∧ x.due = true) →
      exec (.ordinaryTurnStart c) s = .next (s.setChan c { x with svc := .switching, since := now })) ∧
    ((∃ u ∈ s.units, c ∈ u.2.holds) ∨ x.pending = [] ∧ (now - x.since) / 2 < 256 →
      exec (.ordinaryTurnStart c) s = .next s) ∧
    (x.svc = .switching → s.emptied c = true → (∀ w, x.lastWrite = some w → 60 < x.since - w) → 40 ≤ (now - x.since) / 2 →
      exec (.serviceSwitchDone c) s =
        .next (s.setChan c { x with svc := .ordinary, since := now, served := 0, lastStart := none, lastDone := now })) ∧
    (∀ w, x.svc = .switching → s.emptied c = true → x.lastWrite = some w → 64 ≤ (now - x.since) / 2 →
      exec (.serviceSwitchDone c) s =
        .next (s.setChan c { x with svc := .ordinary, since := now, served := 0, lastStart := none, lastDone := now })) ∧
    (x.svc = .switching → (now - x.since) / 2 < 40 → exec (.serviceSwitchDone c) s = .next s) ∧
    (∀ w, x.svc = .switching → x.lastWrite = some w → x.since - w ≤ 60 → (now - x.since) / 2 < 64 →
      exec (.serviceSwitchDone c) s = .next s) ∧
    (∀ a l b, x.pending = a :: l → b = max (max x.since a) (match x.lastStart with | some t => t + 4 | none => 0) →
      (x.svc = .ordinary → x.served < 256 → b + 76 ≤ now →
        exec (.ordinaryRequestDone c) s = .next
          (s.setChan c { x with pending := l, served := x.served + 1, lastStart := some b, lastDone := b + 76 })) ∧
      (now < b + 76 → exec (.ordinaryRequestDone c) s = .next s)) ∧
    (x.svc = .ordinary → (x.pending = [] ∨ 256 ≤ x.served) →
      (now < x.lastDone + 32 → exec (.rowServiceReturn c) s = .next s) ∧
      (x.lastDone + 32 ≤ now →
        ∃ u, exec (.rowServiceReturn c) s = .next u ∧
          u.chan c = { x with svc := .row, since := now, served := 0, lastStart := none } ∧
          (∀ y, (u.unit y).suspended = false) ∧ u.mem = s.mem))

/-- R328, R330 to R332: while no flush is pending, a queued row whose set has a free way begins its move; with no free way its
victim's eviction begins and it stays queued; a table without a Till region forgets it. A finished promotion makes the row resident, a finished
eviction frees the way. -/
def Sys2Proof.Claims.TillMovesRows : Prop :=
  ∀ (s : State) (v n slot row way : Nat) (tid : BitVec 16) (m : TillMove),
    ((s.vault v).promo[n]? = some (tid, row) → (s.vault v).flushes = [] → slot = tid.toNat % 8192 →
      (tillEn ((s.vault v).tillEntry slot) = false ∨ tillSets ((s.vault v).tillEntry slot) = 0 →
        exec (.tillPromotion v n) s = .next (s.modVault v fun x => { x with promo := x.promo.eraseIdx n })) ∧
      (∀ l, tillEn ((s.vault v).tillEntry slot) = true → tillSets ((s.vault v).tillEntry slot) ≠ 0 →
        (s.vault v).residentWay slot row = none → (s.vault v).freeWay slot row = some way →
        s.homeAll v slot row .read = .ok l → s.rowBusy v tid row (l ++ s.tillAddrs v slot row way) = false →
        (s.vault v).moving tid row = false →
          exec (.tillPromotion v n) s = .next (s.modVault v fun x =>
            { x with
              promo := x.promo.eraseIdx n
              moves := x.moves ++ [{ table := tid, row, way, promote := true }] })) ∧
      (∀ old l, tillEn ((s.vault v).tillEntry slot) = true → tillSets ((s.vault v).tillEntry slot) ≠ 0 →
        (s.vault v).residentWay slot row = none → (s.vault v).freeWay slot row = none →
        (s.vault v).victim slot row = some (way, old) →
        s.homeAll v slot old .read = .ok l → s.rowBusy v tid old (l ++ s.tillAddrs v slot old way) = false →
        (s.vault v).moving tid old = false →
          exec (.tillPromotion v n) s = .next (s.modVault v fun x =>
            { x with moves := x.moves ++ [{ table := tid, row := old, way, promote := false }] }))) ∧
    (∀ home s2, (s.vault v).moves[n]? = some m → m.table ∉ (s.vault v).flushes → slot = m.table.toNat % 8192 → s.homeAll v slot m.row .write = .ok home →
      State.setResident (if m.promote then s.copyBytes home (s.tillAddrs v slot m.row m.way)
          else s.copyBytes (s.tillAddrs v slot m.row m.way) home) v slot m.row m.promote = .ok s2 →
        ∃ u, exec (.tillMoveDone v n) s = .next u ∧ (u.vault v).moves = (s2.vault v).moves.eraseIdx n ∧ u.mem = s2.mem ∧
          (u.vault v).way slot (tillSet ((s.vault v).tillEntry slot) m.row) m.way =
            if m.promote then some m.row else none)

/-- R331, R332: a flush of a table leaves memory and residency as they are, every move it begins is an eviction of a row of
that table, and it stays pending while a row of the table is resident. R333 to R335: the scrubber reads a sector once in a
period, in an ordinary turn of a channel that row units use, for which its step else falls due; it or a reader leaves a clean
sector, counts a corrected error in its domain, and poisons the sector, the buffer's unit or the L2 line of an uncorrectable
one. -/
def Sys2Proof.Claims.FlushAndScrub : Prop :=
  ∀ (s : State) (tid : BitVec 16) (v key d k y u : Nat) (b : Buf) (x : Vault), v = tid.toNat / 8192 → x = s.vault v →
    (∃ t l, exec (.tillFlush tid) s = .next t ∧ t.mem = s.mem ∧ (t.vault v).ways = x.ways ∧
      (t.vault v).moves = x.moves ++ l ∧ (∀ m ∈ l, m.table = tid ∧ m.promote = false) ∧
      (tid ∈ (t.vault v).flushes ↔ ∃ w ∈ x.ways, w.1 / 2 ^ 27 = tid.toNat % 8192 ∧ w.2.isSome = true) ∧
      ∀ w, w ≠ tid → (w ∈ (t.vault v).flushes ↔ w ∈ x.flushes)) ∧
    (physDomain (64 * key) = some d →
      exec (.scrubStep (.sector key) .clean) s = .next s ∧
      exec (.scrubStep (.sector key) .corrected) s =
        .next (s.setDomain d { s.domain d with errors := (s.domain d).errors + 1 }) ∧
      (∃ t, exec (.scrubStep (.sector key) .uncorrectable) s = .next t ∧ t = { s with poison := t.poison } ∧
        ∀ p, p ∈ t.poison ↔ p = key ∨ p ∈ s.poison) ∧
      (Tab.get 0 s.scrubbed key = s.scrubPeriod d → ∀ res, exec (.scrubStep (.scrub key) res) s = .next s) ∧
      (Tab.get 0 s.scrubbed key ≠ s.scrubPeriod d → ∀ c, s.channelOf (64 * key) = some c →
        ((s.chan c).svc ≠ .ordinary →
          ∀ res, exec (.scrubStep (.scrub key) res) s = .next (s.setChan c { s.chan c with due := true })) ∧
        ((s.chan c).svc = .ordinary →
          exec (.scrubStep (.scrub key) .clean) s = .next
            { s.setChan c { s.chan c with due := false } with scrubbed := Tab.put s.scrubbed key (s.scrubPeriod d) } ∧
          ∃ t, exec (.scrubStep (.scrub key) .uncorrectable) s = .next t ∧ key ∈ t.poison ∧ t.mem = s.mem))) ∧
    exec (.scrubStep (.unit k b u) .corrected) s =
      .next (s.setDomain (k / 4) { s.domain (k / 4) with errors := (s.domain (k / 4)).errors + 1 }) ∧
    (∃ t, exec (.scrubStep (.unit k b u) .uncorrectable) s = .next t ∧
      (∀ p, p ∈ (t.core k).poison ↔ p = (b, u) ∨ p ∈ (s.core k).poison) ∧ t.mem = s.mem) ∧
    (∃ t, exec (.scrubStep (.line y d u) .uncorrectable) s = .next t ∧
      (∀ p, p ∈ (t.die y).l2poison ↔ p = u ∨ p ∈ (s.die y).l2poison) ∧ t.mem = s.mem) ∧
    exec (.scrubStep (.other d) .corrected) s = .next (s.setDomain d { s.domain d with errors := (s.domain d).errors + 1 })

/-- R216, R220, R252, R253, R254, R256, R323, R324, R325, R328, R330, R331, R332, R333, R334, R335, R379: combining,
completing, the channel's alternation, the Till and the scrub. Parts of it rest on choices and readings of the model
itself, no rules of the spec: log entries 24, 25, 26 and 27. -/
def Obligations.BagsAndRowsAreServed : Prop :=
  BagsAreCombinedAndWritten ∧ TableCommandsComplete ∧ ChannelsAlternate ∧ TillMovesRows ∧ FlushAndScrub

/-! ### The Dray at work -/

/-- R138, R209, R213: the next transfer of a channel starts once the stores that a fence puts before it have performed and,
for a timed copy, its time has come; until then nothing happens. A stage goes to the Exchange of its die. -/
def Sys2Proof.Claims.TransfersStart : Prop :=
  ∀ (s : State) (k n : Nat) (before : List Transfer) (t : Transfer) (after : List Transfer),
    InFlight s k before t after → NextOfChannel before t →
      ((s.core k).fenceMet t = false ∨ s.timeReached t = false → exec (.transferStart k t.ch n) s = .next s) ∧
      (∀ wr, t.kind = .tcopy wr → s.timebase < t.xb →
        exec (.transferStart k t.ch n) s = .next s ∧ exec (.dtcopyTimeReached k t.ch t.id.toNat) s = .next s) ∧
      ((s.core k).fenceMet t = true → s.timeReached t = true →
        (t.kind.usesRing = false → t.kind ≠ .stage →
          ∃ u got b c, exec (.transferStart k t.ch 0) s = .next u ∧ (t.kind.usesList = false → got = t.got) ∧
            (t.counted = true → c = true) ∧ (t.ring = none → b = t.slotBuf) ∧
            OnlyTransfers s u k t (before ++
              { t with started := true, take := .slot, slotAt := 0, slotBuf := b, got, counted := c } :: after)) ∧
        (∀ wr, t.kind = .tcopy wr → t.ring = none →
          ∃ u, exec (.dtcopyTimeReached k t.ch t.id.toNat) s = .next u ∧
            OnlyTransfers s u k t (before ++ { t with started := true, take := .slot, slotAt := 0 } :: after)) ∧
        (t.kind = .stage → t.ring = none →
          ∃ (u : State) (x : Stage), exec (.transferStart k t.ch n) s = .next u ∧
            (u.core k).transfers = before ++ { t with started := true, take := .slot, slotAt := 0, sent := true } :: after ∧
            (u.die (dieOf k)).stages = (s.die (dieOf k)).stages ++ [x] ∧ x.code = sdStage t.recd ∧
            x.group = sdGroup t.recd ∧ x.by_ = t.by_ ∧ x.k = k ∧ x.ch = t.ch ∧ x.id = t.id ∧ x.card = t.card ∧
            x.started = false ∧ u.mem = s.mem))

/-- R210: a push or a pop at position p among those on its ring, from any core of the yard, that were issued before it and have
not completed: a pop waits for p + 1 filled slots and takes the slot at position p from HEAD, or meets the token there; a
push waits for p + 1 free ones and takes the slot at position p from TAIL; the slots of one ring complete in issue order. -/
def Sys2Proof.Claims.RingCommandsTakeTheirSlot : Prop :=
  ∀ (s : State) (k n kr : Nat) (h : BitVec 4) (before : List Transfer) (t : Transfer) (after : List Transfer) (r : Ring)
    (p : Nat) (slot : Nat → Nat),
    InFlight s k before t after → NextOfChannel before t → (s.core k).fenceMet t = true → t.ring = some (kr, h.toNat) →
      t.kind.usesRing = true → t.counted = true → r = (s.core kr).ring h → r.valid = true → p = ringPlace s k t →
      slot = (fun i => r.base.toNat + i % (r.slots.toNat + 1) * ((r.slotsz.toNat + 1) * 64)) →
      (t.kind = .pop → r.eosc = false →
        (r.fill.toNat ≤ p → exec (.transferStart k t.ch n) s = .next s) ∧
        (p < r.fill.toNat → eosAt r ≠ p →
          ∃ u, exec (.transferStart k t.ch 0) s = .next u ∧
            OnlyTransfers s u k t (before ++
              { t with started := true, take := .slot, slotAt := slot (r.head.toNat + p), slotBuf := r.buf } :: after)) ∧
        (p < r.fill.toNat → eosAt r = p →
          ∃ u, exec (.transferStart k t.ch 0) s = .next u ∧
            OnlyTransfers s u k t (before ++
              { t with started := true, take := .token, slotAt := 0, slotBuf := r.buf, moved := recCount t.wrec } :: after))) ∧
      (t.kind = .push ∨ t.kind = .pushEos → r.eosp = false →
        (r.slots.toNat + 1 ≤ r.fill.toNat + p → exec (.transferStart k t.ch n) s = .next s) ∧
        (r.fill.toNat + p < r.slots.toNat + 1 → (∀ x ∈ s.ringAhead k t, x.kind ≠ .pushEos) →
          ∃ u, exec (.transferStart k t.ch 0) s = .next u ∧
            OnlyTransfers s u k t (before ++
              { t with started := true, take := .slot, slotAt := slot (r.tail.toNat + p), slotBuf := r.buf } :: after)))

/-- R206, R212: a started copy with one element, whose two sides share no byte, moves it and is complete. Into the window, from any place that can be read:
an element inside the tensor receives the packed bytes and one outside nothing. Out of the window, to a typed buffer: the
packed place receives the element, or, outside the tensor, the record's fill unless it clips. -/
def Sys2Proof.Claims.CopiesMoveTheirElement : Prop :=
  ∀ (s : State) (k : Nat) (b b' : Buf) (before : List Transfer) (t : Transfer) (after : List Transfer) (l : List Byte),
    InFlight s k before t after → t.started = true → t.moved = 0 → t.take = .slot → oneElement t.wrec →
      t.notify = 0 → t.ring = none → t.got = [] → t.pending = [] → s.overlap k t = [] → recSpace t.wrec = .buf b → 0 ≤ recWa t.wrec none 0 → l.length = recElem t.wrec →
      (t.kind = .copy true →
        (recIn t.wrec none 0 = true →
          s.readPlace (.core k) (dieOf k) (s.card t.card).asid (wordPlace k t.xa) (recElem t.wrec) = .ok l →
          ∃ u, exec (.transferComplete k t.ch t.id.toNat) s = .next u ∧ (u.core k).transfers = before ++ after ∧
            (u.core k).readBuf b (recWa t.wrec none 0).toNat (recElem t.wrec) = l ∧ u.mem = s.mem ∧
            ∀ (e : Buf) (a : Nat), (e = b → (a : Int) < recWa t.wrec none 0 ∨ recWa t.wrec none 0 + recElem t.wrec ≤ a) →
              ((u.core k).buf e).read a = ((s.core k).buf e).read a) ∧
        (recIn t.wrec none 0 = false →
          ∃ u, exec (.transferComplete k t.ch t.id.toNat) s = .next u ∧ (u.core k).transfers = before ++ after ∧
            u.mem = s.mem ∧ ∀ (e : Buf), (u.core k).buf e = (s.core k).buf e)) ∧
      (t.kind = .copy false → wordSp t.xa = .buf b' → wordNbr t.xa = false →
        (recIn t.wrec none 0 = true →
          s.readPlace (.core k) (dieOf k) (s.card t.card).asid (.buf k b (recWa t.wrec none 0)) (recElem t.wrec) = .ok l →
          ∃ u, exec (.transferComplete k t.ch t.id.toNat) s = .next u ∧ (u.core k).transfers = before ++ after ∧
            (u.core k).readBuf b' (wordAddr t.xa) (recElem t.wrec) = l ∧ u.mem = s.mem) ∧
        (recIn t.wrec none 0 = false → recClip t.wrec = false →
          ∃ u, exec (.transferComplete k t.ch t.id.toNat) s = .next u ∧ (u.core k).transfers = before ++ after ∧
            (u.core k).readBuf b' (wordAddr t.xa) (recFillBytes t.wrec).length = recFillBytes t.wrec ∧ u.mem = s.mem) ∧
        (recIn t.wrec none 0 = false → recClip t.wrec = true →
          ∃ u, exec (.transferComplete k t.ch t.id.toNat) s = .next u ∧ (u.core k).transfers = before ++ after ∧
            u.mem = s.mem ∧ ∀ (e : Buf), (u.core k).buf e = (s.core k).buf e))

/-- R206, R210, R212: a started transfer moves its elements and completes: every byte of a typed buffer and of memory that an
element writes holds what the last element to write it brings, in the transfer's order (packed order; a scatter's rows in
ascending list position), and every other byte stays as it was. -/
def Sys2Proof.Claims.TransfersMoveTheirElements : Prop :=
  ∀ (s : State) (k : Nat) (before : List Transfer) (t : Transfer) (after : List Transfer),
    InFlight s k before t after → ReadyToMove s k t → t.kind ≠ .scatter true →
      (∀ n, n < recCount t.wrec → Movable s k t n) →
        ∃ u, exec (.transferComplete k t.ch t.id.toNat) s = .next u ∧ (u.core k).transfers = before ++ after ∧
          (∀ (kb : Nat) (b : Buf) (a : Nat),
            (∀ n v, n < recCount t.wrec → WritesBuf s k t n kb b a v →
              (∀ m v', m < recCount t.wrec → Before t n m → ¬ WritesBuf s k t m kb b a v') →
                ((u.core kb).buf b).read a = v) ∧
            ((∀ n v, n < recCount t.wrec → ¬ WritesBuf s k t n kb b a v) →
              ((u.core kb).buf b).read a = ((s.core kb).buf b).read a)) ∧
          ∀ a : Nat,
            (∀ n v, n < recCount t.wrec → WritesMem s k t n a v →
              (∀ m v', m < recCount t.wrec → Before t n m → ¬ WritesMem s k t m a v') → u.mem.read a = v) ∧
            ((∀ n a' v, n < recCount t.wrec → WritesMem s k t n a' v → a' / 64 ≠ a / 64) → u.mem.read a = s.mem.read a)

/-- R214: `dscatter.comb` into a typed buffer whose rows do not meet: each destination element inside the tensor receives the
sum of the elements of the list positions with its index, in ascending position, rounded once at the end; it does not enter
the sum itself. -/
def Sys2Proof.Claims.CombiningScattersSumTheirRows : Prop :=
  ∀ (s : State) (k : Nat) (b : Buf) (before : List Transfer) (t : Transfer) (after : List Transfer) (idx : Nat → Int)
    (e1 rest : Nat) (x : Nat → Nat → List Byte) (f : Fmt),
    InFlight s k before t after → ReadyToMove s k t → t.kind = .scatter true → recSpace t.wrec = .buf b →
      e1 = recExt t.wrec 1 → rest = recCount t.wrec / e1 → Fmt.ofCode (recFmt t.wrec) = some f →
      f ∈ [Fmt.fp32, .bf16, .fp16, .int32] →
      (∀ j, j < e1 → ∃ l, reads s k t ((wordPlace k t.xb).plus (4 * j : Nat)) 4 = .ok l ∧ idx j = (leWord l).toInt) →
      (∀ j r, j < e1 → r < rest →
        reads s k t (packedSide k t (rowElement t.wrec j r)) (recElem t.wrec) = .ok (x j r) ∧
          (x j r).length = recElem t.wrec) →
      (∀ j r j' r', j < e1 → r < rest → j' < e1 → r' < rest → (idx j ≠ idx j' ∨ r ≠ r') →
        0 ≤ windowByte t.wrec (some (idx j)) (rowElement t.wrec j r) ∧
          Apart (.buf k b (windowByte t.wrec (some (idx j)) (rowElement t.wrec j r))) (recElem t.wrec)
            (.buf k b (windowByte t.wrec (some (idx j')) (rowElement t.wrec j' r'))) (recElem t.wrec)) →
        ∃ u, exec (.transferComplete k t.ch t.id.toNat) s = .next u ∧ (u.core k).transfers = before ++ after ∧
          u.mem = s.mem ∧
          ∀ j r l, j < e1 → r < rest → FirstOfRow idx e1 j l → InTensor t.wrec (some (idx j)) (rowElement t.wrec j r) →
            0 ≤ windowByte t.wrec (some (idx j)) (rowElement t.wrec j r) →
              (u.core k).readBuf b (windowByte t.wrec (some (idx j)) (rowElement t.wrec j r)).toNat (recElem t.wrec) =
                combined f (x j r) ((l.drop 1).map fun i => x i r)

/-- R138, R206, R209, R210, R212, R213, R214: how a transfer starts and moves its elements. Parts of it rest on choices
and readings of the model itself, no rules of the spec: log entries 7 and 24. -/
def Obligations.TransfersStartAndMove : Prop :=
  TransfersStart ∧ RingCommandsTakeTheirSlot ∧ CopiesMoveTheirElement ∧ TransfersMoveTheirElements ∧ CombiningScattersSumTheirRows

/-- R210, R216: a started transfer that has moved every element completes: it leaves the core, LOW of its channel moves up to
the lowest identifier left, its notification is made, after the stores that a fence of its context put before it, or that its hand
had acquired, have performed at the notification's scope (it waits while they cannot, R323, R379), and its ring moves on by one slot, where R28 lets it and in issue order; memory is unchanged, but for what is still to be written, what is
released, and a command whose two sides overlap (R206: the bytes shared are then open). One that has not started is left alone. -/
def Sys2Proof.Claims.TransfersComplete : Prop :=
  ∀ (s : State) (k : Nat) (h : BitVec 4) (before : List Transfer) (t : Transfer) (after : List Transfer),
    InFlight s k before t after →
      (t.started = false → exec (.transferComplete k t.ch t.id.toNat) s = .next s) ∧
      (t.started = true → t.take = .slot → t.kind.isData = true → t.kind ≠ .scatter true → t.count ≤ t.moved →
        MayFlush s t →
        (t.kind.usesRing = true → t.ring = some (k, h.toNat) ∧ s.ringFirst k t = true ∧ RingAllows ((s.core k).ring h) t) →
        (∀ w, s.noteWait k t = some w → s.overlap k t = [] → t.pending = [] →
          ∃ u, exec (.transferComplete k t.ch t.id.toNat) s = .next u ∧
            ((u.core k).findTransfer t.ch t.id).isSome = true ∧ (u.core k).flags = (s.core k).flags ∧ u.mem = s.mem) ∧
        (s.noteWait k t = none →
          ∃ u, exec (.transferComplete k t.ch t.id.toNat) s = .next u ∧ (u.core k).transfers = before ++ after ∧
            LowestLeft (u.core k) t.ch (before ++ after) ∧ ((u.core k).chan t.ch).next = ((s.core k).chan t.ch).next ∧
            FlagsNotified (s.core k) (u.core k) t.notify (s.tookNow k) ∧ (s.overlap k t = [] → t.pending = [] → NothingToRelease s k t → u.mem = s.mem) ∧
            (∀ c, t.by_ = .ctx k c → noteEn t.notify = true → 3 ≤ noteScope t.notify →
              ∀ p ∈ (u.core k).stores, p.c = c → p.ord < t.fenceOrd → p.need = none) ∧
            (∀ z p0, t.by_ = .hand k z p0 → noteEn t.notify = true → 3 ≤ noteScope t.notify →
              ∀ p ∈ (u.core k).stores, t.fenceOrd ≤ p.ord) ∧ u.recQueue = s.recQueue ∧
            (noteEn t.notify = false ∨ noteRemote t.notify = false → u.inbox = s.inbox) ∧
            (∀ c, t.by_ = .ctx k c → noteEn t.notify = true → noteRemote t.notify = true →
              u.inbox = s.inbox ++ [.notify (noteCore t.notify) (noteFlag t.notify) (noteAmt t.notify) (s.card t.card).asid k c
                (BitVec.ofNat 4 t.ch) t.id t.kind.src.toNat t.card t.baddr]) ∧
            (t.kind = .pop → Consumed ((s.core k).ring h) ((u.core k).ring h) 1) ∧
            (((s.core k).ring h).fill.toNat ≤ ((s.core k).ring h).slots.toNat →
              (t.kind = .push → Produced ((s.core k).ring h) ((u.core k).ring h) 1 ∧
                ((u.core k).ring h).eosp = ((s.core k).ring h).eosp) ∧
              (t.kind = .pushEos → Produced ((s.core k).ring h) ((u.core k).ring h) 1 ∧ ((u.core k).ring h).eosp = true ∧
                ((u.core k).ring h).eosSlot = some ((s.core k).ring h).tail.toNat)) ∧
            (t.kind.usesRing = false → ∀ h', (u.core k).ring h' = (s.core k).ring h')))

/-- R218: a memory error, or the fault that its next element takes, ends a started transfer: it leaves the core without its
notification, and a record with TRAP = 1 goes to its context; after a push or a pop, which makes no advance, those behind it on
its ring begin again one slot nearer (R210); memory is unchanged, unless the command's sides overlap (R206) or some of what it has moved is still to be written. -/
def Sys2Proof.Claims.FaultsEndTransfers : Prop :=
  ∀ (s : State) (k c : Nat) (before : List Transfer) (t : Transfer) (after : List Transfer) (cause : Cause) (va : Dword),
    InFlight s k before t after → t.started = true → t.take = .slot → t.kind.isData = true → t.kind ≠ .scatter true →
      t.by_ = .ctx k c → cause = .memoryError ∨
        (t.moved < t.count ∧ s.moveElem k t (s.overlap k t) t.moved = .fault cause va) →
        ∃ u, exec (.transferFaultEnd k t.ch t.id.toNat cause va) s = .next u ∧
          (u.core k).transfers = (before ++ after).map (begunAgain t) ∧
          u.recQueue = s.recQueue ++ [(t.card, k, c, errorRecord t cause [va])] ∧ (u.core k).flags = (s.core k).flags ∧
          u.inbox = s.inbox ∧ (s.overlap k t = [] → t.pending = [] → u.mem = s.mem)

/-- R217, R367: a remote notification reaches its core, after those before it on its route: with a placed context of the same ASID
whose kernel names the flag, the flag is posted and no other flag moves; else a Remote-Error record goes back to the context
that asked. -/
def Sys2Proof.Claims.RemoteNotificationsArrive : Prop :=
  ∀ (s : State) (n core : Nat) (flag : BitVec 5) (amt : Nat) (asid : BitVec 16) (k c : Nat) (ch : BitVec 4) (id : Dword)
    (src card : Nat) (baddr : Dword) (m : Msg),
    m = .notify core flag amt asid k c ch id src card baddr → s.inbox[n]? = some m →
      ((∃ y ∈ s.inbox.take n, msgRoute y = some ⟨.core k, .core core, 4⟩) →
        exec (.remoteNotifyArrival (.inFlight n)) s = .next s) ∧
      ((∀ y ∈ s.inbox.take n, msgRoute y ≠ some ⟨.core k, .core core, 4⟩) →
        ((∃ x ∈ (s.core core).ctxs, ∃ m, x.2.card = some m ∧ (s.card m).asid = asid ∧
            (s.card m).hdr.getLsbD (256 + flag.toNat) = true) →
          ∃ u, exec (.remoteNotifyArrival (.inFlight n)) s = .next u ∧ u.inbox = s.inbox.eraseIdx n ∧
            Posted (s.core core) (u.core core) flag amt (s.tookNow core flag) ∧ u.recQueue = s.recQueue ∧ u.mem = s.mem ∧
            ∀ j, j ≠ core → u.core j = s.core j) ∧
        ((¬ ∃ x ∈ (s.core core).ctxs, ∃ m, x.2.card = some m ∧ (s.card m).asid = asid ∧
            (s.card m).hdr.getLsbD (256 + flag.toNat) = true) →
          exec (.remoteNotifyArrival (.inFlight n)) s = .next { s with
            inbox := s.inbox.eraseIdx n
            recQueue := s.recQueue ++ [(card, k, c,
              { cause := .remoteError, trap := true, src := BitVec.ofNat 3 src, ch, id, baddr, pay := [] })] }))

/-- R28, R206, R210, R216, R217, R218, R323, R367, R379: how a transfer completes, or ends with a fault. Parts of it rest
on choices and readings of the model itself, no rules of the spec: log entries 24, 42 and 43. -/
def Obligations.TransfersEnd : Prop :=
  TransfersComplete ∧ FaultsEndTransfers ∧ RemoteNotificationsArrive

/-! ### Halting, claims, eviction, saving, teardown -/

/-- R305, R306, R309: a requested halt takes effect: the context is HALTED with its results in its snapshot and its registers
as they were; of a running one the core keeps the vector state aside as its newest claim, and runs nothing. Without a request, or
while the context is in its handler, nothing happens. -/
def Sys2Proof.Claims.HaltsTakeEffect : Prop :=
  ∀ (s : State) (k c : Nat),
    ((s.ctx k c).haltReq = false ∨ (s.ctx k c).inHandler = true → exec (.contextHalt k c) s = .next s) ∧
    ((s.ctx k c).haltReq = true → (s.ctx k c).inHandler = false → (s.ctx k c).st = .ready ∨ (s.ctx k c).st = .waiting →
      ∃ u, exec (.contextHalt k c) s = .next u ∧ HaltedFrom (s.ctx k c) (u.ctx k c) ∧ u.mem = s.mem ∧
        (∀ d, d ≠ c → u.ctx k d = s.ctx k d) ∧ (u.core k).run = (s.core k).run ∧ (u.core k).claims = (s.core k).claims) ∧
    ((s.ctx k c).haltReq = true → (s.ctx k c).st = .running →
      ∃ u, exec (.contextHalt k c) s = .next u ∧ HaltedFrom (s.ctx k c) (u.ctx k c) ∧ (u.core k).run = none ∧
        (∀ d, d ≠ c → u.ctx k d = s.ctx k d) ∧
        (u.core k).claims = { c, v := (s.core k).v, q := (s.core k).q, flags := [], rings := [] } :: (s.core k).claims ∧
        (u.core k).mint = (s.core k).mint)

/-- R301, R306, R309, R364: a halted context becomes READY once no context and no Mint command of an urgent card that outranks
its own is left on its core: its card's claim there is restored, others stay, and its snapshot waits to replay. One to which
the page service still owes a page stays HALTED. -/
def Sys2Proof.Claims.HaltedContextsResume : Prop :=
  ∀ (s : State) (k c n : Nat), (s.ctx k c).st = .halted → (s.ctx k c).card = some n →
    ((s.ctx k c).owed = true ∨ ¬ NoneOutranks s k n → exec (.contextResume k c) s = .next s) ∧
    ((s.ctx k c).owed = false → (s.ctx k c).evicted = false → (s.ctx k c).restoring = false → NoneOutranks s k n →
      ∃ u, exec (.contextResume k c) s = .next u ∧ (u.ctx k c).st = .ready ∧
        (u.ctx k c).readyAt = s.timebase.toNat ∧ (u.ctx k c).snapshot = (s.ctx k c).snapshot ∧ (u.ctx k c).x = (s.ctx k c).x ∧
        (u.ctx k c).pc = (s.ctx k c).pc ∧ u.mem = s.mem ∧ (∀ d, d ≠ c → u.ctx k d = s.ctx k d) ∧
        (u.core k).claims = (s.core k).claims.filter (fun x => !ClaimOf s k n x) ∧
        ((s.core k).claims.filter (ClaimOf s k n) = [] →
          (u.core k).v = (s.core k).v ∧ (u.core k).flags = (s.core k).flags ∧ (u.core k).mint = (s.core k).mint) ∧
        ∀ x, (s.core k).claims.filter (ClaimOf s k n) = [x] → Unclaimed (s.core k) (u.core k) x)

/-- R309, R310: the first Mint command of an urgent context sets the Mint's state of the newest subject that its card outranks
aside, and its stalled bundle may issue: of a Mint in which no command has begun, the commands of halted contexts, mode,
pending mode, in RS mode the accumulator tile, and the latches that its kernel names. What an earlier claim of the subject
holds stays, with the latches that it did not name. -/
def Sys2Proof.Claims.MintIsClaimed : Prop :=
  ∀ (s : State) (k c n : Nat) (q : Core), q = s.core k → s.issuer k = some c → (s.ctx k c).card = some n →
    (q.hold ≠ some .claim → exec (.mintClaim k) s = .next s) ∧
    (∀ x, q.hold = some .claim →
      q.claims.find? (fun y => decide ((s.cardOf k y.c).rank < (s.card n).rank)) = some x →
      (x.mint = none → (∀ m ∈ q.mint.queue, m.started = false) →
        ∃ u h, exec (.mintClaim k) s = .next u ∧ (u.core k).hold = none ∧ { x with mint := some h } ∈ (u.core k).claims ∧
          h.cmds = (q.mint.queue.filter fun m => decide ((q.ctx m.c).st = .halted)).map (fun m => { m with started := false, early := [] }) ∧
          (u.core k).mint.queue = (q.mint.queue.filter fun m => !decide ((q.ctx m.c).st = .halted)) ∧
          h.mode = q.mint.mode ∧ h.pending = q.mint.pending ∧ h.by_ = [n] ∧
          (q.mint.mode = .rs ∨ q.mint.pending = .rs → h.acc = some q.mint.acc) ∧
          (∀ l, l < 4 → (s.cardOf k c).hdr.getLsbD (120 + l) = true → Tab.get {} h.latches l = q.mint.latch l) ∧
          (u.core k).mint.acc = q.mint.acc ∧ (u.core k).mint.latches = q.mint.latches) ∧
      (∀ h, x.mint = some h → n ∉ h.by_ →
        ∃ u h', exec (.mintClaim k) s = .next u ∧ (u.core k).hold = none ∧ { x with mint := some h' } ∈ (u.core k).claims ∧
          h' = { h with latches := h'.latches, by_ := h.by_ ++ [n] } ∧ (u.core k).mint = q.mint ∧
          ∀ l, l < 4 → (Tab.has h.latches l = true → Tab.get {} h'.latches l = Tab.get {} h.latches l) ∧
            (Tab.has h.latches l = false → (s.cardOf k c).hdr.getLsbD (120 + l) = true →
              Tab.get {} h'.latches l = q.mint.latch l)))

/-- R301, R305, R306, R309, R310, R364: halting, resuming, and the claim of Mint. Parts of it rest on choices and readings
of the model itself, no rules of the spec: log entries 22 and 36. -/
def Obligations.HaltAndResume : Prop :=
  HaltsTakeEffect ∧ HaltedContextsResume ∧ MintIsClaimed

/-- R311: at a checkpoint, a context whose eviction is requested issues fill bundles while its results are in flight, and then
is HALTED for its save. -/
def Sys2Proof.Claims.EvictionTakesTheContext : Prop :=
  ∀ (s : State) (k c : Nat), AtCheckpoint s k c →
    ((s.ctx k c).flights ≠ [] → ∃ u, exec (.eviction k) s = .next u ∧ u = s.fillBundle k c) ∧
    ((s.ctx k c).flights = [] →
      ∃ u, exec (.eviction k) s = .next u ∧ (u.ctx k c).st = .halted ∧ (u.ctx k c).evicted = true ∧
        (u.ctx k c).evictReq = false ∧ (u.ctx k c).x = (s.ctx k c).x ∧ (u.ctx k c).pc = (s.ctx k c).pc ∧
        (u.core k).run = none ∧ u.mem = s.mem)

/-- R311, R312, R315: the Save engine waits for the context's engine commands, and a patron for its card's other contexts.
After its save a context is IDLE and saved for its card, which, with its last context, is evicted. A save that fails leaves
the context HALTED (with an area that is too small nothing is written; else VALID, where it can be written, is 0); the driver may then have it retried, or have the context go on. -/
def Sys2Proof.Claims.SavesEmptyTheContext : Prop :=
  ∀ (s : State) (k c n : Nat), (s.ctx k c).card = some n → (s.ctx k c).st = .halted → (s.ctx k c).evicted = true →
    (s.saveReady n k c = false → (s.ctx k c).saveFailed = false → exec (.save k c) s = .next s) ∧
    (∀ e l v, s.saveReady n k c = true → (s.ctx k c).saveFailed = false → s.ckEntry n k (s.ctx k c).ckix.toNat = .ok (e, l) →
      ckSavesz e ≤ ((s.card n).saveArea k c).2 → s.saveAll n k c e l = .ok v →
      ∃ u, exec (.save k c) s = .next u ∧ u.ctx k c = {} ∧ u.mem = v.mem ∧ (u.card n).saved = (v.card n).saved ++ [(k, c)] ∧
        ((v.card n).st = .running → (∀ y ∈ (v.card n).placed, y ≠ (k, c) → v.holdsCtx n y.1 y.2 = false) →
          (u.card n).st = .evicted)) ∧
    (∀ e l, s.saveReady n k c = true → (s.ctx k c).saveFailed = false → s.ckEntry n k (s.ctx k c).ckix.toNat = .ok (e, l) →
      ((s.card n).saveArea k c).2 < ckSavesz e →
        ∃ u, exec (.save k c) s = .next u ∧ (u.ctx k c).saveFailed = true ∧ (u.ctx k c).st = .halted ∧
          (u.ctx k c).evicted = true ∧ u.mem = s.mem) ∧
    (∀ e l cause a, s.saveReady n k c = true → (s.ctx k c).saveFailed = false →
      s.ckEntry n k (s.ctx k c).ckix.toNat = .ok (e, l) → ckSavesz e ≤ ((s.card n).saveArea k c).2 →
      s.saveAll n k c e l = .fault cause a →
        ∃ u, exec (.save k c) s = .next u ∧ (u.ctx k c).saveFailed = true ∧ (u.ctx k c).st = .halted ∧
          (u.ctx k c).evicted = true ∧ (∀ v, s.saveBegun n k c = .ok v → u.mem = v.mem) ∧
          (∀ x b, s.saveBegun n k c = .fault x b → u.mem = s.mem)) ∧
    ((s.ctx k c).saveFailed = true →
      exec (.save k c) s = .next s ∧
      (∃ u, exec (.saveRetry k c true) s = .next u ∧ (u.ctx k c).st = .ready ∧ (u.ctx k c).evicted = false ∧
        (u.ctx k c).saveFailed = false ∧ u.mem = s.mem) ∧
      (s.saveReady n k c = false →
        ∃ u, exec (.saveRetry k c false) s = .next u ∧ (u.ctx k c).st = .halted ∧ (u.ctx k c).saveFailed = false))

/-- R313: where the fixed part of a save area holds the state: the scalar registers from byte 0, the program counter, CSTAT,
FPCR, FFLAGS, FEVR, the parameter registers, the loop levels and the window records; it is 1,024 bytes long. -/
def Sys2Proof.Claims.SaveAreaLayout : Prop :=
  ∀ (x : Ctx) (m : MintMode), x.inHandler = false →
    (fixedBytes x m).length = 1024 ∧
    (∀ r : Reg, dwordAt (fixedBytes x m) (8 * r.toNat) = x.readX r) ∧
    dwordAt (fixedBytes x m) 256 = x.pc ∧ dwordAt (fixedBytes x m) 264 = x.cstat ∧
    dwordAt (fixedBytes x m) 272 = x.fpcr.setWidth 64 ∧ dwordAt (fixedBytes x m) 280 = x.fflags ∧
    dwordAt (fixedBytes x m) 288 = x.fevr ∧
    (∀ p : PReg, (dwordAt (fixedBytes x m) 296).getLsbD p.toNat = x.readP p) ∧
    (∀ r : BitVec 3, dwordAt (fixedBytes x m) (304 + 8 * r.toNat) = x.mpReg r) ∧
    (∀ lv : BitVec 3, lv.toNat < 6 →
      dwordAt (fixedBytes x m) (368 + 16 * lv.toNat) = (x.loop lv).bound ++ (x.loop lv).count) ∧
    (∀ (w : BitVec 2) (i : Nat), i < 12 →
      dwordAt (fixedBytes x m) (464 + 96 * w.toNat + 8 * i) = (x.wrec w).extractLsb' (64 * i) 64)

/-- R316: what a restore makes of a save area's fixed part: every register that it holds, as it was saved. -/
def Sys2Proof.Claims.RestoreUndoesSave : Prop :=
  ∀ (x y : Ctx) (m : MintMode) (n occ : Nat) (h : List Dword) (vcw recs : List Byte), x.inHandler = false →
    y = ctxOf n occ h vcw (fixedBytes x m) recs →
    y.card = some n ∧ (∀ r, y.readX r = x.readX r) ∧ (∀ p, y.readP p = x.readP p) ∧
    (∀ lv : BitVec 3, lv.toNat < 6 → y.loop lv = x.loop lv) ∧ (∀ w, y.wrec w = x.wrec w) ∧ (∀ r, y.mpReg r = x.mpReg r) ∧
    y.pc = x.pc ∧ y.fpcr = x.fpcr ∧ y.fflags = x.fflags ∧ y.fevr = x.fevr ∧ y.prio = x.prio ∧ y.dcause = 0

/-- R313, R316: what a save area holds, and that restoring undoes saving. Parts of it rest on choices and readings of the
model itself, no rules of the spec: log entries 3 and 35. -/
def Obligations.SaveAreas : Prop :=
  SaveAreaLayout ∧ RestoreUndoesSave

/-- R316: a context of a card launched again is restored; when every context of its card has been, all become READY, and none
does before. Where a check of its save area fails, or the area cannot be read, the card is not resumed and nothing of the
context changes. -/
def Sys2Proof.Claims.RestoresBringTheContextBack : Prop :=
  ∀ (s : State) (k c n : Nat), (s.ctx k c).card = some n →
    ((s.ctx k c).restoring = false ∨ (s.ctx k c).restored = true → exec (.restore k c) s = .next s) ∧
    ((s.ctx k c).restoring = true → (s.ctx k c).restored = false →
      (∀ v, s.restoreAll n k c = .ok (some v) →
        (v.ctx k c).restored = true ∧ (v.ctx k c).st = .halted ∧ (v.ctx k c).card = some n ∧
        ((∃ y, ToRestore v n y ∧ (v.ctx y.1 y.2).restored = false) → exec (.restore k c) s = .next v) ∧
        ((∀ y, ToRestore v n y → (v.ctx y.1 y.2).restored = true) →
          ∃ u, exec (.restore k c) s = .next u ∧ u.mem = v.mem ∧
            ∀ y, ToRestore v n y → (u.ctx y.1 y.2).st = .ready ∧ (u.ctx y.1 y.2).restoring = false ∧
              (u.ctx y.1 y.2).pc = (v.ctx y.1 y.2).pc ∧ (u.ctx y.1 y.2).x = (v.ctx y.1 y.2).x)) ∧
      (∀ r, s.restoreAll n k c = r → (r = .ok none ∨ ∃ e a, r = .fault e a) →
        ∃ u, exec (.restore k c) s = .next u ∧ u.ctx k c = s.ctx k c ∧ u.mem = s.mem))

/-- R364: when the last context that an evicted card still holds ends by itself, after others of its contexts have been saved, the
card is evicted with it. -/
def Sys2Proof.Claims.LastExitEvictsTheCard : Prop :=
  ∀ (s : State) (k c n : Nat), s.issuer k = some c → (s.core k).hold = none → (s.ctx k c).phase = .exitFill →
    (s.ctx k c).start = 0 → (s.ctx k c).haltReq = false → (∀ x ∈ (s.core k).ctxs, x.2.flights = []) →
    (s.ctx k c).card = some n → (s.card n).st = .running → (s.card n).saved ≠ [] →
    (∀ y ∈ (s.card n).placed, y ≠ (k, c) → s.holdsCtx n y.1 y.2 = false) →
      ∃ u, exec (.bundleIssue k) s = .next u ∧ (u.ctx k c).st = .idle ∧ (u.card n).st = .evicted ∧
        (u.card n).saved = (s.card n).saved ∧ (u.card n).admAt = s.timebase.toNat

/-- R365: firmware tears down a failed card: its hands stop and every context that it still holds is IDLE; a card with no
failure, or torn down already, is left alone. -/
def Sys2Proof.Claims.TeardownClearsTheCard : Prop :=
  ∀ (s : State) (n : Nat),
    ((s.card n).torn = true → exec (.teardown n) s = .next s) ∧
    ((s.card n).status = 0 → (∀ y ∈ (s.card n).placed, (s.ctx y.1 y.2).st ≠ .stopped) →
      (∀ y ∈ (s.card n).kept, y.2.2.faultExit = false) → exec (.teardown n) s = .next s) ∧
    (TearsDown s n →
      ∃ u, exec (.teardown n) s = .next u ∧ (u.card n).torn = true ∧
        (u.card n).status = (if (s.card n).status ≠ 0 then (s.card n).status else s.failStatus n) ∧ u.mem = s.mem ∧
        (∀ y ∈ (s.card n).placed, s.holdsCtx n y.1 y.2 = true → (u.ctx y.1 y.2).st = .idle) ∧
        (∀ k r, k ∈ (s.card n).coresOf → (s.hand k r).card = some n → (u.hand k r).running = false))

/-- R311, R312, R315, R316, R364, R365: eviction, the save and the restore, and the teardown of a card. Parts of it rest
on choices and readings of the model itself, no rules of the spec: log entries 35 and 37. -/
def Obligations.EvictionAndRestore : Prop :=
  EvictionTakesTheContext ∧ SavesEmptyTheContext ∧ RestoresBringTheContextBack ∧ LastExitEvictsTheCard ∧ TeardownClearsTheCard

/-! ### The Exchange -/

/-- R260, R263, R266, R283, R287: BUCKET reads its indices as a transfer of its core does, writes its output area and completes, once
what its notification releases can perform; a group that is not valid ends it with Remote-Error. -/
def Sys2Proof.Claims.BucketStages : Prop :=
  ∀ (s : State) (d : Nat) (before : List Stage) (st : Stage) (after : List Stage) (t : Transfer),
    HeldStage s d before st after t → st.code = 1 → st.started = false →
      ((s.group st.group).getLsbD 0 = false →
        ∃ u, exec (.exchangeBucket d before.length) s = .next u ∧ StageEnds s u d (before ++ after) st t .remoteError []) ∧
      (∀ l v, (s.group st.group).getLsbD 0 = true →
        s.readPlace (.core st.k) d st.asid (wordPlace st.k st.addrA) (8 * (st.param.extractLsb' 0 32).toNat) = .ok l →
        s.writePlace (.core st.k) d st.asid (wordPlace st.k st.addrB)
          (bucketBytes st.blk (ranksOf (s.group st.group)) s.freeCtr (listInts 8 l)) = .ok v →
          (∀ w, s.noteWait st.k t = some w →
            exec (.exchangeBucket d before.length) s = .next (s.awaitDomain (dieOf st.k) (some w))) ∧
          (s.noteWait st.k t = none →
          ∃ u, exec (.exchangeBucket d before.length) s = .next u ∧ StageDone s u d (before ++ after) st t ∧
            (NothingToRelease s st.k t → u.mem = v.mem) ∧
            ∀ k b, (u.core k).buf b = (v.core k).buf b))

/-- R260, R263: BUCKET's output area for indices that are not negative: the counts of every owner, and for every input
position the place of its local row among the local rows. -/
def Sys2Proof.Claims.BucketGroupsByOwner : Prop :=
  ∀ (b d occ : Nat) (l : List Int), 0 < b → 0 < d → (∀ i ∈ l, 0 ≤ i) →
    (bucketBytes b d occ l).length = up64 (4 * (d + 1)) + 12 * l.length ∧
    (∀ o, o < d → wordAt (bucketBytes b d occ l) (4 * o) = BitVec.ofNat 32 (l.filter fun i => decide (i.toNat / b % d = o)).length) ∧
    wordAt (bucketBytes b d occ l) (4 * d) = 0 ∧
    ∀ p i, l[p]? = some i →
      ∃ q, q < l.length ∧
        wordAt (bucketBytes b d occ l) (up64 (4 * (d + 1)) + 8 * l.length + 4 * p) = BitVec.ofNat 32 q ∧
        dwordAt (bucketBytes b d occ l) (up64 (4 * (d + 1)) + 8 * q) =
          BitVec.ofNat 64 (i.toNat / (b * d) * b + i.toNat % b)

/-- R262, R264: GATHER reads its lists, splits each bag by owner, and sends every rank that owns a member its parts; it then
awaits those ranks. A group that is not valid ends it. -/
def Sys2Proof.Claims.GatherSplitsItsBags : Prop :=
  ∀ (s : State) (d : Nat) (before : List Stage) (st : Stage) (after : List Stage) (t : Transfer) (ix of_ wt : List Byte)
    (bags : List Bag),
    HeldStage s d before st after t → st.code = 2 → st.started = false →
      ((s.group st.group).getLsbD 0 = false →
        ∃ u, exec (.exchangeGather d before.length) s = .next u ∧ StageEnds s u d (before ++ after) st t .remoteError []) ∧
      ((s.group st.group).getLsbD 0 = true → descBad (s.shardDesc st) = false → s.stageShort st (s.shardDesc st) = false →
        s.readPlace (.core st.k) d st.asid (wordPlace st.k (dw st.tcr 2)) (8 * tcNidx st.tcr) = .ok ix →
        s.readPlace (.core st.k) d st.asid (wordPlace st.k (dw st.tcr 3)) (4 * (tcNbags st.tcr + 1)) = .ok of_ →
        (if tcWen st.tcr then
          s.readPlace (.core st.k) d st.asid (wordPlace st.k (dw st.tcr 4)) (4 * tcNidx st.tcr) = .ok wt else wt = []) →
        bags = (List.range (tcNbags st.tcr)).map (exBag (tcNidx st.tcr) (listInts 4 of_) (listInts 8 ix) (listWords wt)) →
        (∀ o, o < ranksOf (s.group st.group) → s.peerReach st.group o = true) →
          ∃ u st', exec (.exchangeGather d before.length) s = .next u ∧ (u.die d).stages = before ++ st' :: after ∧
            st'.started = true ∧ st'.uid = st.uid ∧ u.mem = s.mem ∧
            st'.awaits = (List.range (ranksOf (s.group st.group))).filter (fun o =>
              bags.any fun g => !(membersOf st.blk (ranksOf (s.group st.group)) o g).isEmpty) ∧
            ∀ o ∈ st'.awaits, ∃ q : PartReq,
              (if o = groupRank (s.group st.group) then Msg.bagPart q ∈ u.inbox else (st.group, o, Msg.bagPart q) ∈ u.outbox) ∧
              q.parts = bagParts st.blk (ranksOf (s.group st.group)) o bags ∧ q.die = d ∧ q.stage = st.uid ∧
              q.table = tcTable st.tcr ∧ q.mode = st.mode ∧ q.b = st.blk ∧ q.dm1 + 1 = ranksOf (s.group st.group))

/-- R367: a message that is not the first of its route on its way does not arrive yet. -/
def Sys2Proof.Claims.MessagesKeepTheirRoute : Prop :=
  ∀ (s : State) (n : Nat) (m : Msg) (i : MsgSrc → Instr), s.inbox[n]? = some m → ¬ FirstOfRoute s n m →
    i ∈ [Instr.remoteNotifyArrival, .gatherPartArrival, .gatherPartialReturn, .updateCountArrival, .updateAck, .chunkArrival] →
      exec (i (.inFlight n)) s = .next s

/-- R262, R264: a part reaches an owner: with a group that agrees it enters the Vault of its table as a command; else it is
answered as refused. -/
def Sys2Proof.Claims.GatherPartsArrive : Prop :=
  ∀ (s : State) (n : Nat) (q : PartReq), s.inbox[n]? = some (.bagPart q) → FirstOfRoute s n (.bagPart q) →
    ((s.group q.group).getLsbD 0 = false ∨ ranksOf (s.group q.group) ≠ q.dm1 + 1 →
      exec (.gatherPartArrival (.inFlight n)) s = .next { s with
        inbox := s.inbox.eraseIdx n ++
          [.bagDone
            { vault := q.table.toNat / 8192, die := q.die, stage := q.stage, rank := groupRank (s.group q.group), ok := false
              parts := [] }] }) ∧
    ((s.group q.group).getLsbD 0 = true → ranksOf (s.group q.group) = q.dm1 + 1 →
      ∃ u c, exec (.gatherPartArrival (.inFlight n)) s = .next u ∧ u.inbox = s.inbox.eraseIdx n ∧
        (u.vault (q.table.toNat / 8192)).cmds = (s.vault (q.table.toNat / 8192)).cmds ++ [c] ∧ c.src = .part q ∧
        c.kind = 0 ∧ c.prog = 0 ∧ c.mode = q.mode ∧ c.table = q.table ∧ c.started = false ∧ u.mem = s.mem)

/-- R262, R264: an owner's partials return: a refusal ends the stage; otherwise the rank is awaited no longer, and with the
last one every bag has its output. -/
def Sys2Proof.Claims.GatherPartialsReturn : Prop :=
  ∀ (s : State) (d n : Nat) (q : PartialMsg) (before : List Stage) (st : Stage) (after : List Stage) (t : Transfer),
    s.inbox[n]? = some (.bagDone q) → FirstOfRoute s n (.bagDone q) → HeldStage s d before st after t → st.code = 2 →
      q.die = d → q.stage = st.uid →
      (q.ok = false →
        ∃ u, exec (.gatherPartialReturn (.inFlight n)) s = .next u ∧ StageEnds s u d (before ++ after) st t .remoteError []) ∧
      (q.ok = true → q.rank ∉ st.awaits →
        exec (.gatherPartialReturn (.inFlight n)) s = .next { s with inbox := s.inbox.eraseIdx n }) ∧
      (q.ok = true → q.rank ∈ st.awaits → st.awaits ≠ [q.rank] → st.awaits.Nodup →
        exec (.gatherPartialReturn (.inFlight n)) s = .next (State.modDie { s with inbox := s.inbox.eraseIdx n } d fun x =>
          { x with
            stages := before ++
              { st with
                awaits := st.awaits.erase q.rank
                partials := st.partials ++ q.parts.map fun p => (q.rank, p) } :: after })) ∧
      (q.ok = true → st.awaits = [q.rank] →
        ∃ u st', exec (.gatherPartialReturn (.inFlight n)) s = .next u ∧ (u.die d).stages = before ++ st' :: after ∧
          st'.awaits = [] ∧ st'.bags.length = st.bags.length ∧ ∀ g ∈ st'.bags, g.out.isSome = true ∧ g.looked = true)

/-- R253, R264, R266: the Exchange writes the next bag of a GATHER to its ring, one slot and one producer advance; after the
last, the stage completes. Where the ring's descriptor was rewritten meanwhile, the slot's bytes are open (R220). -/
def Sys2Proof.Claims.GatherWritesItsSlots : Prop :=
  ∀ (s : State) (d : Nat) (before : List Stage) (st : Stage) (after : List Stage) (t : Transfer) (g : Bag) (r : Ring),
    HeldStage s d before st after t → st.code = 2 → st.started = true → st.awaits = [] → st.ring < 16 →
      r = (s.core st.k).ring (BitVec.ofNat 4 st.ring) → VaultMayFill r →
      st.bags[st.written]? = some g → g.poison = none →
      (st.written + 1 = (st.nbags + if st.eos then 1 else 0) → s.noteWait st.k t = none) →
        ∃ u, exec (.bagSlotWrite (.exchange d) before.length) s = .next u ∧ (NothingToRelease s st.k t → u.mem = s.mem) ∧
          Produced r ((u.core st.k).ring (BitVec.ofNat 4 st.ring)) 1 ∧
          (s.stageSpoilt st r = false →
            (u.core st.k).readBuf r.buf (r.base.toNat + r.tail.toNat * ((r.slotsz.toNat + 1) * 64))
                (g.bytes st.written st.id).length =
              g.bytes st.written st.id) ∧
          (st.written + 1 = (st.nbags + if st.eos then 1 else 0) → StageDone s u d (before ++ after) st t) ∧
          (st.written + 1 ≠ (st.nbags + if st.eos then 1 else 0) →
            (u.die d).stages = before ++ { st with written := st.written + 1 } :: after)

/-- R265: UPDATE sends every rank of its group a count, and the pairs that it owns in ascending source position; it then
awaits them all. -/
def Sys2Proof.Claims.UpdateSendsItsPairs : Prop :=
  ∀ (s : State) (d : Nat) (before : List Stage) (st : Stage) (after : List Stage) (t : Transfer) (ix gr : List Byte),
    HeldStage s d before st after t → st.code = 3 → st.started = false →
      ((s.group st.group).getLsbD 0 = false →
        ∃ u, exec (.exchangeUpdate d before.length) s = .next u ∧ StageEnds s u d (before ++ after) st t .remoteError []) ∧
      ((s.group st.group).getLsbD 0 = true → descBad (s.shardDesc st) = false →
        s.gradsOut st (4 * descD (s.shardDesc st) * tcNidx st.tcr) = false →
        (∀ o, o < ranksOf (s.group st.group) → s.peerReach st.group o = true) →
        s.readPlace (.core st.k) d st.asid (wordPlace st.k (dw st.tcr 2)) (8 * tcNidx st.tcr) = .ok ix →
        s.readPlace (.core st.k) d st.asid (wordPlace st.k (dw st.tcr 3)) (4 * descD (s.shardDesc st) * tcNidx st.tcr) = .ok gr →
          ∃ u, exec (.exchangeUpdate d before.length) s = .next u ∧ u.mem = s.mem ∧
            (u.die d).stages = before ++
              { st with started := true, awaits := List.range (ranksOf (s.group st.group)) } :: after ∧
            ∀ o, o < ranksOf (s.group st.group) → ∃ q : CountMsg,
              (if o = groupRank (s.group st.group) then Msg.count q ∈ u.inbox else (st.group, o, Msg.count q) ∈ u.outbox) ∧
              q.rank = groupRank (s.group st.group) ∧ q.tag = st.param.extractLsb' 0 32 ∧ q.table = tcTable st.tcr ∧
              q.prog = tcProg st.tcr ∧ q.b = st.blk ∧
              q.pairs.map (fun p => p.pos) =
                (List.range (listInts 8 ix).length).filter (fun p => decide (0 ≤ (listInts 8 ix).getD p 0) &&
                  decide (((listInts 8 ix).getD p 0).toNat / st.blk % ranksOf (s.group st.group) = o)) ∧
              ∀ p ∈ q.pairs, p.idx =
                (((listInts 8 ix).getD p.pos 0).toNat / (st.blk * ranksOf (s.group st.group)) * st.blk +
                  ((listInts 8 ix).getD p.pos 0).toNat % st.blk : Nat))

/-- R262, R265, R390: a count reaches an owner: a copy of one that has come before is dropped; of a group that does not agree it
is refused; the first of its TAG is kept; with the last one the pairs of every rank, in rank order, become one update at the
Vault of the table. -/
def Sys2Proof.Claims.OwnersCollectCounts : Prop :=
  ∀ (s : State) (n : Nat) (m : CountMsg) (old new : List Collect) (c : Collect) (l : List CountMsg),
    s.inbox[n]? = some (.count m) → FirstOfRoute s n (.count m) →
      ((m.group, m.rank, m.die, m.stage) ∈ s.countsSeen →
        exec (.updateCountArrival (.inFlight n)) s = .next { s with inbox := s.inbox.eraseIdx n }) ∧
      ((m.group, m.rank, m.die, m.stage) ∉ s.countsSeen →
        (s.group m.group).getLsbD 0 = false ∨ ranksOf (s.group m.group) ≠ m.dm1 + 1 →
        exec (.updateCountArrival (.inFlight n)) s = .next { s with
          countsSeen := s.countsSeen ++ [(m.group, m.rank, m.die, m.stage)]
          inbox := s.inbox.eraseIdx n ++
            [.ack { vault := m.table.toNat / 8192, die := m.die, stage := m.stage, owner := groupRank (s.group m.group), ok := false
                    dropped := [] }] }) ∧
      ((m.group, m.rank, m.die, m.stage) ∉ s.countsSeen → (s.group m.group).getLsbD 0 = true →
        ranksOf (s.group m.group) = m.dm1 + 1 →
        ((∀ x ∈ s.collects, ¬ (x.group = m.group ∧ x.tag = m.tag)) → 0 < m.dm1 →
          exec (.updateCountArrival (.inFlight n)) s = .next { s with
            inbox := s.inbox.eraseIdx n
            countsSeen := s.countsSeen ++ [(m.group, m.rank, m.die, m.stage)]
            collects := s.collects ++ [{ group := m.group, tag := m.tag, first := s.timebase.toNat, counts := [m] }] }) ∧
        (s.collects = old ++ c :: new → (∀ x ∈ old, ¬ (x.group = m.group ∧ x.tag = m.tag)) → c.group = m.group →
          c.tag = m.tag → c.running = false → c.expired = false → c.counts.length = m.dm1 →
          l.Perm (m :: c.counts) → l.Pairwise (fun a b => a.rank < b.rank) → (∀ a ∈ l, SameUpdate a m) →
            ∃ u x, exec (.updateCountArrival (.inFlight n)) s = .next u ∧
              (u.vault (m.table.toNat / 8192)).cmds = (s.vault (m.table.toNat / 8192)).cmds ++ [x] ∧
              x.src = .upd m.group m.tag ∧ x.kind = 1 ∧ x.prog = m.prog ∧ x.seqm = m.seq ∧
              x.idxs = l.flatMap (fun a => a.pairs.map fun p => p.idx) ∧
              x.grads = l.flatMap (fun a => a.pairs.map fun p => p.grad) ∧ u.mem = s.mem))

/-- R265: an owner that has waited XTMO from the first count without holding them all refuses every rank that contributed;
within XTMO, or without one, it goes on waiting. -/
def Sys2Proof.Claims.CollectivesTimeOut : Prop :=
  ∀ (s : State) (d n : Nat) (c : Collect) (m : CountMsg) (l : List CountMsg),
    s.collects[n]? = some c → c.counts = m :: l → m.table.toNat / 8192 / 4 = d → c.running = false → c.expired = false →
      ((s.group c.group).extractLsb' 44 20 = 0 → exec (.xtmoExpiry d n) s = .next s) ∧
      (s.timebase.toNat < c.first + 1024 * ((s.group c.group).extractLsb' 44 20).toNat → exec (.xtmoExpiry d n) s = .next s) ∧
      ((s.group c.group).extractLsb' 44 20 ≠ 0 →
        c.first + 1024 * ((s.group c.group).extractLsb' 44 20).toNat ≤ s.timebase.toNat →
          ∃ u, exec (.xtmoExpiry d n) s = .next u ∧ u.collects = s.collects.set n { c with expired := true } ∧
            u.vaults = s.vaults ∧ u.mem = s.mem ∧
            ∀ a ∈ c.counts, ∃ q : AckMsg, q.die = a.die ∧ q.stage = a.stage ∧ q.ok = false ∧
              if a.rank = groupRank (s.group c.group) then Msg.ack q ∈ u.inbox else (c.group, a.rank, Msg.ack q) ∈ u.outbox)

/-- R262, R265, R266: an owner's answer to an UPDATE: a refusal ends the stage; an acknowledgement is awaited no longer, and
the stage completes with the last. -/
def Sys2Proof.Claims.UpdatesAreAcknowledged : Prop :=
  ∀ (s : State) (d n : Nat) (q : AckMsg) (before : List Stage) (st : Stage) (after : List Stage) (t : Transfer),
    s.inbox[n]? = some (.ack q) → FirstOfRoute s n (.ack q) → HeldStage s d before st after t → st.code = 3 → q.die = d →
      q.stage = st.uid →
      (q.ok = false →
        ∃ u, exec (.updateAck (.inFlight n)) s = .next u ∧ StageEnds s u d (before ++ after) st t .remoteError []) ∧
      (q.ok = true → q.owner ∉ st.awaits → exec (.updateAck (.inFlight n)) s = .next { s with inbox := s.inbox.eraseIdx n }) ∧
      (q.ok = true → q.dropped = [] → st.awaits = [q.owner] → s.noteWait st.k t = none →
        ∃ u, exec (.updateAck (.inFlight n)) s = .next u ∧ StageDone s u d (before ++ after) st t ∧ (NothingToRelease s st.k t → u.mem = s.mem)) ∧
      (q.ok = true → q.dropped = [] → q.owner ∈ st.awaits → st.awaits.erase q.owner ≠ [] →
        exec (.updateAck (.inFlight n)) s = .next (State.modDie { s with inbox := s.inbox.eraseIdx n } d fun x =>
          { x with stages := before ++ { st with awaits := st.awaits.erase q.owner } :: after }))

/-- R220, R253, R262, R264, R265, R266, R367, R390: what owners and the source do as the messages of a collective arrive.
Parts of it rest on choices and readings of the model itself, no rules of the spec: log entries 25, 28, 42 and 48. -/
def Obligations.CollectivesAnswer : Prop :=
  MessagesKeepTheirRoute ∧ GatherPartsArrive ∧ GatherPartialsReturn ∧ GatherWritesItsSlots ∧ OwnersCollectCounts ∧ CollectivesTimeOut ∧ UpdatesAreAcknowledged

/-- R267, R268, R283, R285: CADD adds to its counter, which stays at 2^32 − 1, or sets it, after the stores that a fence of its
context put before it have performed at module scope; it waits while they cannot; CPOST advances PI of a valid queue pair with
room and ends in Remote-Error otherwise, PI as it was. -/
def Sys2Proof.Claims.CountersAndPosts : Prop :=
  ∀ (s : State) (d : Nat) (before : List Stage) (st : Stage) (after : List Stage) (t : Transfer),
    HeldStage s d before st after t → st.started = false →
      (st.code = 15 →
        (∀ w, s.releaseWait st.k t 3 = some w →
          exec (.caddStage d before.length) s = .next (s.awaitDomain (dieOf st.k) (some w))) ∧
        (s.releaseWait st.k t 3 = none →
        ∃ u, exec (.caddStage d before.length) s = .next u ∧ StageDone s u d (before ++ after) st t ∧
          ((s.core st.k).stores = [] → u.mem = s.mem) ∧
          (∀ c, t.by_ = .ctx st.k c → ∀ p ∈ (u.core st.k).stores, p.c = c → p.ord < t.fenceOrd → p.need = none) ∧
          (Tab.get 0 (u.die d).counters (st.param.extractLsb' 0 10).toNat).toNat =
            (if st.param.getLsbD 12 then (st.param.extractLsb' 32 32).toNat
              else min 4294967295 ((Tab.get 0 (s.die d).counters (st.param.extractLsb' 0 10).toNat).toNat +
                (st.param.extractLsb' 32 32).toNat)) ∧
          ∀ i, i ≠ (st.param.extractLsb' 0 10).toNat → Tab.get 0 (u.die d).counters i = Tab.get 0 (s.die d).counters i)) ∧
      (∀ q : Qp, st.code = 14 → q = Tab.get {} (s.die d).qps (st.param.extractLsb' 0 8).toNat →
        (q.valid = true → (q.pi - q.ci).toNat + ((st.param.extractLsb' 16 12).toNat + 1) ≤ 2 ^ q.qlog.toNat →
          s.noteWait st.k t = none →
          ∃ u, exec (.cpostStage d before.length) s = .next u ∧ StageDone s u d (before ++ after) st t ∧ (NothingToRelease s st.k t → u.mem = s.mem) ∧
            Tab.get {} (u.die d).qps (st.param.extractLsb' 0 8).toNat =
              { q with pi := q.pi + BitVec.ofNat 64 ((st.param.extractLsb' 16 12).toNat + 1) }) ∧
        (q.valid = false ∨ 2 ^ q.qlog.toNat < (q.pi - q.ci).toNat + ((st.param.extractLsb' 16 12).toNat + 1) →
          ∃ u, exec (.cpostStage d before.length) s = .next u ∧ StageEnds s u d (before ++ after) st t .remoteError [] ∧
            (u.die d).qps = (s.die d).qps))

/-- R260, R262, R263, R264, R265, R266, R267, R268, R283, R285, R287: the stages and what they send. Parts of it rest on
choices and readings of the model itself, no rules of the spec: log entry 28. -/
def Obligations.StagesOfTheExchange : Prop :=
  BucketStages ∧ BucketGroupsByOwner ∧ GatherSplitsItsBags ∧ UpdateSendsItsPairs ∧ CountersAndPosts

/-! ### The Clearing engine -/

/-- R268, R271: the next entry of a queue pair is armed when its counter has reached THRESH: THRESH is subtracted, CI advances,
and the entry is started, failed at once where a check fails. Short of THRESH, or with nothing posted, nothing happens. -/
def Sys2Proof.Claims.EntriesArm : Prop :=
  ∀ (s : State) (d qp : Nat) (q : Qp) (b : List Byte),
    q = Tab.get {} (s.die d).qps qp →
      (q.valid = false ∨ q.pi = q.ci → exec (.entryArm d qp) s = .next s) ∧
      (q.valid = true → q.pi ≠ q.ci →
        s.devRead d 0 ((q.qbase.setWidth 64 <<< 12) + BitVec.ofNat 64 (64 * (q.ci.toNat % 2 ^ q.qlog.toNat))) 56 = .ok b →
        (Tab.get 0 (s.die d).counters ((dw (bytesDwords b) 4).extractLsb' 0 10).toNat <
            (dw (bytesDwords b) 4).extractLsb' 32 32 →
          exec (.entryArm d qp) s = .next s) ∧
        ((dw (bytesDwords b) 4).extractLsb' 32 32 ≤
            Tab.get 0 (s.die d).counters ((dw (bytesDwords b) 4).extractLsb' 0 10).toNat →
          ∃ u e, exec (.entryArm d qp) s = .next u ∧ u.entries = s.entries ++ [e] ∧ e.d = d ∧ e.qp = qp ∧
            e.eseq = q.ci.toNat ∧ e.dw = bytesDwords b ∧ e.asid = q.asid ∧ e.sent = false ∧ e.nchunks = 0 ∧ e.acked = [] ∧
            Tab.get {} (u.die d).qps qp = { q with ci := q.ci + 1 } ∧
            Tab.get 0 (u.die d).counters ((dw (bytesDwords b) 4).extractLsb' 0 10).toNat =
              Tab.get 0 (s.die d).counters ((dw (bytesDwords b) 4).extractLsb' 0 10).toNat -
                (dw (bytesDwords b) 4).extractLsb' 32 32 ∧
            (e.reserved = true → e.fail = some .reservedField) ∧
            (e.reserved = false → e.kind = 2 → 4 ≤ e.rop → s.accepted 8 = false → e.fail = some .featureNotAccepted) ∧
            (e.reserved = false → e.kind = 0 ∨ e.kind = 4 → e.fail = none) ∧ u.mem = s.mem))

/-- R270, R275: a data entry that has not failed sends its next chunk of 1,024 elements, with its identity, the chunk's number
and the values of its operation; memory, counters, queue pairs and stages stay. A source page that is absent is asked for, and
the entry stays at the chunk (R276). -/
def Sys2Proof.Claims.EntriesSendTheirChunks : Prop :=
  ∀ (s : State) (d n : Nat) (i : Instr) (e : Entry) (op : EntryOp),
    s.entries[n]? = some e → e.d = d → e.fail = none → chunkForm i d n e = some op →
      (e.op? = some op → e.nchunks < (e.len + 1023) / 1024 →
        (∀ l, s.chunkData e op e.nchunks = .ok l →
          ∃ u, exec i s = .next u ∧ Sent s u e.group e.drank (.chunk (chunkOf s e op e.nchunks l)) ∧
            u.entries = s.entries.set n { e with nchunks := e.nchunks + 1, flags := e.flags ||| sumFlags l } ∧
            u.mem = s.mem ∧ ∀ x, (u.die x).counters = (s.die x).counters ∧ (u.die x).qps = (s.die x).qps ∧
              (u.die x).stages = (s.die x).stages) ∧
        (∀ w va, s.chunkData e op e.nchunks = .page w va →
          ∃ u, exec i s = .next u ∧ { asid := e.asid, va, cow := w, who := .entry d e.qp e.eseq } ∈ u.pageReqs ∧
            u.entries = s.entries ∧ u.inbox = s.inbox ∧ u.outbox = s.outbox ∧ u.mem = s.mem) ∧
        (∀ va, s.chunkData e op e.nchunks = .fault .translationFault va →
          exec i s = .next { s with entries := s.entries.set n { e with fail := some .translationFault } })) ∧
      (e.op? ≠ some op ∨ (e.len + 1023) / 1024 ≤ e.nchunks → exec i s = .next s)

/-- R275: a chunk that has been sent and not acknowledged may be sent again as it was; one acknowledged is not. -/
def Sys2Proof.Claims.ChunksAreSentAgain : Prop :=
  ∀ (s : State) (d n c : Nat) (e : Entry) (op : EntryOp), s.entries[n]? = some e → e.d = d → e.fail = none →
    (c ∈ e.acked ∨ e.nchunks ≤ c → exec (.chunkResend d n c) s = .next s) ∧
    (∀ l, c ∉ e.acked → c < e.nchunks → e.op? = some op → s.chunkData e op c = .ok l →
      ∃ u, exec (.chunkResend d n c) s = .next u ∧ Sent s u e.group e.drank (.chunk (chunkOf s e op c l)) ∧
        u.entries = s.entries.set n { e with flags := e.flags ||| sumFlags l } ∧ u.mem = s.mem)

/-- R274, R275: exactly once: a chunk that the target has applied, or whose entry it has closed, is acknowledged again with the
flags that its application set, and changes nothing; another is applied, recorded as applied, and acknowledged; after that it
is of the first sort. One whose page is absent is parked where there is room (R276). -/
def Sys2Proof.Claims.ChunksApplyOnce : Prop :=
  ∀ (s : State) (m : Chunk),
    (s.chunkSeen m = true →
      ∃ u, exec (.chunkArrival (.fromPeer (.chunk m))) s = .next u ∧
        Sent s u m.id.group m.id.srcRank (.chunkAck m.id m.c (s.chunkFlags m) none m.ddie) ∧ u.mem = s.mem ∧
        u.applied = s.applied) ∧
    (s.chunkSeen m = false →
      (∀ v fl, s.applyChunk m = .ok (v, fl) →
        ∃ u, exec (.chunkArrival (.fromPeer (.chunk m))) s = .next u ∧
          Sent s u m.id.group m.id.srcRank (.chunkAck m.id m.c fl none m.ddie) ∧ u.mem = v.mem ∧ u.chunkSeen m = true ∧
          u.chunkFlags m = fl) ∧
      (∀ c va, s.applyChunk m = .fault c va →
        ∃ u, exec (.chunkArrival (.fromPeer (.chunk m))) s = .next u ∧
          Sent s u m.id.group m.id.srcRank (.chunkAck m.id m.c 0 (some c) m.ddie) ∧ u.mem = s.mem ∧ u.applied = s.applied) ∧
      (∀ w va, s.applyChunk m = .page w va →
        (s.parkedChunks.foldl (fun n x => n + x.parkBytes) 0) + m.parkBytes ≤ 4194304 →
        ∃ u, exec (.chunkArrival (.fromPeer (.chunk m))) s = .next u ∧ u.parkedChunks = s.parkedChunks ++ [m] ∧
          u.inbox = s.inbox ∧ u.outbox = s.outbox ∧ u.mem = s.mem ∧
          { asid := Tab.get 0 s.groupAsid m.id.group, va, cow := w, who := .chunk m.id m.c } ∈ u.pageReqs))

/-- R267, R275, R367: the other messages of the Clearing engine, each once it is the first of its route: a counter action adds
to, or sets, its counter and is answered; an acknowledgement is kept by its entry, and a refused chunk fails it. -/
def Sys2Proof.Claims.ClearingMessages : Prop :=
  ∀ (s : State) (n : Nat) (e : Entry) (id : EntryId),
    s.entries = [e] → e.d = id.die → e.qp = id.qp → e.eseq = id.eseq →
      (∀ c fl src, s.inbox[n]? = some (.chunkAck id c fl none src) → FirstOfRoute s n (.chunkAck id c fl none src) → c ∉ e.acked →
        exec (.chunkArrival (.inFlight n)) s = .next { s with
          inbox := s.inbox.eraseIdx n, entries := [{ e with acked := e.acked ++ [c], flags := e.flags ||| fl }] }) ∧
      (∀ c fl src, s.inbox[n]? = some (.chunkAck id c fl (some .pagePermission) src) →
        FirstOfRoute s n (.chunkAck id c fl (some .pagePermission) src) →
        exec (.chunkArrival (.inFlight n)) s = .next { s with
          inbox := s.inbox.eraseIdx n, entries := [{ e with fail := some .pagePermission }] }) ∧
      (∀ src, s.inbox[n]? = some (.counterAck id src) → FirstOfRoute s n (.counterAck id src) →
        exec (.chunkArrival (.inFlight n)) s = .next { s with inbox := s.inbox.eraseIdx n, entries := [{ e with acted := true }] }) ∧
      (∀ g r d c set amt reply src, s.inbox[n]? = some (.counter g r d c set amt reply src) →
        FirstOfRoute s n (.counter g r d c set amt reply src) →
        ∃ u v, exec (.chunkArrival (.inFlight n)) s = .next u ∧ v.inbox = s.inbox.eraseIdx n ∧ v.outbox = s.outbox ∧
          v.groups = s.groups ∧
          (reply = none → u.inbox = v.inbox ∧ u.outbox = v.outbox) ∧
          (∀ x, reply = some x → Sent v u g x.srcRank (.counterAck x d)) ∧ u.mem = s.mem ∧
          Tab.get 0 (u.die d).counters c = (if set then amt else added (Tab.get 0 (s.die d).counters c) amt) ∧
          ∀ j, j ≠ c → Tab.get 0 (u.die d).counters j = Tab.get 0 (s.die d).counters j)

/-- R276, R336: two chunks share a page: their groups are bound to one space, and their bytes to a page of it. -/
def Sys2Proof.Claims.ChunksOfOnePage : Prop :=
  ∀ (s : State) (a b : Chunk), 0 < a.size → 0 < b.size →
    (s.samePage a b = true ↔ Tab.get 0 s.groupAsid a.id.group = Tab.get 0 s.groupAsid b.id.group ∧
      ∃ p x y, a.at_ ≤ x ∧ x < a.at_ + a.size ∧ b.at_ ≤ y ∧ y < b.at_ + b.size ∧ x / 65536 = p ∧ y / 65536 = p)

/-- R276: a parked chunk applies once its page is there, unless one parked before it for the same page still waits. -/
def Sys2Proof.Claims.ParkedChunksApply : Prop :=
  ∀ (s : State) (before : List Chunk) (m : Chunk) (after : List Chunk), s.parkedChunks = before ++ m :: after →
    ((∃ x ∈ before, s.samePage x m = true) → exec (.parkedChunkApply before.length) s = .next s) ∧
    (∀ v fl, (∀ x ∈ before, s.samePage x m = false) → s.chunkSeen m = false →
      State.applyChunk { s with parkedChunks := before ++ after } m = .ok (v, fl) →
        ∃ u, exec (.parkedChunkApply before.length) s = .next u ∧ u.parkedChunks = before ++ after ∧ u.mem = v.mem ∧
          Sent s u m.id.group m.id.srcRank (.chunkAck m.id m.c fl none m.ddie) ∧ u.chunkSeen m = true) ∧
    (∀ w va, (∀ x ∈ before, s.samePage x m = false) → s.chunkSeen m = false →
      State.applyChunk { s with parkedChunks := before ++ after } m = .page w va →
        ∃ u, exec (.parkedChunkApply before.length) s = .next u ∧ u.parkedChunks = s.parkedChunks ∧ u.mem = s.mem)

/-- R270: each destination element after its application: the word of a copy, the word narrowed to BF16, the rounded sum, the
larger and the smaller, the merged triple, the exact sum of an accumulator, the larger exponent. -/
def Sys2Proof.Claims.ElementsAreApplied : Prop :=
  ∀ (old : List Byte) (x : Int) (w : Word), old.length = 4 → w = BitVec.ofInt 32 x →
    applyElem .copy old [x] = (leBytes 4 w.toNat, 0) ∧
    applyElem .bxfin old [x] = (leBytes 4 w.toNat, 0) ∧
    (applyElem .sum old [x]).1 = leBytes 4 (add32 (leWord old) w).1.toNat ∧
    (applyElem .narrow old [x]).1 = leBytes 2 (rnebf16 (f32 w)).1 ∧
    (applyElem .max old [x]).1 = leBytes 4 (rneOp (Ex.maxMin true (f32 (leWord old)) (f32 w))).1.toNat ∧
    (applyElem .min old [x]).1 = leBytes 4 (rneOp (Ex.maxMin false (f32 (leWord old)) (f32 w))).1.toNat ∧
    (∀ (a b : Triple), (applyElem .triple (leBytes 4 a.w.toNat ++ leBytes 4 a.mu.toNat ++ leBytes 4 a.m2.toNat)
        [(b.w.toNat : Int), (b.mu.toNat : Int), (b.m2.toNat : Int)]).1 =
      leBytes 4 (qmerge a b).1.w.toNat ++ leBytes 4 (qmerge a b).1.mu.toNat ++ leBytes 4 (qmerge a b).1.m2.toNat) ∧
    (applyElem .bxexp old [x]).1 = leBytes 4 (BitVec.ofInt 32 (max (leWord old).toInt x)).toNat ∧
    (∀ acc : List Byte, acc.length = 16 →
      (applyElem .bxsum acc [x]).1 = leBytes 16 (BitVec.ofNat 128 (leNat acc) + BitVec.ofInt 128 x).toNat)

/-- R267, R270, R274, R275, R276, R336, R367: how arriving chunks are applied. Parts of it rest on choices and readings of
the model itself, no rules of the spec: log entry 29. -/
def Obligations.ChunksApply : Prop :=
  ChunksApplyOnce ∧ ClearingMessages ∧ ChunksOfOnePage ∧ ParkedChunksApply ∧ ElementsAreApplied

/-- R267, R269, R270: a CADD entry sends its action to the target once; an XSTAGE entry hands the checked descriptor that AUX
names to the Exchange of its die, once, as a stage without an issuing context. -/
def Sys2Proof.Claims.CountersAndStagesOfEntries : Prop :=
  ∀ (s : State) (d n : Nat) (e : Entry), s.entries[n]? = some e → e.d = d → e.fail = none →
    (e.sent = true → exec (.entryCadd d n) s = .next s ∧ exec (.entryXstage d n) s = .next s) ∧
    (e.kind = 3 → e.sent = false →
      ∃ u, exec (.entryCadd d n) s = .next u ∧ u.entries = s.entries.set n { e with sent := true } ∧ u.mem = s.mem ∧
        Sent s u e.group e.drank (.counter e.group e.drank e.ddie e.rctr ((e.dword 3).getLsbD 12)
          ((e.dword 3).extractLsb' 32 32)
          (some { group := e.group, srcRank := groupRank (s.group e.group), die := e.d, qp := e.qp, eseq := e.eseq }) e.d)) ∧
    (∀ b l, e.kind = 4 → e.sent = false → s.entryRead e (e.dword 3) 0 64 = .ok b → s.entryStage e (bytesDwords b) = .ok l →
      ∃ u st, exec (.entryXstage d n) s = .next u ∧ u.entries = s.entries.set n { e with sent := true } ∧
        (u.die d).stages = (s.die d).stages ++ [st] ∧ st.code = sdStage l ∧ st.by_ = .entry e.d e.qp e.eseq ∧
        st.trap = false ∧ st.started = false ∧ st.asid = e.asid ∧ u.mem = s.mem)

/-- R270, R274: an entry completes when its chunks are all acknowledged, its counter has changed or its stage has completed; a
NOP at once. It leaves the engine; RAMT and LAMT are added where they are not 0, a notification posts AMT to FLAG of core 48·d,
or of CORE where it is remote, and the status reports DONE with the flags, with NREF where that core holds no context of the
space that names the flag: then nothing is posted. A failed entry only leaves its status and an event. Where the status must wait for its stack (R379), the end waits. -/
def Sys2Proof.Claims.EntriesComplete : Prop :=
  ∀ (s : State) (d n : Nat) (e : Entry), s.entries[n]? = some e → e.d = d →
    (e.fail = none → (∀ op, e.op? = some op → e.acked.length ≠ (e.len + 1023) / 1024) → (e.op? = none → e.acted = false) →
      exec (.entryComplete d n) s = .next s) ∧
    (∀ i (k : Nat) (may : Bool), (∀ x, s.devSpan d 0 .write (e.va + 56) 8 ≠ .wait x) → e.fail = none →
      k = (if noteRemote (e.dword 6) then noteCore (e.dword 6) else 48 * d) →
      may = s.noteMay k (noteFlag (e.dword 6)) e.asid →
      (i = .entryNop d n ∧ e.kind = 0 ∨
        i = .entryComplete d n ∧ ((∃ op, e.op? = some op ∧ e.acked.length = (e.len + 1023) / 1024) ∨
          (e.op? = none ∧ e.acted = true))) →
        ∃ u, exec i s = .next u ∧ u.entries = s.entries.eraseIdx n ∧
          StatusWritten s u e (statusWord true (noteEn (e.dword 6) && !may) 0 e.flags) ∧
          (noteEn (e.dword 6) = true → may = true →
            Posted (s.core k) (u.core k) (noteFlag (e.dword 6)) (noteAmt (e.dword 6)) (s.tookNow k (noteFlag (e.dword 6))) ∧
              ∀ j, j ≠ k → u.core j = s.core j) ∧
          (noteEn (e.dword 6) = false ∨ may = false → ∀ j, u.core j = s.core j) ∧
          (e.ramt = 0 → e.lamt = 0 → ∀ j, Tab.get 0 (u.die d).counters j = Tab.get 0 (s.die d).counters j) ∧
          (e.ramt = 0 → e.lamt ≠ 0 →
            Tab.get 0 (u.die d).counters e.lctr = added (Tab.get 0 (s.die d).counters e.lctr) e.lamt) ∧
          (e.kind = 0 ∨ e.kind = 4 → e.ramt ≠ 0 → e.lamt = 0 →
            Tab.get 0 (u.die d).counters e.rctr = added (Tab.get 0 (s.die d).counters e.rctr) e.ramt) ∧
          (e.kind ≠ 0 → e.kind ≠ 4 → e.ramt ≠ 0 → e.drank ≠ groupRank (s.group e.group) →
            u.outbox = s.outbox ++ [(e.group, e.drank, .counter e.group e.drank e.ddie e.rctr false e.ramt none e.d)])) ∧
    (∀ x, s.devSpan d 0 .write (e.va + 56) 8 = .wait x →
      ∃ u, exec (.entryComplete d n) s = .next u ∧ u.entries = s.entries ∧ u.mem = s.mem ∧ u.inbox = s.inbox ∧
        u.outbox = s.outbox ∧ ∀ j, Tab.get 0 (u.die d).counters j = Tab.get 0 (s.die d).counters j) ∧
    (∀ c, (∀ x, s.devSpan d 0 .write (e.va + 56) 8 ≠ .wait x) → e.fail = some c →
      ∃ u, exec (.entryComplete d n) s = .next u ∧ u.entries = s.entries.eraseIdx n ∧
        StatusWritten s u e (statusWord false false c.code 0) ∧ u.outbox = s.outbox ∧ u.inbox = s.inbox ∧
        ∀ j, Tab.get 0 (u.die d).counters j = Tab.get 0 (s.die d).counters j)

/-- R267, R268, R269, R270, R271, R274, R275, R276, R379: how an entry of a queue pair arms, sends and completes. Parts of
it rest on choices and readings of the model itself, no rules of the spec: log entries 29 and 48. -/
def Obligations.QueueEntriesSend : Prop :=
  EntriesArm ∧ EntriesSendTheirChunks ∧ ChunksAreSentAgain ∧ CountersAndStagesOfEntries ∧ EntriesComplete

/-! ### The page service -/

/-- R301, R348: a copy-on-write request: an entry that is no longer copy-on-write only replays; a frame with one reference is
given to the page as it is; otherwise, with a free frame, the page is copied there and both reference counts follow. The stores
that the old mapping took perform first. With no free frame the service declines; while a change of the entry is in progress,
another frame is to be found, or memory that it needs is not in service (R323, R379), the request waits. -/
def Sys2Proof.Claims.CopyOnWriteIsServed : Prop :=
  ∀ (s : State) (n : Nat) (r : PageReq) (l : Leaf) (b : Nat),
    s.pageReqs[n]? = some r → r.cow = true → s.leafOf r.asid r.va = .leaf l →
      (s.entryBusy l = true → ∀ pick, exec (.cowService n pick) s = .next s) ∧
      (s.entryBusy l = false → entCow l.ent = false → ∀ pick,
        exec (.cowService n pick) s = .next ((Unasked s r).served r.who)) ∧
      (s.entryBusy l = false → entCow l.ent = true → l.big = false →
        s.frameBase (entTier l.ent) (entFrame l.ent) 1 = some b → s.mem.wf = true →
        (∀ w pick, (s.frame (frameOf b)).refc = 1 → s.leafWait l = some w →
          exec (.cowService n pick) s = .next (s.awaitDomain 0 (some w))) ∧
        ((s.frame (frameOf b)).refc = 1 → s.leafWait l = none → ∀ pick,
          ∃ v : State, exec (.cowService n pick) s = .next ((Unasked v r).served r.who) ∧
            OwnEntry l.ent (v.entryAt l.at_) (entFrame l.ent) ∧ v.frames = s.frames ∧
            ∀ x, x < l.at_ ∨ l.at_ + 8 ≤ x → v.mem.read x = (s.drainRange b 65536).mem.read x) ∧
        ((s.frame (frameOf b)).refc ≠ 1 →
          exec (.cowService n none) s =
            .next (if s.tierFull (entTier l.ent) 1 then (Unasked s r).refused r else s)) ∧
        (∀ p : BitVec 36, (s.frame (frameOf b)).refc ≠ 1 → s.freeFrame (entTier l.ent) p 1 = none →
          exec (.cowService n (some p)) s = .next s) ∧
        (∀ (p : BitVec 36) (nb : Nat), (s.frame (frameOf b)).refc ≠ 1 →
          s.leafWait l = none → s.pageWait b 65536 = none → s.pageWait nb 65536 = none →
          s.freeFrame (entTier l.ent) p 1 = some nb → nb % 65536 = 0 → b % 65536 = 0 → nb ≠ b →
          (l.at_ + 8 ≤ nb ∨ nb + 65536 ≤ l.at_) →
          ∃ v : State, exec (.cowService n (some p)) s = .next
              ((Unasked ((v.putFrame (frameOf b) { s.frame (frameOf b) with refc := (s.frame (frameOf b)).refc - 1 }).putFrame
                (frameOf nb) { s.frame (frameOf nb) with refc := 1 }) r).served r.who) ∧
            OwnEntry l.ent (v.entryAt l.at_) p.toNat ∧ v.frames = s.frames ∧
            ∀ i, i < 65536 → (b + i < l.at_ ∨ l.at_ + 8 ≤ b + i) →
              v.mem.read (nb + i) = (s.drainRange b 65536).mem.read (b + i) ∧ v.mem.read (b + i) = v.mem.read (nb + i)))

/-- R276, R301, R348 step 4: what becomes of the party of a request: a context that trapped for the page service replays, one
that halted since only owes nothing; where the service declines, the context enters its handler, and the entry of a parked
chunk hears the cause. Another party tries its access again by itself. -/
def Sys2Proof.Claims.PartiesReplayOrHearTheFault : Prop :=
  ∀ (s : State) (r : PageReq),
    (∀ k c, r.who = .ctx k c → (s.ctx k c).server = .pageService →
      ((s.ctx k c).st = .trapped → s.served r.who = s.eret k c ∧
        s.refused r = s.enterTrap k c
          { cause := if r.cow then .cowWrite else .pageAbsent, tval := r.va, epcb := (s.ctx k c).epcb
            slotres := (s.ctx k c).slotres.toNat, baddr := (s.ctx k c).epcb, async := false
            slot := (s.ctx k c).slotres.toNat, psvc := true }) ∧
      ((s.ctx k c).st = .halted →
        s.served r.who = s.modCtx k c (fun x => { x with owed := false, server := .none }) ∧
        s.refused r = s.modCtx k c fun x =>
          { x with owed := false, server := .none, declined := some (if r.cow then .cowWrite else .pageAbsent, r.va) })) ∧
    (∀ k c, r.who = .ctx k c → (s.ctx k c).server ≠ .pageService → s.served r.who = s ∧ s.refused r = s) ∧
    ((∀ k c, r.who ≠ .ctx k c) → s.served r.who = s) ∧
    (∀ m before after, r.who = .chunk m.id m.c → s.parkedChunks = before ++ m :: after →
      (∀ x ∈ before, x.id ≠ m.id ∨ x.c ≠ m.c) → m ∉ before →
        Sent s (s.refused r) m.id.group m.id.srcRank (.chunkAck m.id m.c 0 (some (if r.cow then .cowWrite else .pageAbsent)) m.ddie) ∧
        (s.refused r).parkedChunks = before ++ after ∧ (s.refused r).mem = s.mem) ∧
    (∀ k h, r.who = .hand k h → (s.hand k h).running = true →
      s.refused r = s.handFault k h (if r.cow then .cowWrite else .pageAbsent) r.va)

/-- R349 to R351: an absent page with a default tier: the service takes a free frame, marks the entry as a long move, tells the
host and records the move; the request waits. Without a tier, or with the tier full, it declines; a page that is there
replays. -/
def Sys2Proof.Claims.AbsentPagesAreServed : Prop :=
  ∀ (s : State) (n : Nat) (r : PageReq) (l : Leaf) (f : BitVec 36) (tier : BitVec 2),
    s.pageReqs[n]? = some r → r.cow = false → s.leafOf r.asid r.va = .leaf l → tier = Tab.get 3 s.defaultTier r.asid.toNat →
      (s.entryBusy l = true → ∀ pick, exec (.pageAbsentService n pick) s = .next s) ∧
      (s.entryBusy l = false → entTier l.ent ≠ 3 → ∀ pick,
        exec (.pageAbsentService n pick) s = .next ((Unasked s r).served r.who)) ∧
      (s.entryBusy l = false → entTier l.ent = 3 →
        (tier = 3 → ∀ pick, exec (.pageAbsentService n pick) s = .next ((Unasked s r).refused r)) ∧
        (tier ≠ 3 → exec (.pageAbsentService n none) s =
          .next (if s.tierFull tier.toNat (leafPages l.big) then (Unasked s r).refused r else s)) ∧
        (tier ≠ 3 → (s.freeFrame tier.toNat f (leafPages l.big)).isSome = true → s.mem.wf = true → s.pageWait l.at_ 8 = none →
          ∃ u m, exec (.pageAbsentService n (some f)) s = .next u ∧ u.moves = s.moves ++ [m] ∧ m.long = true ∧ m.step = 0 ∧
            m.asid = r.asid ∧ m.va = r.va ∧ m.at_ = l.at_ ∧ m.big = l.big ∧ m.srcTier = 3 ∧ m.dstTier = tier ∧ m.dstFrame = f ∧
            m.req = none ∧ u.pageReqs = s.pageReqs ∧ entMov (u.entryAt l.at_) = 2 ∧
            ∀ x, x < l.at_ ∨ l.at_ + 8 ≤ x → u.mem.read x = s.mem.read x))

/-- R346: the driver posts requests once the module is READY; a request that breaks a rule ends with WHY 1, whatever its
operation; one whose status had to wait ends before anything else. -/
def Sys2Proof.Claims.RequestsArePostedAndChecked : Prop :=
  ∀ (s : State) (d : Nat) (ppi a : Dword) (l : List Dword) (n : Nat) (i : Instr) (pick : Option (BitVec 36)),
    (s.siltin = .ready →
      exec (.pageQueuePost d ppi) s = .next (s.modDie d fun x => { x with pq := { x.pq with ppi } })) ∧
    (s.siltin ≠ .ready → exec (.pageQueuePost d ppi) s = .next s) ∧
    ((i = .share d ∨ i = .unshare d ∨ i = .migrate d pick ∨ i = .inval d) → (s.die d).pq.cur = some (a, l, n) →
      ((s.die d).pq.ending = none → s.rqBad l = true → RequestRefused s i d a n 1) ∧
      (∀ why m, (s.die d).pq.ending = some (why, m) →
        ∃ u, exec i s = .next u ∧ RequestEnds s u d a why m))

/-- R276, R301, R323, R346, R348, R349, R350, R351, R379: how the page service answers. Parts of it rest on choices and
readings of the model itself, no rules of the spec: log entries 17 and 31. -/
def Obligations.PageFaultsAreServed : Prop :=
  CopyOnWriteIsServed ∧ PartiesReplayOrHearTheFault ∧ AbsentPagesAreServed ∧ RequestsArePostedAndChecked

/-- R345, R379: the frame word of a frame: its state, and its place in the frame table of its tier, where the driver reads it. It is
written when the word changes and when the table gets its place; a word whose place must wait is written when it is there. -/
def Sys2Proof.Claims.FrameWordsAreReadable : Prop :=
  ∀ (s : State) (f : Nat) (x : Frame) (tier i : Nat) (at_ : Dword) (word : List Byte), frameTier f = (tier, i) →
    at_ = Tab.get 0 s.frameTab tier + BitVec.ofNat 64 (4 * i) →
    word = leBytes 4 ((if x.pin then 2 ^ 17 else 0) + (if x.table then 2 ^ 16 else 0) + x.refc % 2 ^ 16) →
    (s.putFrame f x).frame f = x ∧ (∀ g, g ≠ f → (s.putFrame f x).frame g = s.frame g) ∧
    (Tab.has s.frameTab tier = false → (s.putFrame f x).mem = s.mem) ∧
    (Tab.has s.frameTab tier = true →
      (∀ v, (s.setFrame f x).devWrite 0 0 at_ word = .ok v →
        (s.putFrame f x).mem = v.mem ∧ f ∉ (s.putFrame f x).lateFrames) ∧
      ((∀ v, (s.setFrame f x).devWrite 0 0 at_ word ≠ .ok v) →
        (s.putFrame f x).mem = s.mem ∧ f ∈ (s.putFrame f x).lateFrames) ∧
      (∀ v, s.frames = [(f, x)] → s.lateWrites = [] → s.lateFrames = [f] → s.devWrite 0 0 at_ word = .ok v →
        s.landLate.mem = v.mem ∧ s.landLate.lateFrames = [])) ∧
    (∀ (a : Dword) v, s.frames = [(f, x)] →
      State.devWrite { s with frameTab := Tab.put s.frameTab tier a } 0 0 (a + BitVec.ofNat 64 (4 * i)) word = .ok v →
      (s.setFrameTable tier a).mem = v.mem ∧ Tab.get 0 (s.setFrameTable tier a).frameTab tier = a)

/-- R347: SHARE maps a resident page a second time: both entries are read-only and shared, copy-on-write where the page was
writable, its run is taken apart, and the frame has one reference more; UNSHARE removes a mapping and its reference, and
reports the last; a mapping of the absent tier has no frame. While a change of the entry is in progress, or memory that the
change needs is not in service (R323, R379), they wait. -/
def Sys2Proof.Claims.SharesAddAndRemoveMappings : Prop :=
  ∀ (s : State) (d : Nat) (a : Dword) (l : List Dword) (n : Nat) (f : Leaf) (b : Nat), s.mem.wf = true →
    (InHand s d 1 a l n → s.leafOf (rqSasid l) (srcVa l n) = .leaf f →
      (s.entryBusy f = true → exec (.share d) s = .next s) ∧
      (s.entryBusy f = false → f.big = false → s.leafFrame f = some b →
        ∀ da, s.leafPlace (rqDasid l) ((dw l 2).toNat + 65536 * n) = .leaf da → entV da.ent = false →
          (s.frame (frameOf b)).refc < 65535 → s.tableFrame (srcVa l n).toNat b = false → (s.frame (frameOf b)).pin = false →
          (da.at_ + 8 ≤ f.at_ ∨ f.at_ + 8 ≤ da.at_) →
          s.runWait f = none → s.leafWait f = none → s.pageWait da.at_ 8 = none →
          ∃ u v w : State, exec (.share d) s = .next u ∧ PagesDone w u d a l (n + 1) ∧
            w = v.putFrame (frameOf b) { s.frame (frameOf b) with refc := (s.frame (frameOf b)).refc + 1 } ∧
            v.frames = s.frames ∧ SharedEntry f.ent (v.entryAt f.at_) ∧ v.entryAt da.at_ = v.entryAt f.at_ ∧
            (entRun f.ent = true → f.at_ % 8 = 0 → (∀ k, (s.core k).stores = []) → (∀ e, (s.die e).l2 = []) →
              ∀ i, i < 32 → (da.at_ + 8 ≤ f.at_ - f.at_ % 256 + 8 * i ∨ f.at_ - f.at_ % 256 + 8 * i + 8 ≤ da.at_) →
                entRun (v.entryAt (f.at_ - f.at_ % 256 + 8 * i)) = false))) ∧
    (InHand s d 2 a l n → s.leafOf (rqDasid l) (dstVa l n) = .leaf f →
      (s.entryBusy f = true → exec (.unshare d) s = .next s) ∧
      (∀ w, s.entryBusy f = false → f.big = false → s.leafWait f = some w →
        exec (.unshare d) s = .next (s.awaitDomain d (some w))) ∧
      (s.entryBusy f = false → f.big = false → s.leafWait f = none →
        ∃ u v w : State, exec (.unshare d) s = .next u ∧ PagesDone w u d a l (n + 1) ∧ v.entryAt f.at_ = 0 ∧ v.frames = s.frames ∧
          (s.leafFrame f = none → w = v) ∧
          (s.leafFrame f = some b →
            w = (if (s.frame (frameOf b)).refc ≤ 1 then
                (v.putFrame (frameOf b) { s.frame (frameOf b) with refc := (s.frame (frameOf b)).refc - 1 }).event d 1 none
                  (some (BitVec.ofNat 64 (entFrame f.ent))) none
              else v.putFrame (frameOf b) { s.frame (frameOf b) with refc := (s.frame (frameOf b)).refc - 1 }))))

/-- R347: where a page of a request cannot be done, the request ends with the code of the first rule that it breaks: 2 for a
source that is no small resident leaf, 3 for a destination without a place or taken, 4 for a frame at its last reference, 5 for
a table or pinned frame, 6 for a shared one, 7 for a full tier. -/
def Sys2Proof.Claims.PagesAreRefused : Prop :=
  ∀ (s : State) (d : Nat) (a : Dword) (l : List Dword) (n : Nat) (f : Leaf) (b : Nat) (pick : Option (BitVec 36)),
    (InHand s d 1 a l n →
      (s.leafOf (rqSasid l) (srcVa l n) = .bad → RequestRefused s (.share d) d a n 2) ∧
      (s.leafOf (rqSasid l) (srcVa l n) = .leaf f → s.entryBusy f = false →
        (f.big = true ∨ s.leafFrame f = none → RequestRefused s (.share d) d a n 2) ∧
        (f.big = false → s.leafFrame f = some b →
          (s.leafPlace (rqDasid l) ((dw l 2).toNat + 65536 * n) = .bad → RequestRefused s (.share d) d a n 3) ∧
          ∀ da, s.leafPlace (rqDasid l) ((dw l 2).toNat + 65536 * n) = .leaf da →
            (entV da.ent = true → RequestRefused s (.share d) d a n 3) ∧
            (entV da.ent = false →
              (65535 ≤ (s.frame (frameOf b)).refc → RequestRefused s (.share d) d a n 4) ∧
              ((s.frame (frameOf b)).refc < 65535 → s.tableFrame (srcVa l n).toNat b = true ∨ (s.frame (frameOf b)).pin = true →
                RequestRefused s (.share d) d a n 5))))) ∧
    (InHand s d 2 a l n →
      (s.leafOf (rqDasid l) (dstVa l n) = .bad → RequestRefused s (.unshare d) d a n 2) ∧
      (s.leafOf (rqDasid l) (dstVa l n) = .leaf f → s.entryBusy f = false → f.big = true →
        RequestRefused s (.unshare d) d a n 2)) ∧
    (InHand s d 3 a l n → (∀ m ∈ s.moves, m.req ≠ some d) →
      (s.leafOf (rqSasid l) (srcVa l n) = .bad → RequestRefused s (.migrate d pick) d a n 2) ∧
      (s.leafOf (rqSasid l) (srcVa l n) = .leaf f → s.entryBusy f = false →
        (s.leafFrame f = none → entTier f.ent ≠ 3 → RequestRefused s (.migrate d pick) d a n 2) ∧
        (s.leafFrame f = some b → f.big = false →
          (s.tableFrame (srcVa l n).toNat b = true ∨ (s.frame (frameOf b)).pin = true →
            RequestRefused s (.migrate d pick) d a n 5) ∧
          (s.tableFrame (srcVa l n).toNat b = false → (s.frame (frameOf b)).pin = false →
            ((s.frame (frameOf b)).refc ≠ 1 → RequestRefused s (.migrate d pick) d a n 6) ∧
            ((s.frame (frameOf b)).refc = 1 → rqDtier l < 3 → s.tierFull (rqDtier l) 1 = true →
              s.pageWait f.at_ 8 = none → RequestRefused s (.migrate d none) d a n 7)))))

/-- R347, R349, R351: MIGRATE begins the move of a page with one reference to the frame that the service allocates. A short
move only blocks new accesses; at its shootdown point, once the old mapping's stores have performed, the page is copied and
the entry names its new place, its other bits as they stand; no transfer goes on by the old translation (R344); at the next one
the old frame is free and the request goes on. -/
def Sys2Proof.Claims.PagesMigrate : Prop :=
  ∀ (s : State) (d : Nat) (a : Dword) (l : List Dword) (n : Nat) (f : Leaf) (b nb : Nat) (p : BitVec 36), s.mem.wf = true →
    (InHand s d 3 a l n → (∀ m ∈ s.moves, m.req ≠ some d) →
      s.leafOf (rqSasid l) (srcVa l n) = .leaf f → s.entryBusy f = false → f.big = false → s.leafFrame f = some b →
      s.tableFrame (srcVa l n).toNat b = false → (s.frame (frameOf b)).pin = false → (s.frame (frameOf b)).refc = 1 →
      (∀ w pick, s.pageWait f.at_ 8 = some w → exec (.migrate d pick) s = .next (s.awaitDomain d (some w))) ∧
      (s.pageWait f.at_ 8 = none → rqDtier l < 3 → s.freeFrame (rqDtier l) p 1 = some nb →
        ∃ u m, exec (.migrate d (some p)) s = .next u ∧ u.moves = s.moves ++ [m] ∧ m.step = 0 ∧ m.long = false ∧
          m.req = some d ∧ m.at_ = f.at_ ∧ m.dstFrame = p ∧ m.big = false ∧ m.srcTier.toNat = entTier f.ent ∧
          m.srcFrame.toNat = entFrame f.ent ∧
          m.dstTier.toNat = rqDtier l ∧ entMov (u.entryAt f.at_) = 1 ∧ u.pageReqs = s.pageReqs ∧
          ∀ x, x < f.at_ ∨ f.at_ + 8 ≤ x → u.mem.read x = s.mem.read x) ∧
      (s.pageWait f.at_ 8 = none → rqDtier l = 3 → ∀ pick,
        ∃ u m, exec (.migrate d pick) s = .next u ∧ u.moves = s.moves ++ [m] ∧ m.step = 0 ∧ m.long = true ∧
          m.req = some d ∧ m.at_ = f.at_ ∧ m.dstTier = 3 ∧ entMov (u.entryAt f.at_) = 2)) ∧
    (∀ (before after : List PageMove) (m : PageMove) (w : State), s.moves = before ++ m :: after → m.big = false →
      m.long = false → s.frameBase m.srcTier.toNat m.srcFrame.toNat 1 = some b →
      s.frameBase m.dstTier.toNat m.dstFrame.toNat 1 = some nb → b % 65536 = 0 → nb % 65536 = 0 → b ≠ nb →
        (m.step = 0 → (m.at_ + 8 ≤ nb ∨ nb + 65536 ≤ m.at_) → s.leafWait ⟨s.entryAt m.at_, m.at_, false⟩ = none →
          s.pageWait b 65536 = none → s.pageWait nb 65536 = none → w = s.drainLeaf ⟨s.entryAt m.at_, m.at_, false⟩ →
          ∃ u, exec (.shootdownPoint before.length) s = .next u ∧ u.moves = before ++ { m with step := 2 } :: after ∧
            u.entryAt m.at_ = m.newEntry (w.entryAt m.at_) ∧
            (s.leafFrame ⟨s.entryAt m.at_, m.at_, false⟩ = some b →
              ∀ k, ∀ t ∈ (u.core k).transfers, ∀ x ∈ t.pending, ∀ pa, x.pa = some pa → pa < b ∨ b + 65536 ≤ pa) ∧
            ∀ i, i < 65536 → (b + i < m.at_ ∨ m.at_ + 8 ≤ b + i) → u.mem.read (nb + i) = w.mem.read (b + i)) ∧
        (m.step = 2 → m.req = some d → (s.die d).pq.cur = some (a, l, n) → n + 1 < rqPages l →
          (∀ r ∈ s.pageReqs, r.asid ≠ m.asid) →
          ∃ u, exec (.shootdownPoint before.length) s = .next u ∧ u.moves = before ++ after ∧
            (u.die d).pq.cur = some (a, l, n + 1) ∧ (u.frame (frameOf b)).refc = 0 ∧ (u.frame (frameOf nb)).refc = 1 ∧
            (s.frameTab = [] → u.mem = s.mem)))

/-- R351: the entry that a move leaves: the new tier and frame, MOV 0, and every other bit as it stood. -/
def Sys2Proof.Claims.MovesKeepTheOtherBits : Prop :=
  ∀ (m : PageMove) (e : Dword), entTier (m.newEntry e) = m.dstTier.toNat ∧ entFrame (m.newEntry e) = m.dstFrame.toNat ∧
    entMov (m.newEntry e) = 0 ∧
    ∀ i, i ≠ 2 → i ≠ 3 → i ≠ 9 → i ≠ 10 → i < 16 ∨ 52 ≤ i → (m.newEntry e).getLsbD i = e.getLsbD i

/-- R350, R351: at the first shootdown point of a long move the host may copy; when it is done with an absent page, the page
holds the host's bytes, zero where the host lists none, and the entry names its frame; the entry of a page that is absent from
now on names the host's handle (R340); where it declines, the entry only leaves the move, which is over. -/
def Sys2Proof.Claims.LongMovesAwaitTheHost : Prop :=
  ∀ (s : State) (before after : List PageMove) (m : PageMove) (nb : Nat) (data : HostPage),
    s.moves = before ++ m :: after → m.long = true → m.big = false → s.mem.wf = true →
      (∀ w, m.step = 0 → s.leafWait ⟨s.entryAt m.at_, m.at_, false⟩ = some w →
        exec (.shootdownPoint before.length) s = .next (s.awaitDomain 0 (some w))) ∧
      (m.step = 0 → s.leafWait ⟨s.entryAt m.at_, m.at_, false⟩ = none →
        exec (.shootdownPoint before.length) s =
          .next { (s.drainLeaf ⟨s.entryAt m.at_, m.at_, false⟩).dropEntry m.at_ with
            moves := before ++ { m with step := 1 } :: after }) ∧
      (m.step ≠ 1 → ∀ ok, exec (.longMoveHostDone before.length ok data) s = .next s) ∧
      (m.step = 1 → m.srcTier = 3 → s.frameBase m.dstTier.toNat m.dstFrame.toNat 1 = some nb → nb % 65536 = 0 →
        (m.at_ + 8 ≤ nb ∨ nb + 65536 ≤ m.at_) → s.pageWait m.at_ 8 = none → s.pageWait nb 65536 = none → (data.bytes.map Prod.fst).Nodup →
        ∃ u, exec (.longMoveHostDone before.length true data) s = .next u ∧ u.entryAt m.at_ = m.newEntry (s.entryAt m.at_) ∧
          u.moves = before ++ { m with step := 2 } :: after ∧
          ∀ i, i < 65536 → u.mem.read (nb + i) = (data.bytes.lookup i).getD 0) ∧
      (m.step = 1 → m.dstTier = 3 → s.pageWait m.at_ 8 = none →
        (∀ b, s.frameBase m.srcTier.toNat m.srcFrame.toNat 1 = some b → s.pageWait b 65536 = none) →
        ∃ u, exec (.longMoveHostDone before.length true data) s = .next u ∧
          u.entryAt m.at_ = PageMove.newEntry { m with dstFrame := data.handle } (s.entryAt m.at_) ∧
          u.moves = before ++ { m with dstFrame := data.handle, step := 2 } :: after ∧
          ∀ x, x < m.at_ ∨ m.at_ + 8 ≤ x → u.mem.read x = s.mem.read x) ∧
      (m.step = 1 → m.req = none → (∀ r ∈ s.pageReqs, r.asid ≠ m.asid) → s.pageWait m.at_ 8 = none →
        ∃ u, exec (.longMoveHostDone before.length false data) s = .next u ∧ u.moves = before ++ after ∧
          u.entryAt m.at_ = s.entryAt m.at_ &&& ~~~0x600 ∧
          ∀ x, x < m.at_ ∨ m.at_ + 8 ≤ x → u.mem.read x = s.mem.read x)

/-- R344, R347, R357: INVAL: the stores that the space's pages took in the range have performed, no translation cache holds a
copy of one of them, no transfer goes on by an old translation of one, the cached kernel outcomes of the range are gone on both
dies, and the request ends with its page count. While one of the stores must wait (R323, R379), so does the request. -/
def Sys2Proof.Claims.InvalDropsCachedKernels : Prop :=
  ∀ (s : State) (d : Nat) (a : Dword) (l : List Dword) (n lo hi : Nat), InHand s d 4 a l n →
    lo = (dw l 1).toNat → hi = lo + 65536 * rqPages l →
    (∀ k w, s.cores.map Prod.fst = [k] → s.storesWait k true (fun p => decide ((s.card p.card).asid = rqSasid l) && decide (p.va.toNat < hi) &&
        decide (lo < p.va.toNat + p.bytes.length)) = some w →
      exec (.inval d) s = .next (s.awaitDomain d (some w))) ∧
    ((∀ k, s.storesWait k true (fun p => decide ((s.card p.card).asid = rqSasid l) && decide (p.va.toNat < hi) &&
        decide (lo < p.va.toNat + p.bytes.length)) = none) →
      ∃ v u : State, exec (.inval d) s = .next u ∧ RequestEnds v u d a 0 (rqPages l) ∧
        (v.die d).pq = (s.die d).pq ∧ ((∀ k, (s.core k).stores = []) → v.mem = s.mem) ∧
        (∀ k, ∀ p ∈ (u.core k).stores, (s.card p.card).asid = rqSasid l →
          hi ≤ p.va.toNat ∨ p.va.toNat + p.bytes.length ≤ lo) ∧
        (∀ k, ∀ t ∈ (u.core k).transfers, (s.card t.card).asid = rqSasid l → ∀ x ∈ t.pending, lo ≤ x.va → x.va < hi →
          x.pa = none) ∧
        (∀ e, e < 2 → ∀ y ∈ (u.die e).tlb, y.within (rqSasid l) lo hi = false) ∧
        (∀ y, ∀ x ∈ Tab.get [] u.yardTlb y, x.within (rqSasid l) lo hi = false) ∧
        ∀ e, e < 2 → ∀ y, y ∈ (u.die e).disp.kcache ↔
          y ∈ (s.die e).disp.kcache ∧ ¬ (y.1 = rqSasid l ∧ lo ≤ y.2.1.toNat ∧ y.2.1.toNat < hi))

/-- R323, R340, R344, R345, R347, R349, R350, R351, R357, R379: shares, migrations, long moves and invalidations. Parts of
it rest on choices and readings of the model itself, no rules of the spec: log entry 31. -/
def Obligations.MappingsChange : Prop :=
  SharesAddAndRemoveMappings ∧ PagesAreRefused ∧ FrameWordsAreReadable ∧ PagesMigrate ∧ MovesKeepTheOtherBits ∧ LongMovesAwaitTheHost ∧ InvalDropsCachedKernels

/-! ### The Dispatchers -/

/-- R371, R384: a doorbell of a module that is READY writes the stream's SPI, unless its queue would overflow, which only
raises an event; or its CCI. Before READY it has no effect. -/
def Sys2Proof.Claims.DoorbellsMoveTheIndices : Prop :=
  ∀ (s : State) (d : Nat) (n : BitVec 6) (v : Word),
    (s.siltin ≠ .ready → exec (.doorbellSpi d n v) s = .next s ∧ exec (.doorbellCci d n v) s = .next s) ∧
    (s.siltin = .ready →
      ((v - (s.stream d n.toNat).sci).toNat ≤ 2 ^ (s.stream d n.toNat).sqlog.toNat →
        exec (.doorbellSpi d n v) s = .next (s.setStream d n.toNat { s.stream d n.toNat with spi := v })) ∧
      (2 ^ (s.stream d n.toNat).sqlog.toNat < (v - (s.stream d n.toNat).sci).toNat →
        ∃ u, exec (.doorbellSpi d n v) s = .next u ∧ u.stream d n.toNat = s.stream d n.toNat ∧ u.mem = s.mem) ∧
      exec (.doorbellCci d n v) s = .next (s.setStream d n.toNat { s.stream d n.toNat with cci := v }))

/-- R353, R354, R357, R359: a Dispatcher accepts the next card of the first stream in turn that may: the card takes the next
sequence number and keeps its ranges, and SCI advances. One that a check rejects keeps its STATUS; another has an edge from
every card in flight that it must follow. With no stream that may, nothing happens. -/
def Sys2Proof.Claims.CardsAreAccepted : Prop :=
  ∀ (s : State) (d n st : Nat) (b : List Byte) (l : List (Nat × Nat)) (h : BitVec 512) (x : Card),
    s.siltin = .ready → (s.die d).disp.lastStream < 64 →
      ((∀ m, m < 64 → s.mayAccept d m = false) → exec (.cardAccept d) s = .next s) ∧
      (n < 64 → s.mayAccept d n = true → (∀ m, m < 64 → s.mayAccept d m = true → streamTurn s d n ≤ streamTurn s d m) →
        s.devRead d 0 ((s.stream d n).sqbase +
          BitVec.ofNat 64 (128 * ((s.stream d n).sci.toNat % 2 ^ (s.stream d n).sqlog.toNat))) 128 = .ok b →
        x = { die := d, stream := n, dw := bytesDwords b } → s.checkCard x = .ok (st, l, h) →
          ∃ u, exec (.cardAccept d) s = .next u ∧ u.seqCtr = s.seqCtr + 1 ∧ (u.die d).disp.lastStream = n ∧
            (u.stream d n).sci = (s.stream d n).sci + 1 ∧ u.mem = s.mem ∧
            (u.card s.seqCtr.toNat).dw = bytesDwords b ∧ (u.card s.seqCtr.toNat).die = d ∧ (u.card s.seqCtr.toNat).stream = n ∧
            (u.card s.seqCtr.toNat).st = .waiting ∧ (u.card s.seqCtr.toNat).status = st ∧
            ((u.card s.seqCtr.toNat).rejected = true ↔ st ≠ 0) ∧ (u.card s.seqCtr.toNat).hdr = h ∧
            (u.card s.seqCtr.toNat).reads = l.take x.nread ∧ (u.card s.seqCtr.toNat).writes = l.drop x.nread ∧
            (st = 0 → (∀ a ∈ l, 0 < a.2) → (∀ z ∈ s.cards, ∀ a ∈ z.2.reads ++ z.2.writes, 0 < a.2) → ∀ p, p ∈ (u.card s.seqCtr.toNat).edges ↔
              ∃ y, (p, y) ∈ s.cards ∧ y.st ≠ .done ∧ y.cleaned = false ∧ y.rejected = false ∧ MustPrecede y (u.card s.seqCtr.toNat)) ∧
            (st ≠ 0 → (u.card s.seqCtr.toNat).edges = []) ∧ ∀ m, m ≠ s.seqCtr.toNat → u.card m = s.card m)

/-- R357: the order of the first checks of a card: a broken field gives STATUS 8, then a space that is not valid 7, then, with
no range lists, a yard or core mask that names nothing 5. -/
def Sys2Proof.Claims.CardChecksInOrder : Prop :=
  ∀ (s : State) (x : Card),
    (x.fieldsOk = false → ∃ l h, s.checkCard x = .ok (8, l, h)) ∧
    (x.fieldsOk = true → (s.space x.die x.asid).getLsbD 0 = false → ∃ l h, s.checkCard x = .ok (7, l, h)) ∧
    (x.fieldsOk = true → (s.space x.die x.asid).getLsbD 0 = true → x.nread + x.nwrite = 0 → (11 < x.yard ∨ x.cmask = 0) →
      ∃ l h, s.checkCard x = .ok (5, l, h))

/-- R360, R361: ageing: an admissible card has aged one level for every DAGE cycles since its edges were satisfied; another
has not, and no other card changes. -/
def Sys2Proof.Claims.AdmissibleCardsAge : Prop :=
  ∀ (s : State) (n : Nat),
    ((s.admissible n = false → exec (.priorityAgeing n) s = .next s) ∧
      (s.admissible n = true →
        exec (.priorityAgeing n) s = .next (s.setCard n { s.card n with
          boost := (s.timebase.toNat - ((s.card n).edges.map fun p => (s.card p).doneAt).foldl max (s.card n).admAt) /
            (s.die (s.card n).die).disp.dage })) ∧
      (s.admissible n = true ↔ ((s.card n).st = .waiting ∨ (s.card n).st = .evicted) ∧ (s.card n).rejected = false ∧
        (s.card n).cleaned = false ∧ ∀ p ∈ (s.card n).edges, (s.card p).cleaned = true))

/-- R361: the card that a yard launches next: launchable, and of the launchable ones urgent before others, the urgent by
descending PRIO and then sequence number, the others by descending effective priority and then the streams' turn. -/
def Sys2Proof.Claims.TheChoiceOfACard : Prop :=
  ∀ (s : State) (d y n : Nat), (∀ z ∈ s.cards, z.1 < 2 ^ 64) → (s.cards.map Prod.fst).Nodup → s.chosen d y = some n →
    Tab.get 63 (s.die d).disp.yardStream y < 64 →
    (s.launchable n = true ∧ (s.card n).die = d ∧ (s.card n).yard = y) ∧
      ∀ m z, (m, z) ∈ s.cards → z.die = d → z.yard = y → s.launchable m = true → m ≠ n →
        (z.urgent = true → (s.card n).urgent = true ∧
          (z.prio < (s.card n).prio ∨ z.prio = (s.card n).prio ∧ n < m)) ∧
        (z.urgent = false → (s.card n).urgent = true ∨ z.effective < (s.card n).effective ∨
          (z.effective = (s.card n).effective ∧
            (((s.card n).stream + 63 - Tab.get 63 (s.die d).disp.yardStream y) % 64 <
                (z.stream + 63 - Tab.get 63 (s.die d).disp.yardStream y) % 64 ∨
              (((s.card n).stream + 63 - Tab.get 63 (s.die d).disp.yardStream y) % 64 =
                (z.stream + 63 - Tab.get 63 (s.die d).disp.yardStream y) % 64 ∧ n < m))))

/-- R18, R226, R361, R362: the launch of a card: every placed context is READY at the kernel's first bundle, the flags of the
kernel's mask are zero on its cores and the others as they were, its hands run from their images, the card is RUNNING, and the
yard's turn passes its stream. With no card to choose only the ages move; while an urgent card's victims are still there, the
kernel's image cannot be read, or a line that the card's edges have cleaned waits for its place (R323, R379), nothing launches
and the turn stays. That the contexts of an evicted card stay HALTED until all of them are restored is the model's choice (log
entry 36). -/
def Sys2Proof.Claims.LaunchStartsEveryContext : Prop :=
  ∀ (s a : State) (d y n : Nat) (x : Card) (vcw : List (BitVec 256)) (imgs : List (List Byte × List Byte)), s.siltin = .ready →
    a = agedAll s →
    (a.chosen d y = none → exec (.cardLaunch d y) s = .next a) ∧
    (a.chosen d y = some n → x = a.card n →
      (x.urgent = true → (x.coresOf.all (a.victimsDone n)) = false → exec (.cardLaunch d y) s = .next a) ∧
      ((x.urgent = true → (x.coresOf.all (a.victimsDone n)) = true) → x.st = .waiting →
        (∀ i, a.launchRead x = .wait i → exec (.cardLaunch d y) s = .next (a.awaitDomain d i)) ∧
        ((∀ r, a.launchRead x ≠ .ok r) → (∀ i, a.launchRead x ≠ .wait i) → exec (.cardLaunch d y) s = .next a) ∧
        (∀ w, a.launchRead x = .ok (vcw, imgs) → a.refreshWait x = some w →
          exec (.cardLaunch d y) s = .next (a.awaitDomain d (some w))) ∧
        (a.launchRead x = .ok (vcw, imgs) → a.refreshWait x = none →
          ∃ u, exec (.cardLaunch d y) s = .next u ∧ (u.card n).st = .running ∧
            (u.card n).launchAt = some s.timebase.toNat ∧ (u.card n).runSince = s.timebase.toNat ∧
            Tab.get 63 (u.die d).disp.yardStream y = x.stream ∧
            (∀ z ∈ x.placed, Launched x n s.timebase.toNat (u.ctx z.1 z.2) ∧
              ∀ i, 0 < i.toNat → i.toNat < vcw.length → (u.ctx z.1 z.2).vcwEntry i = vcw.getD i.toNat 0) ∧
            (∀ k ∈ x.coresOf,
              (∀ f : BitVec 5, (u.core k).flag f = if x.hdr.getLsbD (256 + f.toNat) then 0 else (s.core k).flag f) ∧
              (∀ r, (if r = Role.load then x.lhand = true else x.shand = true) →
                (u.hand k r).running = true ∧ (u.hand k r).pc = 0 ∧ (u.hand k r).card = some n ∧
                  (u.hand k r).isz = (imgs.getD (if r = Role.load then 0 else 1) ([], [])).1.length)))) ∧
      ((x.urgent = true → (x.coresOf.all (a.victimsDone n)) = true) → x.st = .evicted →
        ∃ u, exec (.cardLaunch d y) s = .next u ∧ (u.card n).st = .running ∧ (u.card n).runSince = s.timebase.toNat ∧
          (u.card n).launchAt = x.launchAt ∧ (u.card n).saved = [] ∧ Tab.get 63 (u.die d).disp.yardStream y = x.stream ∧
          ∀ z ∈ x.saved, (u.ctx z.1 z.2).card = some n ∧ (u.ctx z.1 z.2).st = .halted ∧ (u.ctx z.1 z.2).restoring = true))

/-- R18, R226, R323, R353, R354, R357, R359, R360, R361, R362, R371, R379, R384: from the doorbell to the launch of a
card. Parts of it rest on choices and readings of the model itself, no rules of the spec: log entries 7, 33 and 36. -/
def Obligations.CardsAreTakenAndLaunched : Prop :=
  DoorbellsMoveTheIndices ∧ CardsAreAccepted ∧ CardChecksInOrder ∧ AdmissibleCardsAge ∧ TheChoiceOfACard ∧ LaunchStartsEveryContext

/-- R364: an urgent card that can launch has the cards of lower PRIO and class halt or evict that run on its cores halted:
the running context is asked, those READY or WAITING halt at once; one that cannot, for contexts of cards that may be
evicted, has these asked to leave. A card that is not urgent pre-empts nothing. -/
def Sys2Proof.Claims.UrgentCardsPreempt : Prop :=
  ∀ (s : State) (n k m : Nat),
    ((s.card n).urgent = false ∨ s.admissible n = false → exec (.urgentPreempt n) s = .next s) ∧
    ((s.card n).urgent = true → s.launchable n = true → (s.card n).coresOf = [k] → s.victims n k = [m] →
      ∃ u, exec (.urgentPreempt n) s = .next u ∧ u.mem = s.mem ∧
        ∀ c, c ∈ bitsOf (s.card m).ctxmask 8 → s.holdsCtx m k c = true →
          ((s.ctx k c).st = .running ∨ (s.ctx k c).st = .trapped →
            (u.ctx k c).haltReq = true ∧ (u.ctx k c).st = (s.ctx k c).st) ∧
          ((s.ctx k c).st = .ready ∨ (s.ctx k c).st = .waiting → (u.ctx k c).st = .halted)) ∧
    ((s.card n).urgent = true → s.admissible n = true → s.skipped n = false → s.launchable n = false → s.mayEvict (s.card n) = true →
      ∀ z ∈ s.blockers (s.card n), (s.ctx z.1 z.2).card = some m → s.holdsCtx m z.1 z.2 = true →
        z ∈ (s.card m).placed → (s.ctx z.1 z.2).evicted = false → (s.ctx z.1 z.2).restoring = false →
          ∃ u, exec (.urgentPreempt n) s = .next u ∧ (u.ctx z.1 z.2).evictReq = true ∧ u.mem = s.mem)

/-- R289: cleaning a range: no byte of a line of one of its pages stays dirty in the die's L2, and memory holds what was
there. -/
def Sys2Proof.Claims.RangesAreCleaned : Prop :=
  ∀ (s : State) (d : Nat) (asid : BitVec 16) (r : Nat × Nat) (p : Nat × Nat) (a : Nat), d < 2 → s.mem.wf = true →
    0 < r.2 → p ∈ s.rangePieces d asid r → p.1 / 64 ≤ a / 64 → a / 64 ≤ (p.1 + p.2 - 1) / 64 →
      ((s.cleanRange d asid r).die d).dirty a = none ∧
      (∀ b, (a, b) ∈ (s.die d).l2 → (∀ b', (a, b') ∈ (s.die d).l2 → b' = b) → (s.cleanRange d asid r).mem.read a = some b) ∧
      ((∀ b, (a, b) ∉ (s.die d).l2) → (s.cleanRange d asid r).mem.read a = s.mem.read a)

/-- R360, R365: a card that has ended, was rejected, or is skipped completes: first its ranges are cleaned and its counter is
added to, then its report area is written, then its completion record; another in flight is left alone. A step that must wait
(R379) leaves the later ones to a later attempt. -/
def Sys2Proof.Claims.CardsComplete : Prop :=
  ∀ (s : State) (n : Nat), Tab.has s.cards n = true → (s.card n).st ≠ .done →
    ((s.card n).rejected = true → (s.card n).cleaned = false → PlainEnd (s.card n) →
      ∃ u, exec (.cardComplete n) s = .next u ∧ CardEnds (Counted s n) u n false) ∧
    ((s.card n).rejected = false → (s.card n).cleaned = false → (s.admissible n = false ∨ s.skipped n = false) →
      s.finished n = true → PlainEnd (s.card n) → s.cleanWait n = none →
      ∃ u, exec (.cardComplete n) s = .next u ∧ CardEnds (Counted s n) u n false) ∧
    ((s.card n).rejected = false → s.admissible n = true → s.skipped n = true → PlainEnd (s.card n) →
      ∃ u, exec (.cardComplete n) s = .next u ∧ CardEnds (Counted (s.setCard n { s.card n with status := 11 }) n) u n false) ∧
    ((s.card n).rejected = false → (s.card n).cleaned = false → (s.admissible n = false ∨ s.skipped n = false) →
      s.finished n = false → exec (.cardComplete n) s = .next s) ∧
    ((s.card n).cleaned = true →
      ((s.card n).dword 6 = 0 → ∃ u, exec (.cardComplete n) s = .next u ∧ CardEnds s u n false) ∧
      (∀ v, (s.card n).dword 6 ≠ 0 →
        (s.writeReport (s.card n).die (s.card n).asid (reportPieces s n) = .done v →
          ∃ u, exec (.cardComplete n) s = .next u ∧ CardEnds v u n false) ∧
        (s.writeReport (s.card n).die (s.card n).asid (reportPieces s n) = .bad v →
          ∃ u, exec (.cardComplete n) s = .next u ∧ CardEnds v u n true) ∧
        (∀ i, s.writeReport (s.card n).die (s.card n).asid (reportPieces s n) = .wait v i →
          exec (.cardComplete n) s = .next (v.awaitDomain (s.card n).die i)))) ∧
    ((s.card n).rejected = false → (s.card n).cleaned = false → (s.admissible n = false ∨ s.skipped n = false) →
      s.finished n = true → (s.card n).status ≠ 11 →
      (∀ r i, r ∈ (s.card n).writes → (∀ x ∈ (s.card n).writes, x ≠ r → s.rangeWait (s.card n).die (s.card n).asid x = none) →
        s.rangeWait (s.card n).die (s.card n).asid r = some i →
        exec (.cardComplete n) s = .next (s.awaitDomain (s.card n).die i)) ∧
      (∀ w, (∀ r ∈ (s.card n).writes, s.rangeWait (s.card n).die (s.card n).asid r = none) → s.cleanWait n = some w →
        exec (.cardComplete n) s = .next (s.awaitDomain (s.card n).die (some w))) ∧
      ((∀ r ∈ (s.card n).writes, s.rangeWait (s.card n).die (s.card n).asid r = none) → s.cleanWait n = none → (s.card n).camt = 0 →
        (s.card n).dword 6 = 0 → (∀ k, (s.core k).stores = []) →
        ∃ u, exec (.cardComplete n) s = .next u ∧ CardEnds (Counted ((s.card n).writes.foldl
          (fun v r => v.cleanRange (s.card n).die (s.card n).asid r) s) n) u n false)) ∧
    ((s.card n).rejected = true → (s.card n).cleaned = false → (s.card n).writes = [] → (s.card n).dword 6 = 0 →
      (∀ k, (s.core k).stores = []) → (s.card n).camt ≠ 0 →
        ∃ u, exec (.cardComplete n) s = .next u ∧ CardEnds (Counted
          (s.counterAdd (s.card n).die (s.card n).cctr ((s.card n).camt.setWidth 32)) n) u n false ∧
          Tab.get 0 (u.die (s.card n).die).counters (s.card n).cctr =
            added (Tab.get 0 (s.die (s.card n).die).counters (s.card n).cctr) ((s.card n).camt.setWidth 32))

/-- R366: the completion record: sequence number, times, user word with die and stream, and the status dword, whose PHASE is
the inverse of the bit of the index above the queue's size. -/
def Sys2Proof.Claims.TheCompletionRecord : Prop :=
  ∀ (s : State) (n : Nat) (j : Word) (x : Card), x = s.card n → n < 2 ^ 64 → x.status < 256 → x.stream < 64 → x.die < 2 →
    (s.completion n j false).length = 8 ∧ ((s.completion n j false).getD 0 0).toNat = n ∧
    (s.completion n j false).getD 5 0 = s.timebase ∧
    (∀ t, x.launchAt = some t → t < 2 ^ 64 → ((s.completion n j false).getD 4 0).toNat = t) ∧
    (x.launchAt = none → (s.completion n j false).getD 4 0 = 0) ∧
    ((s.completion n j false).getD 6 0).extractLsb' 32 32 = (x.dword 7).extractLsb' 32 32 ∧
    (((s.completion n j false).getD 6 0).extractLsb' 0 6).toNat = x.stream ∧
    ((s.completion n j false).getD 6 0).getLsbD 6 = decide (x.die = 1) ∧
    ((s.completion n j false).getD 7 0).getLsbD 63 = !j.getLsbD (s.stream x.die x.stream).cqlog.toNat ∧
    (x.status = 0 → ((s.completion n j false).getD 7 0).extractLsb' 40 16 = 0 ∧
      (s.completion n j false).getD 1 0 = 0 ∧ (s.completion n j false).getD 2 0 = 0)

/-- R365: a running card whose WDRUN has passed, in units of 2^20 cycles, fails with STATUS 10; within it, or without one, it
runs on. -/
def Sys2Proof.Claims.RunningTooLongFails : Prop :=
  ∀ (s : State) (n : Nat), (s.card n).st = .running → (s.card n).status = 0 → s.failStatus n = 0 →
    (((s.card n).dword 5).extractLsb' 0 32 = 0 → exec (.wdrunExpiry n) s = .next s) ∧
    ((s.card n).ranFor + (s.timebase.toNat - (s.card n).runSince) ≤ (((s.card n).dword 5).extractLsb' 0 32).toNat * 1048576 →
      exec (.wdrunExpiry n) s = .next s) ∧
    (((s.card n).dword 5).extractLsb' 0 32 ≠ 0 →
      (((s.card n).dword 5).extractLsb' 0 32).toNat * 1048576 < (s.card n).ranFor + (s.timebase.toNat - (s.card n).runSince) →
        exec (.wdrunExpiry n) s = .next (s.setCard n { s.card n with status := 10 }))

/-- R289, R360, R364, R365, R366, R379: urgent cards, completion, and the run limit. Parts of it rest on choices and
readings of the model itself, no rules of the spec: log entries 34 and 36. -/
def Obligations.CardsEnd : Prop :=
  UrgentCardsPreempt ∧ RangesAreCleaned ∧ CardsComplete ∧ TheCompletionRecord ∧ RunningTooLongFails

/-! ### Links, reset, power, temperature, wear, the host's writes -/

/-- R334, R368, R374: a replayed flit changes nothing; a failed link raises event 11 and ends what the packets that it held belong
to: a transfer with one record, memory unchanged where its sides lie apart and nothing is left to write; a global access with
Memory-Error; a store, which is reported with its card; a work entry, which fails; a message, which is gone; a Vault's command,
which leaves its Vault; a line of an L2, which is gone; the card that a Dispatcher reads, which is rejected; a card's report,
whose record says so; a context's save, which fails. -/
def Sys2Proof.Claims.LinksReplayAndFail : Prop :=
  ∀ (s : State) (link : Nat),
    exec (.flitReplay link) s = .next s ∧
    (∃ u, exec (.linkReplayFailure link []) s = .next u ∧ EventRaised s u 0 11) ∧
    (∀ (k c : Nat) (ch : BitVec 4) (id : Dword) (memErr : Bool) (before : List Transfer) (t : Transfer) (after : List Transfer),
      InFlight s k before t after → t.ch = ch.toNat → t.id = id → t.by_ = .ctx k c →
      (∀ v, ∀ x ∈ s.vaults, x.1 = v → ∀ y ∈ x.2.cmds, y.src ≠ .transfer k ch.toNat id) →
      (∀ y ∈ (s.die (dieOf k)).stages, y.k = k → y.ch = ch.toNat → y.id = id → y.by_.ctx? = none) →
        ∃ u pay, exec (.linkReplayFailure link [.transfer k ch id memErr]) s = .next u ∧
          (u.core k).transfers = (before ++ after).map (begunAgain t) ∧ (memErr = false → pay = []) ∧
          u.recQueue = s.recQueue ++ [(t.card, k, c, errorRecord t (if memErr then .memoryError else .remoteError) pay)] ∧
          (u.core k).flags = (s.core k).flags ∧ (t.mayOverlap k = false → t.pending = [] → u.mem = s.mem)) ∧
    (∀ (k c : Nat), s.issuer k = some c → (s.core k).hold = some .global →
      ∃ u tval, exec (.linkReplayFailure link [.access k]) s = .next u ∧
        ∃ v, EventRaised s v 0 11 ∧ u = (({ v with freeCtr := v.freeCtr + 1 }.modCore k fun q => { q with hold := none }).raise k c
          (Trap.atIssue .memoryError tval (s.ctx k c).pc 0))) ∧
    (∀ (k : Nat) (before : List PStore) (p : PStore) (after : List PStore), (s.core k).stores = before ++ p :: after →
      (∀ x ∈ before ++ after, x.ord ≠ p.ord) → Tab.has s.cards p.card = true →
      ∃ u, exec (.linkReplayFailure link [.store k p.ord]) s = .next u ∧ (u.core k).stores = before ++ after ∧
        (u.card p.card).memerr = true ∧ u.mem = s.mem) ∧
    (∀ (e : Entry) (memErr : Bool), s.entries = [e] →
      ∃ u, exec (.linkReplayFailure link [.entry e.d e.qp e.eseq memErr]) s = .next u ∧
        u.entries = [{ e with fail := some (if memErr then .memoryError else .remoteError) }] ∧ u.mem = s.mem) ∧
    (∀ (d : Nat) (before : List Stage) (st : Stage) (after : List Stage) (t : Transfer) (memErr : Bool),
      HeldStage s d before st after t →
        ∃ u v pay, exec (.linkReplayFailure link [.stage d st.uid memErr]) s = .next u ∧ EventRaised s v 0 11 ∧
          StageEnds v u d (before ++ after) st t (if memErr then .memoryError else .remoteError) pay) ∧
    (∀ (n : Nat) (m : Msg), s.inbox[n]? = some m →
      ∃ u, exec (.linkReplayFailure link [.message n]) s = .next u ∧ u.inbox = s.inbox.eraseIdx n ∧ u.mem = s.mem ∧
        (∀ (q : Chunk) (e : Entry), m = .chunk q → s.entries = [e] → e.d = q.id.die → e.qp = q.id.qp → e.eseq = q.id.eseq →
          u.entries = [{ e with fail := some .remoteError }])) ∧
    (∀ (v n : Nat) (c : TblCmd) (memErr : Bool), (s.vault v).cmds[n]? = some c →
      ∃ w pay, EventRaised s w 0 11 ∧ (memErr = false → pay = []) ∧
        exec (.linkReplayFailure link [.row v n memErr]) s = .next
          ({ w with freeCtr := w.freeCtr + 1 }.finishCmd v c (some (if memErr then .memoryError else .remoteError, pay)))) ∧
    (∀ (d a : Nat), ∃ u, exec (.linkReplayFailure link [.line d a]) s = .next u ∧
      (∀ y, y ∈ (u.die d).l2 ↔ y ∈ (s.die d).l2 ∧ y.1 / 64 ≠ a / 64) ∧ u.mem = s.mem) ∧
    (∀ (d n : Nat), s.siltin = .ready → s.nextStream d = some n → d < 2 →
      ∃ u, exec (.linkReplayFailure link [.card d]) s = .next u ∧ (u.card s.seqCtr.toNat).status = 8 ∧
        (u.card s.seqCtr.toNat).rejected = true ∧ (u.card s.seqCtr.toNat).die = d ∧ (u.card s.seqCtr.toNat).stream = n ∧
        u.seqCtr = s.seqCtr + 1 ∧ (u.stream d n).sci = (s.stream d n).sci + 1 ∧ u.mem = s.mem) ∧
    (∀ n, Tab.has s.cards n = true → (s.card n).st ≠ .done → (s.card n).cleaned = true → (s.card n).dword 6 ≠ 0 →
      ∃ u v, exec (.linkReplayFailure link [.report n]) s = .next u ∧ EventRaised s v 0 11 ∧ CardEnds v u n true) ∧
    (∀ (k c n : Nat), (s.ctx k c).card = some n → (s.ctx k c).restoring = false → (s.ctx k c).st = .halted →
      (s.ctx k c).evicted = true → (s.ctx k c).saveFailed = false → s.saveReady n k c = true →
        ∃ u, exec (.linkReplayFailure link [.save k c]) s = .next u ∧ (u.ctx k c).saveFailed = true ∧ (u.ctx k c).st = .halted ∧
          (u.ctx k c).card = some n) ∧
    ∀ d, ∃ u, exec (.linkReplayFailure link [.pageService d]) s = .next u ∧ EventRaised s u 0 11

/-- R375, R381, R384: module reset: every core, die, Vault and unit, memory of the module, cards, groups, domains and the
feature words stand at their reset values; TRIPLOG survives, the trip is over, and the device trains. That memory reads 0 then,
and that the tables hold no entry, is the model's choice of what the spec leaves open (log entries 1 and 2). -/
def Sys2Proof.Claims.ModuleResetClearsTheModule : Prop :=
  ∀ (s : State),
    ∃ u, exec .moduleReset s = .next u ∧ exec (.moduleResetWrite 0x52455345) s = .next u ∧
      (∀ v, v ≠ 0x52455345 → exec (.moduleResetWrite v) s = .next s) ∧
      u.cores = [] ∧ u.dies = [] ∧ u.vaults = [] ∧ u.units = [] ∧ u.cards = [] ∧ u.groups = [] ∧ u.domains = [] ∧
      (∀ a, a < 2 ^ 52 → u.mem.read a = 0) ∧ (∀ a, 2 ^ 52 ≤ a → u.mem.read a = s.mem.read a) ∧ u.timebase = 0 ∧ u.seqCtr = 0 ∧
      u.siltin = .training ∧ u.featPub = 0 ∧ u.featAcc = 0 ∧ u.why = 0 ∧ u.carveGB = 0 ∧ u.tripped = false ∧
      u.tripValid = s.tripValid ∧ u.tripLo = s.tripLo ∧ u.tripTime = s.tripTime

/-- R375, R376: the host's answer to FEATPUB: a word with BASE, no reserved bit and only published bits makes the module
READY with those features; another makes it FAILED, with WHY 1 without BASE, 3 for a reserved bit, 2 for a bit that was not
published; outside the handshake the write has no effect. -/
def Sys2Proof.Claims.FeaturesAreAccepted : Prop :=
  ∀ (s : State) (v : Dword),
    (s.siltin ≠ .published → exec (.featAccWrite v) s = .next s) ∧
    (s.siltin = .published →
      (FeatGood s.featPub v → exec (.featAccWrite v) s = .next { s with featAcc := v, siltin := .ready, why := 0 }) ∧
      (¬ FeatGood s.featPub v →
        ∃ w : BitVec 8, exec (.featAccWrite v) s = .next { s with siltin := .failed, why := w } ∧
          (v.getLsbD 0 = false → w = 1) ∧
          (v.getLsbD 0 = true → (∃ b, 10 ≤ b ∧ b < 64 ∧ v.getLsbD b = true) → w = 3) ∧
          (v.getLsbD 0 = true → (∀ b, 10 ≤ b → b < 64 → v.getLsbD b = false) → w = 2)))

/-- R378: a power command enters the queue, and its domain shows the state it is asked for; one with a reserved field enters
as well, and no domain shows it. -/
def Sys2Proof.Claims.PowerCommandsAreQueued : Prop :=
  ∀ (s : State) (i : Instr) (w : BitVec 64), powerForm i = some w →
    (∀ d, d < 56 → w = commandFor d (w.extractLsb' 0 2) →
      exec i s = .next (State.setDomain { s with pwrQueue := s.pwrQueue ++ [w] } d
        { s.domain d with target := some (pwState w) })) ∧
    (w.extractLsb' 28 36 ≠ 0 ∨ w.extractLsb' 2 14 ≠ 0 → exec i s = .next { s with pwrQueue := s.pwrQueue ++ [w] })

/-- R378, R379: the oldest power command completes: an allowed change of a domain that is not busy puts the domain into its
state; a state that its class does not have leaves it as it was. A yard and a Vault turned OFF lose their contents, a yard its
translation cache too; what a Vault's bytes read as then is the model's choice (log entry 1). -/
def Sys2Proof.Claims.PowerCommandsComplete : Prop :=
  ∀ (s : State) (w : BitVec 64) (d : Nat) (p : Power),
    (s.pwrQueue = [] → exec .powerCommandDone s = .next s) ∧
    (s.pwrQueue = [w] → d < 56 → w = commandFor d p.code →
      (s.powerBusy d p = false →
        (p = .active ∨ (p = .gated ∧ (d < 24 ∨ 40 ≤ d)) ∨ (p = .retention ∧ d < 40) ∨ p = .off) →
          ∃ u, exec .powerCommandDone s = .next u ∧ u.pwrQueue = [] ∧ (u.domain d).power = p ∧ (u.domain d).target = none ∧
            (∀ e, e ≠ d → u.domain e = s.domain e) ∧
            (p ≠ .off → u.mem = s.mem ∧ u.cores = s.cores) ∧
            (p = .off → (s.domain d).power ≠ .off →
              (d < 24 → Tab.get [] u.yardTlb d = [] ∧ ∀ j, j < 4 → u.core (4 * d + j) = {}) ∧
              (24 ≤ d → d < 32 → ∀ o, o < 2 ^ 38 → u.mem.read (2 ^ 39 + (d - 24) * 2 ^ 38 + o) = 0))) ∧
      ((p = .gated ∧ 24 ≤ d ∧ d < 40) ∨ (p = .retention ∧ 40 ≤ d) ∨
          (s.powerBusy d p = true ∧ p ≠ .gated ∧ (p = .retention → d < 40)) →
        ∃ u, exec .powerCommandDone s = .next u ∧ u.pwrQueue = [] ∧ (u.domain d).power = (s.domain d).power ∧
          (u.domain d).target = none ∧ u.mem = s.mem ∧ u.cores = s.cores))

/-- R334, R368, R374, R375, R376, R378, R379, R381, R384: reset, the feature handshake, power commands, and links. Parts
of it rest on choices and readings of the model itself, no rules of the spec: log entries 1, 2, 38 and 39. -/
def Obligations.ResetFeaturesAndPower : Prop :=
  ModuleResetClearsTheModule ∧ FeaturesAreAccepted ∧ PowerCommandsAreQueued ∧ PowerCommandsComplete ∧ LinksReplayAndFail

/-- R380, R381: a sensor's reading is kept, and its thresholds remember being passed until the reading has fallen 3 °C below;
at 115 °C the module trips: its ports are off and TRIPLOG holds the domain, the reading and the time (the model's reading, log
entry 38). A read of TRIPLOG returns its record and clears its valid bit. -/
def Sys2Proof.Claims.TemperaturesAreWatched : Prop :=
  ∀ (s : State) (d : Nat) (v : Half),
    (∀ i, i = Instr.thermalThreshold d v ∨ (i = .thermalTrip d v ∧ s.tripped = false ∧ 920 ≤ v.toInt) →
      ∃ u, exec i s = .next u ∧ (u.domain d).therm = v ∧
        ((s.domain d).warn.toInt ≤ v.toInt → (u.domain d).aboveWarn = true) ∧
        (v.toInt ≤ (s.domain d).warn.toInt - 24 → (u.domain d).aboveWarn = false) ∧
        (v.toInt < (s.domain d).warn.toInt → (s.domain d).warn.toInt - 24 < v.toInt →
          (u.domain d).aboveWarn = (s.domain d).aboveWarn) ∧
        ((s.domain d).crit.toInt ≤ v.toInt → (u.domain d).aboveCrit = true) ∧
        (v.toInt ≤ (s.domain d).crit.toInt - 24 → (u.domain d).aboveCrit = false) ∧
        (v.toInt < (s.domain d).crit.toInt → (s.domain d).crit.toInt - 24 < v.toInt →
          (u.domain d).aboveCrit = (s.domain d).aboveCrit) ∧
        u.mem = s.mem ∧ u.cores = s.cores ∧
        (v.toInt < 920 → (∀ e, e ≠ d → u.domain e = s.domain e) ∧ u.tripped = s.tripped ∧ u.tripValid = s.tripValid) ∧
        (920 ≤ v.toInt → u.tripped = true ∧ u.tripValid = true ∧ u.tripTime = s.timebase ∧
          u.tripLo = BitVec.ofNat 64 (v.toNat * 65536 + d) ∧ (∀ i, i < 16 → (u.domain (40 + i)).power = .off) ∧
          ∀ e, e ≠ d → (e < 40 ∨ 56 ≤ e) → u.domain e = s.domain e)) ∧
    (v.toInt < 920 → exec (.thermalTrip d v) s = .next s) ∧
    (∀ i, i = Instr.triplogRead ∨ (∃ w, i = .registerWrite (.read 0x2002000) w) →
      exec i s = .next { s with tripValid := false, hostRead := s.tripLo ||| if s.tripValid then 0x8000000000000000 else 0 })

/-- R381, R384: a tripped module does nothing but let time pass, until it is reset (that its cycles are still counted is the
model's reading, log entry 38). -/
def Sys2Proof.Claims.ATrippedModuleStands : Prop :=
  ∀ (s : State) (i : Instr) (dt : Nat) (rest : List Turn), s.tripped = true →
    (s.schedule = { dt, ev := i } :: rest → i.ok = true →
      (i.afterTrip = false →
        ∃ u n, step s = .next u ∧ (n = dt ∨ dt = 0 ∧ n = 1) ∧ u = { s with
          schedule := rest, timebase := s.timebase + BitVec.ofNat 64 n, cycleTop := u.cycleTop, cycleTook := u.cycleTook }) ∧
      (i = .moduleReset → ∃ u, step s = .next u ∧ u.tripped = false ∧ u.siltin = .training)) ∧
    (s.schedule = [] → s.focus.ok = true →
      ∃ u, step s = .next u ∧
        u = { s with timebase := s.timebase + 1, cycleTop := u.cycleTop, cycleTook := u.cycleTook })

/-- R382: what an hour adds to the aged hours of a domain, and their share of 61,362 hours: the hour counts its voltage ratio
cubed under its voltage and reading; the factor of a reading is 1 at 85 °C, and stands between bounds that a finer unit brings
closer. The Boltzmann constant and the electron volt are the SI's (the model's choice, log entry 47). -/
def Sys2Proof.Claims.HoursAreAged : Prop :=
  (∀ p, ageFactor p 680 = ⟨2 ^ p, 2 ^ p⟩) ∧
    ((ageFactor 64 760).lo * 1000000000 / 2 ^ 64 = 1851650790 ∧ (ageFactor 64 760).hi * 1000000000 / 2 ^ 64 = 1851650790) ∧
    ((ageFactor 64 160).lo * 1000000000 / 2 ^ 64 = 6545199 ∧ (ageFactor 64 160).hi * 1000000000 / 2 ^ 64 = 6545199) ∧
    (∀ (p : Nat) (x : Domain) (k v : Nat) (l : List (Nat × Nat)), x.aged = (k, v) :: l →
      ∃ a, Domain.ageEncl { x with aged := l } p = a ∧
        (x.ageEncl p).lo = a.lo + v * (ageFactor p (BitVec.ofNat 16 k)).lo / (k / 65536) ^ 3 ∧
        (x.ageEncl p).hi = a.hi + ceilDiv (v * (ageFactor p (BitVec.ofNat 16 k)).hi) ((k / 65536) ^ 3)) ∧
    ∀ (x : Domain), ∃ p, 64 ≤ p ∧ Parts (x.ageParts 6 64) ((x.ageEncl p).lo, 61362 * 2 ^ p) ∧
      (p < 4096 → Parts (x.ageParts 6 64) ((x.ageEncl p).hi, 61362 * 2 ^ p))

/-- R382, R383: a domain's wear index is the largest of its terms: the drift's ratio, the aged hours' (the hour's term joins
them), of a memory domain its errors of the last 30 days over the rated ones, and of a port the lost part of its eye margin.
The daily sample keeps the last 90 indices and 30 error counts, its day counts from the epoch's, DAYS is the line's where its
field holds it, open-ended until there are 7 samples, and event 10 is raised; the rule's example gives its 2,127 days. -/
def Sys2Proof.Claims.WearIsSampled : Prop :=
  ∀ (s : State) (d : Nat) (y : WearSensors), (∃ u dr ag er ey, exec (.wearUpdate d y) s = .next u ∧
      Parts dr y.drift ∧ (y.volt.2 = 0 → (u.domain d).aged = (s.domain d).aged) ∧
      (y.volt.2 ≠ 0 → ∀ k, Tab.get 0 (u.domain d).aged k = Tab.get 0 (s.domain d).aged k +
        if k = y.volt.2 * 65536 + y.temp.toNat then y.volt.1 ^ 3 else 0) ∧
      ag = (u.domain d).ageParts 6 64 ∧
      (24 ≤ d ∧ d < 40 → Parts er ((s.domain d).errors - (s.domain d).errDays.headD 0, Config.ratedErrors d)) ∧
      (d < 24 ∨ 40 ≤ d → er = 0) ∧ (40 ≤ d → Parts ey (y.eye.2 - y.eye.1, y.eye.2)) ∧ (d < 40 → ey = 0) ∧
      (u.domain d).w.toNat = max (max dr ag) (max er ey) ∧ u.mem = s.mem ∧ u.cores = s.cores ∧
      (u.domain d).errors = (s.domain d).errors ∧ ∀ e, e ≠ d → u.domain e = s.domain e) ∧
    (∃ u v, exec .wearSample s = .next u ∧ EventRaised v u 0 10 ∧ v.hostMem = s.hostMem ∧ v.dies = s.dies ∧ v.irqs = s.irqs ∧
      u.sampleDays = s.sampleDays + 1 ∧ u.mem = s.mem ∧ u.cores = s.cores ∧
      ∀ i, i < 56 →
        (u.domain i).w = (s.domain i).w ∧ (u.domain i).power = (s.domain i).power ∧
        ((s.domain i).samples.length < 90 →
          (u.domain i).samples = (s.domain i).samples ++ [(s.sampleDays, (s.domain i).w.toNat)]) ∧
        ((s.domain i).samples.length = 90 →
          (u.domain i).samples = (s.domain i).samples.drop 1 ++ [(s.sampleDays, (s.domain i).w.toNat)]) ∧
        ((s.domain i).errDays.length < 30 → (u.domain i).errDays = (s.domain i).errDays ++ [(s.domain i).errors]) ∧
        ((s.domain i).errDays.length = 30 → (u.domain i).errDays = (s.domain i).errDays.drop 1 ++ [(s.domain i).errors]) ∧
        (u.domain i).day = (s.epoch + BitVec.ofNat 32 s.sampleDays).setWidth 16 ∧
        (∀ n : Nat, wearDays (u.domain i).samples = some (n : Int) → n < 2 ^ 32 → (u.domain i).days.toNat = n) ∧
        (wearDays (u.domain i).samples = none → (u.domain i).days = 0xFFFFFFFF) ∧
        ((s.domain i).samples.length < 6 → (u.domain i).days = 0xFFFFFFFF)) ∧
    wearDays ((List.range 30).map fun i => (i, 39663 + 12 * i)) = some 2127

/-- R267, R329, R370, R373, R380: the host's register writes: a counter, a warning threshold, the two dwords of a
handler entry, an entry of the group table, a space-table word for both dies, the reset register; a misaligned offset has no
effect. -/
def Sys2Proof.Claims.HostRegisterWrites : Prop :=
  ∀ (s : State) (v : Dword),
    (∀ d i, d < 2 → i < 1024 →
      ∃ u, exec (.registerWrite (.write (d * 0x1000000 + 0xC000 + 4 * i)) v) s = .next u ∧
        Tab.get 0 (u.die d).counters i = v.setWidth 32 ∧ u.mem = s.mem ∧
        ∀ j, j ≠ i → Tab.get 0 (u.die d).counters j = Tab.get 0 (s.die d).counters j) ∧
    (∀ i, i < 56 → s.siltin = .ready →
      exec (.registerWrite (.write (0x2002100 + 0x20 * i + 8)) v) s =
        .next (s.setDomain i { s.domain i with warn := v.setWidth 16 })) ∧
    (∀ a, a < 65536 → s.siltin = .ready →
      ∃ u, exec (.registerWrite (.write (0x100000 + 8 * a)) v) s = .next u ∧
        ∀ d, d < 2 → Tab.get 0 (u.die d).spaces a = v &&& 0x000FFFFFFFFF0001) ∧
    (∀ a, s.siltin ≠ .ready → a < 65536 → exec (.registerWrite (.write (0x100000 + 8 * a)) v) s = .next s) ∧
    (∀ d n, d < 2 → n < 256 → s.siltin = .ready →
      (∃ u, exec (.registerWrite (.write (d * 0x1000000 + 0x2000 + 16 * n)) v) s = .next u ∧
        ∀ b, b < 128 → (Tab.get 0 (u.die d).handlers n).getLsbD b =
          if b = 0 ∨ (5 ≤ b ∧ b < 52) then v.getLsbD b else (Tab.get 0 (s.die d).handlers n).getLsbD b) ∧
      ∃ u, exec (.registerWrite (.write (d * 0x1000000 + 0x2000 + 16 * n + 8)) v) s = .next u ∧
        ∀ b, b < 128 → (Tab.get 0 (u.die d).handlers n).getLsbD b =
          if 96 ≤ b then v.getLsbD (b - 64) else (Tab.get 0 (s.die d).handlers n).getLsbD b) ∧
    (∀ g, g < 256 → s.siltin = .ready →
      ∃ u, exec (.registerWrite (.write (0x2010000 + 8 * g)) v) s = .next u ∧ u.group g = v &&& 0xFFFFFFFF000FFF01) ∧
    exec (.registerWrite (.write 0x2000F00) 0x52455345) s = .next s.moduleReset ∧
    (∀ off, off % 4 ≠ 0 → exec (.registerWrite (.write off) v) s = .next s)

/-- R6, R7, R370, R373, R375, R378, R380, R383: the host's register reads: the value of a readable register, its reserved bits
zero; one byte of PWRSTAT at its own offset; zero of a write-only register, of an offset without one, and of a misaligned one.
But for TRIPLOG a read changes nothing else. -/
def Sys2Proof.Claims.HostRegisterReads : Prop :=
  ∀ (s : State) (w v : Dword),
    (∀ off, off ≠ 0x2002000 → exec (.registerWrite (.read off) w) s = .next { s with hostRead := s.bar0Read off }) ∧
    (∀ d i, d < 2 → i < 1024 →
      s.bar0Read (d * 0x1000000 + 0xC000 + 4 * i) = (Tab.get (0 : Word) (s.die d).counters i).setWidth 64) ∧
    (∀ d, d < 2 → s.bar0Read (d * 0x1000000 + 0x1200) = (s.die d).pq.pqbase ∧
      s.bar0Read (d * 0x1000000 + 0x1208) = (s.die d).pq.pqlog.setWidth 64 ∧
      s.bar0Read (d * 0x1000000 + 0x1210) = (s.die d).pq.ppi ∧ s.bar0Read (d * 0x1000000 + 0x1218) = (s.die d).pq.pci) ∧
    (v = s.bar0Read 0x2000000 → v.extractLsb' 16 48 = 1 ∧ v.extractLsb' 8 8 = s.why ∧
      (v.extractLsb' 0 8 = 0 ↔ s.siltin = .reset) ∧ (v.extractLsb' 0 8 = 1 ↔ s.siltin = .training) ∧
      (v.extractLsb' 0 8 = 2 ↔ s.siltin = .published) ∧ (v.extractLsb' 0 8 = 3 ↔ s.siltin = .ready) ∧
      (v.extractLsb' 0 8 = 4 ↔ s.siltin = .failed)) ∧
    s.bar0Read 0x2000008 = s.featPub ∧ s.bar0Read 0x2000010 = s.featAcc ∧
    (∀ i, i < 56 → s.bar0Read (0x2002100 + 0x20 * i) = (s.domain i).therm.setWidth 64 ∧
      s.bar0Read (0x2002100 + 0x20 * i + 8) = (s.domain i).warn.setWidth 64 ∧
      s.bar0Read (0x2002100 + 0x20 * i + 16) = (s.domain i).crit.setWidth 64 ∧
      s.bar0Read (0x2002100 + 0x20 * i + 24) = (s.domain i).days ++ (s.domain i).day ++ (s.domain i).w) ∧
    (∀ i j, i < 7 → j < 8 → (s.bar0Read (0x2001010 + 8 * i)).extractLsb' (8 * j) 8 =
      (s.domain (8 * i + j)).power.code.setWidth 8 ||| if (s.domain (8 * i + j)).target.isSome then 4 else 0) ∧
    (∀ j, j < 16 → s.bar0Read (0x2002080 + 8 * j) = (Tab.get 24 s.scrub j).setWidth 64) ∧
    s.bar0Read 0x2002008 = s.tripTime ∧ s.bar0Read 0x2002010 = s.epoch.setWidth 64 ∧
    (∀ a, a < 65536 → s.bar0Read (0x100000 + 8 * a) = Tab.get 0 (s.die 0).spaces a) ∧
    (∀ g, g < 256 → s.bar0Read (0x2010000 + 8 * g) = s.group g) ∧
    s.bar0Read 0x1000 = 0 ∧ s.bar0Read 0x1001000 = 0 ∧ s.bar0Read 0x2000F00 = 0 ∧ s.bar0Read 0x2001000 = 0 ∧
    (∀ i, i < 56 → i % 8 ≠ 0 → s.bar0Read (0x2001010 + i) =
      (((s.domain i).power.code.setWidth 8 ||| if (s.domain i).target.isSome then 4 else 0 : Byte)).setWidth 64) ∧
    (∀ off, off % 4 ≠ 0 ∨ 0x4000000 ≤ off → off < 0x2001010 ∨ 0x2001048 ≤ off → s.bar0Read off = 0)

/-- R298, R336, R345, R350: what the driver and firmware bind beside the registers: a queue pair's space, a group's, a space's default
tier, a die's supervisor root, a frame's word, the place of a frame table. The way in which they do so is the model's choice (log
entry 12). -/
def Sys2Proof.Claims.DriverBindings : Prop :=
  ∀ (s : State) (v : Dword) (d n : Nat) (a : BitVec 16),
    (∃ u, exec (.registerWrite (.qpSpace d n) v) s = .next u ∧ (Tab.get {} (u.die d).qps n).asid = v.extractLsb' 0 16 ∧
      u.mem = s.mem) ∧
    (∃ u, exec (.registerWrite (.groupSpace n) v) s = .next u ∧ Tab.get 0 u.groupAsid n = v.extractLsb' 0 16 ∧
      ∀ m, m ≠ n → Tab.get 0 u.groupAsid m = Tab.get 0 s.groupAsid m) ∧
    (∃ u, exec (.registerWrite (.defaultTier a) v) s = .next u ∧ Tab.get 3 u.defaultTier a.toNat = v.extractLsb' 0 2) ∧
    (∃ u, exec (.registerWrite (.frame n) v) s = .next u ∧ (u.frame n).refc = (v.extractLsb' 0 16).toNat ∧
      (u.frame n).table = v.getLsbD 16 ∧ (u.frame n).pin = v.getLsbD 17 ∧ ∀ m, m ≠ n → u.frame m = s.frame m) ∧
    exec (.registerWrite (.frameTable n) v) s = .next (s.setFrameTable n v) ∧
    ∃ u, exec (.registerWrite (.supervisorRoot d) v) s = .next u ∧ (u.die d).supRoot = v

/-- R369, R379: a host write through the BAR2 window reaches memory in ASID 0, every byte of it, and no other byte; one that leaves
the window or does not translate has no effect; one that must wait, and those after it, perform when they may (log entry 40). -/
def Sys2Proof.Claims.HostMemoryWrites : Prop :=
  ∀ (s : State) (va : Nat) (data : List Byte),
    (2 ^ 52 < va + data.length → exec (.bar2Write va data) s = .next s) ∧
    (va + data.length ≤ 2 ^ 52 →
      (s.lateWrites ≠ [] → exec (.bar2Write va data) s = .next { s with lateWrites := s.lateWrites ++ [(va, data)] }) ∧
      (∀ x, s.lateWrites = [] → s.devSpan 0 0 .write (BitVec.ofNat 64 va) data.length = .wait x →
        exec (.bar2Write va data) s = .next (State.awaitDomain { s with lateWrites := [(va, data)] } 0 x)) ∧
      (∀ c a, s.lateWrites = [] → s.devSpan 0 0 .write (BitVec.ofNat 64 va) data.length = .fault c a → c ≠ .cowWrite →
        c ≠ .pageAbsent → exec (.bar2Write va data) s = .next s) ∧
      (∀ l dir, s.devSpan 0 0 .write (BitVec.ofNat 64 va) data.length = .ok l dir → l.Nodup → l.length = data.length →
        (s.lateWrites = [] →
          ∃ u, exec (.bar2Write va data) s = .next u ∧ u.cores = s.cores ∧
            (∀ (i a : Nat) (b : Byte), l[i]? = some a → data[i]? = some b →
              u.mem.read a = b ∧ u.dieByte 0 a = b ∧ u.dieByte 1 a = b) ∧
            ∀ a, a ∉ l → u.mem.read a = s.mem.read a) ∧
        (s.lateWrites = [(va, data)] → s.lateFrames = [] →
          s.landLate.lateWrites = [] ∧
            (∀ (i a : Nat) (b : Byte), l[i]? = some a → data[i]? = some b → s.landLate.mem.read a = b) ∧
            ∀ a, a ∉ l → s.landLate.mem.read a = s.mem.read a)))

/-- R2, R6, R7, R267, R298, R329, R336, R345, R350, R369, R370, R373, R375, R378, R379, R380, R381, R382, R383, R384:
sensors, wear, and the host's accesses. Parts of it rest on choices and readings of the model itself, no rules of the
spec: log entries 12, 38, 39, 40 and 47. -/
def Obligations.HeatWearAndTheHost : Prop :=
  TemperaturesAreWatched ∧ ATrippedModuleStands ∧ HoursAreAged ∧ WearIsSampled ∧ HostRegisterWrites ∧ HostRegisterReads ∧ DriverBindings ∧ HostMemoryWrites
end

