-- ==== Sys2Proof/Laws/State.lean ====
section
/-! SUPPORT. What each named update of the state leaves unchanged, field by field, and what it writes. -/

namespace Sys2Proof.Machine

/-! ### Numbered files -/

theorem Tab.get_erase_self {α : Type} (d : α) (l : Tab α) (k : Nat) : Tab.get d (l.erase k) k = d := by
  induction l with
  | nil => rfl
  | cons h t ih =>
    obtain ⟨a, b⟩ := h
    by_cases e : a = k <;> simp [Tab.erase, Tab.get, e, ih]

theorem Tab.get_erase_other {α : Type} (d : α) (l : Tab α) {k j : Nat} (h : j ≠ k) :
    Tab.get d (l.erase k) j = Tab.get d l j := by
  induction l with
  | nil => rfl
  | cons x t ih =>
    obtain ⟨a, b⟩ := x
    by_cases e : a = k
    · subst e; simp [Tab.erase, Tab.get, ih, Ne.symm h]
    · by_cases f : a = j
      · subst f; simp [Tab.erase, Tab.get, e]
      · simp [Tab.erase, Tab.get, e, f, ih]

theorem Tab.get_insert_self {α : Type} (d : α) (l : Tab α) (k : Nat) (v : α) (h : ∀ x ∈ l, x.1 ≠ k) :
    Tab.get d (l.insert k v) k = v := by
  induction l with
  | nil => simp [Tab.insert, Tab.get]
  | cons x t ih =>
    obtain ⟨a, b⟩ := x
    have ha : a ≠ k := h (a, b) (by simp)
    by_cases e : k < a
    · simp [Tab.insert, Tab.get, e]
    · simp [Tab.insert, Tab.get, e, ha, ih fun y hy => h y (by simp [hy])]

theorem Tab.get_insert_other {α : Type} (d : α) (l : Tab α) {k j : Nat} (v : α) (h : j ≠ k) :
    Tab.get d (l.insert k v) j = Tab.get d l j := by
  induction l with
  | nil => simp [Tab.insert, Tab.get, Ne.symm h]
  | cons x t ih =>
    obtain ⟨a, b⟩ := x
    by_cases e : k < a
    · simp [Tab.insert, Tab.get, e, Ne.symm h]
    · by_cases f : a = j
      · subst f; simp [Tab.insert, Tab.get, e]
      · simp [Tab.insert, Tab.get, e, f, ih]

theorem Tab.mem_erase_ne {α : Type} (l : Tab α) (k : Nat) : ∀ x ∈ l.erase k, x.1 ≠ k := by
  induction l with
  | nil => simp [Tab.erase]
  | cons h t ih =>
    obtain ⟨a, b⟩ := h
    by_cases e : a = k
    · simpa [Tab.erase, e] using ih
    · intro x hx
      simp only [Tab.erase, e, if_false, List.mem_cons] at hx
      rcases hx with rfl | hx
      · exact e
      · exact ih x hx

/-- A written number reads as what was written. -/
@[simp] theorem Tab.get_put_self {α : Type} (d : α) (l : Tab α) (k : Nat) (v : α) : Tab.get d (l.put k v) k = v :=
  Tab.get_insert_self d _ k v (Tab.mem_erase_ne l k)

/-- A write leaves every other number alone. -/
theorem Tab.get_put_other {α : Type} (d : α) (l : Tab α) {k j : Nat} (v : α) (h : j ≠ k) :
    Tab.get d (l.put k v) j = Tab.get d l j := by
  rw [Tab.put, Tab.get_insert_other d _ v h, Tab.get_erase_other d l h]

theorem Tab.get_put {α : Type} (d : α) (l : Tab α) (k j : Nat) (v : α) :
    Tab.get d (l.put k v) j = if j = k then v else Tab.get d l j := by
  by_cases h : j = k
  · subst h; simp
  · simp [h, Tab.get_put_other]

theorem Tab.erase_of_ne {α : Type} (l : Tab α) (k : Nat) (h : ∀ x ∈ l, x.1 ≠ k) : l.erase k = l := by
  induction l with
  | nil => rfl
  | cons x t ih =>
    obtain ⟨a, b⟩ := x
    have ha : a ≠ k := h (a, b) (by simp)
    simp [Tab.erase, ha, ih fun y hy => h y (by simp [hy])]

theorem Tab.erase_insert {α : Type} (l : Tab α) (k : Nat) (v : α) (h : ∀ x ∈ l, x.1 ≠ k) : (l.insert k v).erase k = l := by
  induction l with
  | nil => simp [Tab.insert, Tab.erase]
  | cons x t ih =>
    obtain ⟨a, b⟩ := x
    have ha : a ≠ k := h (a, b) (by simp)
    have ht : ∀ y ∈ t, y.1 ≠ k := fun y hy => h y (by simp [hy])
    by_cases e : k < a
    · simp [Tab.insert, Tab.erase, e, ha, Tab.erase_of_ne t k ht]
    · simp [Tab.insert, Tab.erase, e, ha, ih ht]

/-- The second of two writes of one number stands. -/
@[simp] theorem Tab.put_put {α : Type} (l : Tab α) (k : Nat) (v w : α) : (l.put k v).put k w = l.put k w := by
  rw [Tab.put, Tab.put, Tab.put, Tab.erase_insert _ _ _ (Tab.mem_erase_ne l k)]

/-! ### Reading back -/

@[simp] theorem State.core_setCore (s : State) (k : Nat) (v : Core) : (s.setCore k v).core k = v := Tab.get_put_self _ _ _ _
theorem State.core_setCore_other (s : State) {k j : Nat} (v : Core) (h : j ≠ k) : (s.setCore k v).core j = s.core j :=
  Tab.get_put_other _ _ _ h
@[simp] theorem Core.ctx_setCtx (q : Core) (c : Nat) (v : Ctx) : (q.setCtx c v).ctx c = v := Tab.get_put_self _ _ _ _
theorem Core.ctx_setCtx_other (q : Core) {c d : Nat} (v : Ctx) (h : d ≠ c) : (q.setCtx c v).ctx d = q.ctx d :=
  Tab.get_put_other _ _ _ h
@[simp] theorem State.core_modCore (s : State) (k : Nat) (f : Core → Core) : (s.modCore k f).core k = f (s.core k) := by
  simp [State.modCore]
theorem State.core_modCore_other (s : State) {k j : Nat} (f : Core → Core) (h : j ≠ k) : (s.modCore k f).core j = s.core j := by
  simp [State.modCore, State.core_setCore_other _ _ h]
@[simp] theorem State.core_setCtx (s : State) (k c : Nat) (v : Ctx) : (s.setCtx k c v).core k = (s.core k).setCtx c v := by
  simp [State.setCtx]
@[simp] theorem State.core_modCtx (s : State) (k c : Nat) (f : Ctx → Ctx) :
    (s.modCtx k c f).core k = (s.core k).setCtx c (f (s.ctx k c)) := by simp [State.modCtx]
@[simp] theorem State.ctx_setCtx (s : State) (k c : Nat) (v : Ctx) : (s.setCtx k c v).ctx k c = v := by
  simp [State.ctx]
@[simp] theorem State.ctx_modCtx (s : State) (k c : Nat) (f : Ctx → Ctx) : (s.modCtx k c f).ctx k c = f (s.ctx k c) := by
  simp [State.modCtx]
@[simp] theorem State.ctx_setCore (s : State) (k c : Nat) (v : Core) : (s.setCore k v).ctx k c = v.ctx c := by
  simp [State.ctx]
@[simp] theorem State.ctx_modCore (s : State) (k c : Nat) (f : Core → Core) :
    (s.modCore k f).ctx k c = (f (s.core k)).ctx c := by simp [State.ctx]
@[simp] theorem State.setCore_setCore (s : State) (k : Nat) (v w : Core) : (s.setCore k v).setCore k w = s.setCore k w := by
  simp [State.setCore]
@[simp] theorem Core.setCtx_setCtx (q : Core) (c : Nat) (v w : Ctx) : (q.setCtx c v).setCtx c w = q.setCtx c w := by
  simp [Core.setCtx]
@[simp] theorem State.die_setDie (s : State) (d : Nat) (v : Die) : (s.setDie d v).die d = v := Tab.get_put_self _ _ _ _
@[simp] theorem State.die_modDie (s : State) (d : Nat) (f : Die → Die) : (s.modDie d f).die d = f (s.die d) := by
  simp [State.modDie]
theorem State.die_setDie_other (s : State) {d e : Nat} (v : Die) (h : e ≠ d) : (s.setDie d v).die e = s.die e :=
  Tab.get_put_other _ _ _ h
@[simp] theorem State.vault_setVault (s : State) (n : Nat) (v : Vault) : (s.setVault n v).vault n = v := Tab.get_put_self _ _ _ _
@[simp] theorem State.card_setCard (s : State) (n : Nat) (v : Card) : (s.setCard n v).card n = v := Tab.get_put_self _ _ _ _
@[simp] theorem State.card_modCard (s : State) (n : Nat) (f : Card → Card) : (s.modCard n f).card n = f (s.card n) := by
  simp [State.modCard]
@[simp] theorem State.domain_setDomain (s : State) (n : Nat) (v : Domain) : (s.setDomain n v).domain n = v :=
  Tab.get_put_self _ _ _ _
@[simp] theorem State.unit_setUnit (s : State) (u : UnitId) (v : RowUnit) : (s.setUnit u v).unit u = v := Tab.get_put_self _ _ _ _
@[simp] theorem State.frame_setFrame (s : State) (n : Nat) (v : Frame) : (s.setFrame n v).frame n = v := Tab.get_put_self _ _ _ _

/-! ### `setCore` writes `cores` alone -/

@[simp] theorem State.setCore_dies (s : State) (k : Nat) (v : Core) : (s.setCore k v).dies = s.dies := rfl
@[simp] theorem State.setCore_vaults (s : State) (k : Nat) (v : Core) : (s.setCore k v).vaults = s.vaults := rfl
@[simp] theorem State.setCore_units (s : State) (k : Nat) (v : Core) : (s.setCore k v).units = s.units := rfl
@[simp] theorem State.setCore_chansvc (s : State) (k : Nat) (v : Core) : (s.setCore k v).chansvc = s.chansvc := rfl
@[simp] theorem State.setCore_mem (s : State) (k : Nat) (v : Core) : (s.setCore k v).mem = s.mem := rfl
@[simp] theorem State.setCore_poison (s : State) (k : Nat) (v : Core) : (s.setCore k v).poison = s.poison := rfl
@[simp] theorem State.setCore_frames (s : State) (k : Nat) (v : Core) : (s.setCore k v).frames = s.frames := rfl
@[simp] theorem State.setCore_pageReqs (s : State) (k : Nat) (v : Core) : (s.setCore k v).pageReqs = s.pageReqs := rfl
@[simp] theorem State.setCore_moves (s : State) (k : Nat) (v : Core) : (s.setCore k v).moves = s.moves := rfl
@[simp] theorem State.setCore_defaultTier (s : State) (k : Nat) (v : Core) : (s.setCore k v).defaultTier = s.defaultTier := rfl
@[simp] theorem State.setCore_cards (s : State) (k : Nat) (v : Core) : (s.setCore k v).cards = s.cards := rfl
@[simp] theorem State.setCore_seqCtr (s : State) (k : Nat) (v : Core) : (s.setCore k v).seqCtr = s.seqCtr := rfl
@[simp] theorem State.setCore_groups (s : State) (k : Nat) (v : Core) : (s.setCore k v).groups = s.groups := rfl
@[simp] theorem State.setCore_groupAsid (s : State) (k : Nat) (v : Core) : (s.setCore k v).groupAsid = s.groupAsid := rfl
@[simp] theorem State.setCore_peers (s : State) (k : Nat) (v : Core) : (s.setCore k v).peers = s.peers := rfl
@[simp] theorem State.setCore_collects (s : State) (k : Nat) (v : Core) : (s.setCore k v).collects = s.collects := rfl
@[simp] theorem State.setCore_entries (s : State) (k : Nat) (v : Core) : (s.setCore k v).entries = s.entries := rfl
@[simp] theorem State.setCore_applied (s : State) (k : Nat) (v : Core) : (s.setCore k v).applied = s.applied := rfl
@[simp] theorem State.setCore_parkedChunks (s : State) (k : Nat) (v : Core) : (s.setCore k v).parkedChunks = s.parkedChunks := rfl
@[simp] theorem State.setCore_inbox (s : State) (k : Nat) (v : Core) : (s.setCore k v).inbox = s.inbox := rfl
@[simp] theorem State.setCore_outbox (s : State) (k : Nat) (v : Core) : (s.setCore k v).outbox = s.outbox := rfl
@[simp] theorem State.setCore_recQueue (s : State) (k : Nat) (v : Core) : (s.setCore k v).recQueue = s.recQueue := rfl
@[simp] theorem State.setCore_cardRecs (s : State) (k : Nat) (v : Core) : (s.setCore k v).cardRecs = s.cardRecs := rfl
@[simp] theorem State.setCore_carveGB (s : State) (k : Nat) (v : Core) : (s.setCore k v).carveGB = s.carveGB := rfl
@[simp] theorem State.setCore_siltin (s : State) (k : Nat) (v : Core) : (s.setCore k v).siltin = s.siltin := rfl
@[simp] theorem State.setCore_why (s : State) (k : Nat) (v : Core) : (s.setCore k v).why = s.why := rfl
@[simp] theorem State.setCore_featPub (s : State) (k : Nat) (v : Core) : (s.setCore k v).featPub = s.featPub := rfl
@[simp] theorem State.setCore_featAcc (s : State) (k : Nat) (v : Core) : (s.setCore k v).featAcc = s.featAcc := rfl
@[simp] theorem State.setCore_timebase (s : State) (k : Nat) (v : Core) : (s.setCore k v).timebase = s.timebase := rfl
@[simp] theorem State.setCore_domains (s : State) (k : Nat) (v : Core) : (s.setCore k v).domains = s.domains := rfl
@[simp] theorem State.setCore_pwrQueue (s : State) (k : Nat) (v : Core) : (s.setCore k v).pwrQueue = s.pwrQueue := rfl
@[simp] theorem State.setCore_tillSeen (s : State) (k : Nat) (v : Core) : (s.setCore k v).tillSeen = s.tillSeen := rfl
@[simp] theorem State.setCore_scrub (s : State) (k : Nat) (v : Core) : (s.setCore k v).scrub = s.scrub := rfl
@[simp] theorem State.setCore_epoch (s : State) (k : Nat) (v : Core) : (s.setCore k v).epoch = s.epoch := rfl
@[simp] theorem State.setCore_sampleDays (s : State) (k : Nat) (v : Core) : (s.setCore k v).sampleDays = s.sampleDays := rfl
@[simp] theorem State.setCore_tripped (s : State) (k : Nat) (v : Core) : (s.setCore k v).tripped = s.tripped := rfl
@[simp] theorem State.setCore_tripValid (s : State) (k : Nat) (v : Core) : (s.setCore k v).tripValid = s.tripValid := rfl
@[simp] theorem State.setCore_tripLo (s : State) (k : Nat) (v : Core) : (s.setCore k v).tripLo = s.tripLo := rfl
@[simp] theorem State.setCore_tripTime (s : State) (k : Nat) (v : Core) : (s.setCore k v).tripTime = s.tripTime := rfl
@[simp] theorem State.setCore_irqs (s : State) (k : Nat) (v : Core) : (s.setCore k v).irqs = s.irqs := rfl
@[simp] theorem State.setCore_hostMem (s : State) (k : Nat) (v : Core) : (s.setCore k v).hostMem = s.hostMem := rfl
@[simp] theorem State.setCore_frameTab (s : State) (k : Nat) (v : Core) : (s.setCore k v).frameTab = s.frameTab := rfl
@[simp] theorem State.setCore_yardTlb (s : State) (k : Nat) (v : Core) : (s.setCore k v).yardTlb = s.yardTlb := rfl
@[simp] theorem State.setCore_countsSeen (s : State) (k : Nat) (v : Core) : (s.setCore k v).countsSeen = s.countsSeen := rfl
@[simp] theorem State.setCore_scrubbed (s : State) (k : Nat) (v : Core) : (s.setCore k v).scrubbed = s.scrubbed := rfl
@[simp] theorem State.setCore_hostRead (s : State) (k : Nat) (v : Core) : (s.setCore k v).hostRead = s.hostRead := rfl
@[simp] theorem State.setCore_cycleTop (s : State) (k : Nat) (v : Core) : (s.setCore k v).cycleTop = s.cycleTop := rfl
@[simp] theorem State.setCore_cycleTook (s : State) (k : Nat) (v : Core) : (s.setCore k v).cycleTook = s.cycleTook := rfl
@[simp] theorem State.setCore_lateFrames (s : State) (k : Nat) (v : Core) : (s.setCore k v).lateFrames = s.lateFrames := rfl
@[simp] theorem State.setCore_lateWrites (s : State) (k : Nat) (v : Core) : (s.setCore k v).lateWrites = s.lateWrites := rfl
@[simp] theorem State.setCore_issueCtr (s : State) (k : Nat) (v : Core) : (s.setCore k v).issueCtr = s.issueCtr := rfl
@[simp] theorem State.setCore_stageCtr (s : State) (k : Nat) (v : Core) : (s.setCore k v).stageCtr = s.stageCtr := rfl
@[simp] theorem State.setCore_freeCtr (s : State) (k : Nat) (v : Core) : (s.setCore k v).freeCtr = s.freeCtr := rfl
@[simp] theorem State.setCore_schedule (s : State) (k : Nat) (v : Core) : (s.setCore k v).schedule = s.schedule := rfl
@[simp] theorem State.setCore_focus (s : State) (k : Nat) (v : Core) : (s.setCore k v).focus = s.focus := rfl
@[simp] theorem State.die_setCore (s : State) (k : Nat) (v : Core) (j : Nat) : (s.setCore k v).die j = s.die j := rfl
@[simp] theorem State.vault_setCore (s : State) (k : Nat) (v : Core) (j : Nat) : (s.setCore k v).vault j = s.vault j := rfl
@[simp] theorem State.card_setCore (s : State) (k : Nat) (v : Core) (j : Nat) : (s.setCore k v).card j = s.card j := rfl
@[simp] theorem State.domain_setCore (s : State) (k : Nat) (v : Core) (j : Nat) : (s.setCore k v).domain j = s.domain j := rfl
@[simp] theorem State.frame_setCore (s : State) (k : Nat) (v : Core) (j : Nat) : (s.setCore k v).frame j = s.frame j := rfl
@[simp] theorem State.unit_setCore (s : State) (k : Nat) (v : Core) (w : UnitId) : (s.setCore k v).unit w = s.unit w := rfl

/-! ### `setDie` writes `dies` alone -/

@[simp] theorem State.setDie_cores (s : State) (d : Nat) (v : Die) : (s.setDie d v).cores = s.cores := rfl
@[simp] theorem State.setDie_vaults (s : State) (d : Nat) (v : Die) : (s.setDie d v).vaults = s.vaults := rfl
@[simp] theorem State.setDie_units (s : State) (d : Nat) (v : Die) : (s.setDie d v).units = s.units := rfl
@[simp] theorem State.setDie_chansvc (s : State) (d : Nat) (v : Die) : (s.setDie d v).chansvc = s.chansvc := rfl
@[simp] theorem State.setDie_mem (s : State) (d : Nat) (v : Die) : (s.setDie d v).mem = s.mem := rfl
@[simp] theorem State.setDie_poison (s : State) (d : Nat) (v : Die) : (s.setDie d v).poison = s.poison := rfl
@[simp] theorem State.setDie_frames (s : State) (d : Nat) (v : Die) : (s.setDie d v).frames = s.frames := rfl
@[simp] theorem State.setDie_pageReqs (s : State) (d : Nat) (v : Die) : (s.setDie d v).pageReqs = s.pageReqs := rfl
@[simp] theorem State.setDie_moves (s : State) (d : Nat) (v : Die) : (s.setDie d v).moves = s.moves := rfl
@[simp] theorem State.setDie_defaultTier (s : State) (d : Nat) (v : Die) : (s.setDie d v).defaultTier = s.defaultTier := rfl
@[simp] theorem State.setDie_cards (s : State) (d : Nat) (v : Die) : (s.setDie d v).cards = s.cards := rfl
@[simp] theorem State.setDie_seqCtr (s : State) (d : Nat) (v : Die) : (s.setDie d v).seqCtr = s.seqCtr := rfl
@[simp] theorem State.setDie_groups (s : State) (d : Nat) (v : Die) : (s.setDie d v).groups = s.groups := rfl
@[simp] theorem State.setDie_groupAsid (s : State) (d : Nat) (v : Die) : (s.setDie d v).groupAsid = s.groupAsid := rfl
@[simp] theorem State.setDie_peers (s : State) (d : Nat) (v : Die) : (s.setDie d v).peers = s.peers := rfl
@[simp] theorem State.setDie_collects (s : State) (d : Nat) (v : Die) : (s.setDie d v).collects = s.collects := rfl
@[simp] theorem State.setDie_entries (s : State) (d : Nat) (v : Die) : (s.setDie d v).entries = s.entries := rfl
@[simp] theorem State.setDie_applied (s : State) (d : Nat) (v : Die) : (s.setDie d v).applied = s.applied := rfl
@[simp] theorem State.setDie_parkedChunks (s : State) (d : Nat) (v : Die) : (s.setDie d v).parkedChunks = s.parkedChunks := rfl
@[simp] theorem State.setDie_inbox (s : State) (d : Nat) (v : Die) : (s.setDie d v).inbox = s.inbox := rfl
@[simp] theorem State.setDie_outbox (s : State) (d : Nat) (v : Die) : (s.setDie d v).outbox = s.outbox := rfl
@[simp] theorem State.setDie_recQueue (s : State) (d : Nat) (v : Die) : (s.setDie d v).recQueue = s.recQueue := rfl
@[simp] theorem State.setDie_cardRecs (s : State) (d : Nat) (v : Die) : (s.setDie d v).cardRecs = s.cardRecs := rfl
@[simp] theorem State.setDie_carveGB (s : State) (d : Nat) (v : Die) : (s.setDie d v).carveGB = s.carveGB := rfl
@[simp] theorem State.setDie_siltin (s : State) (d : Nat) (v : Die) : (s.setDie d v).siltin = s.siltin := rfl
@[simp] theorem State.setDie_why (s : State) (d : Nat) (v : Die) : (s.setDie d v).why = s.why := rfl
@[simp] theorem State.setDie_featPub (s : State) (d : Nat) (v : Die) : (s.setDie d v).featPub = s.featPub := rfl
@[simp] theorem State.setDie_featAcc (s : State) (d : Nat) (v : Die) : (s.setDie d v).featAcc = s.featAcc := rfl
@[simp] theorem State.setDie_timebase (s : State) (d : Nat) (v : Die) : (s.setDie d v).timebase = s.timebase := rfl
@[simp] theorem State.setDie_domains (s : State) (d : Nat) (v : Die) : (s.setDie d v).domains = s.domains := rfl
@[simp] theorem State.setDie_pwrQueue (s : State) (d : Nat) (v : Die) : (s.setDie d v).pwrQueue = s.pwrQueue := rfl
@[simp] theorem State.setDie_tillSeen (s : State) (d : Nat) (v : Die) : (s.setDie d v).tillSeen = s.tillSeen := rfl
@[simp] theorem State.setDie_scrub (s : State) (d : Nat) (v : Die) : (s.setDie d v).scrub = s.scrub := rfl
@[simp] theorem State.setDie_epoch (s : State) (d : Nat) (v : Die) : (s.setDie d v).epoch = s.epoch := rfl
@[simp] theorem State.setDie_sampleDays (s : State) (d : Nat) (v : Die) : (s.setDie d v).sampleDays = s.sampleDays := rfl
@[simp] theorem State.setDie_tripped (s : State) (d : Nat) (v : Die) : (s.setDie d v).tripped = s.tripped := rfl
@[simp] theorem State.setDie_tripValid (s : State) (d : Nat) (v : Die) : (s.setDie d v).tripValid = s.tripValid := rfl
@[simp] theorem State.setDie_tripLo (s : State) (d : Nat) (v : Die) : (s.setDie d v).tripLo = s.tripLo := rfl
@[simp] theorem State.setDie_tripTime (s : State) (d : Nat) (v : Die) : (s.setDie d v).tripTime = s.tripTime := rfl
@[simp] theorem State.setDie_irqs (s : State) (d : Nat) (v : Die) : (s.setDie d v).irqs = s.irqs := rfl
@[simp] theorem State.setDie_hostMem (s : State) (d : Nat) (v : Die) : (s.setDie d v).hostMem = s.hostMem := rfl
@[simp] theorem State.setDie_frameTab (s : State) (d : Nat) (v : Die) : (s.setDie d v).frameTab = s.frameTab := rfl
@[simp] theorem State.setDie_yardTlb (s : State) (d : Nat) (v : Die) : (s.setDie d v).yardTlb = s.yardTlb := rfl
@[simp] theorem State.setDie_countsSeen (s : State) (d : Nat) (v : Die) : (s.setDie d v).countsSeen = s.countsSeen := rfl
@[simp] theorem State.setDie_scrubbed (s : State) (d : Nat) (v : Die) : (s.setDie d v).scrubbed = s.scrubbed := rfl
@[simp] theorem State.setDie_hostRead (s : State) (d : Nat) (v : Die) : (s.setDie d v).hostRead = s.hostRead := rfl
@[simp] theorem State.setDie_cycleTop (s : State) (d : Nat) (v : Die) : (s.setDie d v).cycleTop = s.cycleTop := rfl
@[simp] theorem State.setDie_cycleTook (s : State) (d : Nat) (v : Die) : (s.setDie d v).cycleTook = s.cycleTook := rfl
@[simp] theorem State.setDie_lateFrames (s : State) (d : Nat) (v : Die) : (s.setDie d v).lateFrames = s.lateFrames := rfl
@[simp] theorem State.setDie_lateWrites (s : State) (d : Nat) (v : Die) : (s.setDie d v).lateWrites = s.lateWrites := rfl
@[simp] theorem State.setDie_issueCtr (s : State) (d : Nat) (v : Die) : (s.setDie d v).issueCtr = s.issueCtr := rfl
@[simp] theorem State.setDie_stageCtr (s : State) (d : Nat) (v : Die) : (s.setDie d v).stageCtr = s.stageCtr := rfl
@[simp] theorem State.setDie_freeCtr (s : State) (d : Nat) (v : Die) : (s.setDie d v).freeCtr = s.freeCtr := rfl
@[simp] theorem State.setDie_schedule (s : State) (d : Nat) (v : Die) : (s.setDie d v).schedule = s.schedule := rfl
@[simp] theorem State.setDie_focus (s : State) (d : Nat) (v : Die) : (s.setDie d v).focus = s.focus := rfl
@[simp] theorem State.core_setDie (s : State) (d : Nat) (v : Die) (j : Nat) : (s.setDie d v).core j = s.core j := rfl
@[simp] theorem State.vault_setDie (s : State) (d : Nat) (v : Die) (j : Nat) : (s.setDie d v).vault j = s.vault j := rfl
@[simp] theorem State.card_setDie (s : State) (d : Nat) (v : Die) (j : Nat) : (s.setDie d v).card j = s.card j := rfl
@[simp] theorem State.domain_setDie (s : State) (d : Nat) (v : Die) (j : Nat) : (s.setDie d v).domain j = s.domain j := rfl
@[simp] theorem State.frame_setDie (s : State) (d : Nat) (v : Die) (j : Nat) : (s.setDie d v).frame j = s.frame j := rfl
@[simp] theorem State.ctx_setDie (s : State) (d : Nat) (v : Die) (j i : Nat) : (s.setDie d v).ctx j i = s.ctx j i := rfl
@[simp] theorem State.unit_setDie (s : State) (d : Nat) (v : Die) (w : UnitId) : (s.setDie d v).unit w = s.unit w := rfl

/-! ### `setVault` writes `vaults` alone -/

@[simp] theorem State.setVault_cores (s : State) (n : Nat) (v : Vault) : (s.setVault n v).cores = s.cores := rfl
@[simp] theorem State.setVault_dies (s : State) (n : Nat) (v : Vault) : (s.setVault n v).dies = s.dies := rfl
@[simp] theorem State.setVault_units (s : State) (n : Nat) (v : Vault) : (s.setVault n v).units = s.units := rfl
@[simp] theorem State.setVault_chansvc (s : State) (n : Nat) (v : Vault) : (s.setVault n v).chansvc = s.chansvc := rfl
@[simp] theorem State.setVault_mem (s : State) (n : Nat) (v : Vault) : (s.setVault n v).mem = s.mem := rfl
@[simp] theorem State.setVault_poison (s : State) (n : Nat) (v : Vault) : (s.setVault n v).poison = s.poison := rfl
@[simp] theorem State.setVault_frames (s : State) (n : Nat) (v : Vault) : (s.setVault n v).frames = s.frames := rfl
@[simp] theorem State.setVault_pageReqs (s : State) (n : Nat) (v : Vault) : (s.setVault n v).pageReqs = s.pageReqs := rfl
@[simp] theorem State.setVault_moves (s : State) (n : Nat) (v : Vault) : (s.setVault n v).moves = s.moves := rfl
@[simp] theorem State.setVault_defaultTier (s : State) (n : Nat) (v : Vault) : (s.setVault n v).defaultTier = s.defaultTier := rfl
@[simp] theorem State.setVault_cards (s : State) (n : Nat) (v : Vault) : (s.setVault n v).cards = s.cards := rfl
@[simp] theorem State.setVault_seqCtr (s : State) (n : Nat) (v : Vault) : (s.setVault n v).seqCtr = s.seqCtr := rfl
@[simp] theorem State.setVault_groups (s : State) (n : Nat) (v : Vault) : (s.setVault n v).groups = s.groups := rfl
@[simp] theorem State.setVault_groupAsid (s : State) (n : Nat) (v : Vault) : (s.setVault n v).groupAsid = s.groupAsid := rfl
@[simp] theorem State.setVault_peers (s : State) (n : Nat) (v : Vault) : (s.setVault n v).peers = s.peers := rfl
@[simp] theorem State.setVault_collects (s : State) (n : Nat) (v : Vault) : (s.setVault n v).collects = s.collects := rfl
@[simp] theorem State.setVault_entries (s : State) (n : Nat) (v : Vault) : (s.setVault n v).entries = s.entries := rfl
@[simp] theorem State.setVault_applied (s : State) (n : Nat) (v : Vault) : (s.setVault n v).applied = s.applied := rfl
@[simp] theorem State.setVault_parkedChunks (s : State) (n : Nat) (v : Vault) : (s.setVault n v).parkedChunks = s.parkedChunks := rfl
@[simp] theorem State.setVault_inbox (s : State) (n : Nat) (v : Vault) : (s.setVault n v).inbox = s.inbox := rfl
@[simp] theorem State.setVault_outbox (s : State) (n : Nat) (v : Vault) : (s.setVault n v).outbox = s.outbox := rfl
@[simp] theorem State.setVault_recQueue (s : State) (n : Nat) (v : Vault) : (s.setVault n v).recQueue = s.recQueue := rfl
@[simp] theorem State.setVault_cardRecs (s : State) (n : Nat) (v : Vault) : (s.setVault n v).cardRecs = s.cardRecs := rfl
@[simp] theorem State.setVault_carveGB (s : State) (n : Nat) (v : Vault) : (s.setVault n v).carveGB = s.carveGB := rfl
@[simp] theorem State.setVault_siltin (s : State) (n : Nat) (v : Vault) : (s.setVault n v).siltin = s.siltin := rfl
@[simp] theorem State.setVault_why (s : State) (n : Nat) (v : Vault) : (s.setVault n v).why = s.why := rfl
@[simp] theorem State.setVault_featPub (s : State) (n : Nat) (v : Vault) : (s.setVault n v).featPub = s.featPub := rfl
@[simp] theorem State.setVault_featAcc (s : State) (n : Nat) (v : Vault) : (s.setVault n v).featAcc = s.featAcc := rfl
@[simp] theorem State.setVault_timebase (s : State) (n : Nat) (v : Vault) : (s.setVault n v).timebase = s.timebase := rfl
@[simp] theorem State.setVault_domains (s : State) (n : Nat) (v : Vault) : (s.setVault n v).domains = s.domains := rfl
@[simp] theorem State.setVault_pwrQueue (s : State) (n : Nat) (v : Vault) : (s.setVault n v).pwrQueue = s.pwrQueue := rfl
@[simp] theorem State.setVault_tillSeen (s : State) (n : Nat) (v : Vault) : (s.setVault n v).tillSeen = s.tillSeen := rfl
@[simp] theorem State.setVault_scrub (s : State) (n : Nat) (v : Vault) : (s.setVault n v).scrub = s.scrub := rfl
@[simp] theorem State.setVault_epoch (s : State) (n : Nat) (v : Vault) : (s.setVault n v).epoch = s.epoch := rfl
@[simp] theorem State.setVault_sampleDays (s : State) (n : Nat) (v : Vault) : (s.setVault n v).sampleDays = s.sampleDays := rfl
@[simp] theorem State.setVault_tripped (s : State) (n : Nat) (v : Vault) : (s.setVault n v).tripped = s.tripped := rfl
@[simp] theorem State.setVault_tripValid (s : State) (n : Nat) (v : Vault) : (s.setVault n v).tripValid = s.tripValid := rfl
@[simp] theorem State.setVault_tripLo (s : State) (n : Nat) (v : Vault) : (s.setVault n v).tripLo = s.tripLo := rfl
@[simp] theorem State.setVault_tripTime (s : State) (n : Nat) (v : Vault) : (s.setVault n v).tripTime = s.tripTime := rfl
@[simp] theorem State.setVault_irqs (s : State) (n : Nat) (v : Vault) : (s.setVault n v).irqs = s.irqs := rfl
@[simp] theorem State.setVault_hostMem (s : State) (n : Nat) (v : Vault) : (s.setVault n v).hostMem = s.hostMem := rfl
@[simp] theorem State.setVault_frameTab (s : State) (n : Nat) (v : Vault) : (s.setVault n v).frameTab = s.frameTab := rfl
@[simp] theorem State.setVault_yardTlb (s : State) (n : Nat) (v : Vault) : (s.setVault n v).yardTlb = s.yardTlb := rfl
@[simp] theorem State.setVault_countsSeen (s : State) (n : Nat) (v : Vault) : (s.setVault n v).countsSeen = s.countsSeen := rfl
@[simp] theorem State.setVault_scrubbed (s : State) (n : Nat) (v : Vault) : (s.setVault n v).scrubbed = s.scrubbed := rfl
@[simp] theorem State.setVault_hostRead (s : State) (n : Nat) (v : Vault) : (s.setVault n v).hostRead = s.hostRead := rfl
@[simp] theorem State.setVault_cycleTop (s : State) (n : Nat) (v : Vault) : (s.setVault n v).cycleTop = s.cycleTop := rfl
@[simp] theorem State.setVault_cycleTook (s : State) (n : Nat) (v : Vault) : (s.setVault n v).cycleTook = s.cycleTook := rfl
@[simp] theorem State.setVault_lateFrames (s : State) (n : Nat) (v : Vault) : (s.setVault n v).lateFrames = s.lateFrames := rfl
@[simp] theorem State.setVault_lateWrites (s : State) (n : Nat) (v : Vault) : (s.setVault n v).lateWrites = s.lateWrites := rfl
@[simp] theorem State.setVault_issueCtr (s : State) (n : Nat) (v : Vault) : (s.setVault n v).issueCtr = s.issueCtr := rfl
@[simp] theorem State.setVault_stageCtr (s : State) (n : Nat) (v : Vault) : (s.setVault n v).stageCtr = s.stageCtr := rfl
@[simp] theorem State.setVault_freeCtr (s : State) (n : Nat) (v : Vault) : (s.setVault n v).freeCtr = s.freeCtr := rfl
@[simp] theorem State.setVault_schedule (s : State) (n : Nat) (v : Vault) : (s.setVault n v).schedule = s.schedule := rfl
@[simp] theorem State.setVault_focus (s : State) (n : Nat) (v : Vault) : (s.setVault n v).focus = s.focus := rfl
@[simp] theorem State.core_setVault (s : State) (n : Nat) (v : Vault) (j : Nat) : (s.setVault n v).core j = s.core j := rfl
@[simp] theorem State.die_setVault (s : State) (n : Nat) (v : Vault) (j : Nat) : (s.setVault n v).die j = s.die j := rfl
@[simp] theorem State.card_setVault (s : State) (n : Nat) (v : Vault) (j : Nat) : (s.setVault n v).card j = s.card j := rfl
@[simp] theorem State.domain_setVault (s : State) (n : Nat) (v : Vault) (j : Nat) : (s.setVault n v).domain j = s.domain j := rfl
@[simp] theorem State.frame_setVault (s : State) (n : Nat) (v : Vault) (j : Nat) : (s.setVault n v).frame j = s.frame j := rfl
@[simp] theorem State.ctx_setVault (s : State) (n : Nat) (v : Vault) (j i : Nat) : (s.setVault n v).ctx j i = s.ctx j i := rfl
@[simp] theorem State.unit_setVault (s : State) (n : Nat) (v : Vault) (w : UnitId) : (s.setVault n v).unit w = s.unit w := rfl

/-! ### `setCard` writes `cards` alone -/

@[simp] theorem State.setCard_cores (s : State) (n : Nat) (v : Card) : (s.setCard n v).cores = s.cores := rfl
@[simp] theorem State.setCard_dies (s : State) (n : Nat) (v : Card) : (s.setCard n v).dies = s.dies := rfl
@[simp] theorem State.setCard_vaults (s : State) (n : Nat) (v : Card) : (s.setCard n v).vaults = s.vaults := rfl
@[simp] theorem State.setCard_units (s : State) (n : Nat) (v : Card) : (s.setCard n v).units = s.units := rfl
@[simp] theorem State.setCard_chansvc (s : State) (n : Nat) (v : Card) : (s.setCard n v).chansvc = s.chansvc := rfl
@[simp] theorem State.setCard_mem (s : State) (n : Nat) (v : Card) : (s.setCard n v).mem = s.mem := rfl
@[simp] theorem State.setCard_poison (s : State) (n : Nat) (v : Card) : (s.setCard n v).poison = s.poison := rfl
@[simp] theorem State.setCard_frames (s : State) (n : Nat) (v : Card) : (s.setCard n v).frames = s.frames := rfl
@[simp] theorem State.setCard_pageReqs (s : State) (n : Nat) (v : Card) : (s.setCard n v).pageReqs = s.pageReqs := rfl
@[simp] theorem State.setCard_moves (s : State) (n : Nat) (v : Card) : (s.setCard n v).moves = s.moves := rfl
@[simp] theorem State.setCard_defaultTier (s : State) (n : Nat) (v : Card) : (s.setCard n v).defaultTier = s.defaultTier := rfl
@[simp] theorem State.setCard_seqCtr (s : State) (n : Nat) (v : Card) : (s.setCard n v).seqCtr = s.seqCtr := rfl
@[simp] theorem State.setCard_groups (s : State) (n : Nat) (v : Card) : (s.setCard n v).groups = s.groups := rfl
@[simp] theorem State.setCard_groupAsid (s : State) (n : Nat) (v : Card) : (s.setCard n v).groupAsid = s.groupAsid := rfl
@[simp] theorem State.setCard_peers (s : State) (n : Nat) (v : Card) : (s.setCard n v).peers = s.peers := rfl
@[simp] theorem State.setCard_collects (s : State) (n : Nat) (v : Card) : (s.setCard n v).collects = s.collects := rfl
@[simp] theorem State.setCard_entries (s : State) (n : Nat) (v : Card) : (s.setCard n v).entries = s.entries := rfl
@[simp] theorem State.setCard_applied (s : State) (n : Nat) (v : Card) : (s.setCard n v).applied = s.applied := rfl
@[simp] theorem State.setCard_parkedChunks (s : State) (n : Nat) (v : Card) : (s.setCard n v).parkedChunks = s.parkedChunks := rfl
@[simp] theorem State.setCard_inbox (s : State) (n : Nat) (v : Card) : (s.setCard n v).inbox = s.inbox := rfl
@[simp] theorem State.setCard_outbox (s : State) (n : Nat) (v : Card) : (s.setCard n v).outbox = s.outbox := rfl
@[simp] theorem State.setCard_recQueue (s : State) (n : Nat) (v : Card) : (s.setCard n v).recQueue = s.recQueue := rfl
@[simp] theorem State.setCard_cardRecs (s : State) (n : Nat) (v : Card) : (s.setCard n v).cardRecs = s.cardRecs := rfl
@[simp] theorem State.setCard_carveGB (s : State) (n : Nat) (v : Card) : (s.setCard n v).carveGB = s.carveGB := rfl
@[simp] theorem State.setCard_siltin (s : State) (n : Nat) (v : Card) : (s.setCard n v).siltin = s.siltin := rfl
@[simp] theorem State.setCard_why (s : State) (n : Nat) (v : Card) : (s.setCard n v).why = s.why := rfl
@[simp] theorem State.setCard_featPub (s : State) (n : Nat) (v : Card) : (s.setCard n v).featPub = s.featPub := rfl
@[simp] theorem State.setCard_featAcc (s : State) (n : Nat) (v : Card) : (s.setCard n v).featAcc = s.featAcc := rfl
@[simp] theorem State.setCard_timebase (s : State) (n : Nat) (v : Card) : (s.setCard n v).timebase = s.timebase := rfl
@[simp] theorem State.setCard_domains (s : State) (n : Nat) (v : Card) : (s.setCard n v).domains = s.domains := rfl
@[simp] theorem State.setCard_pwrQueue (s : State) (n : Nat) (v : Card) : (s.setCard n v).pwrQueue = s.pwrQueue := rfl
@[simp] theorem State.setCard_tillSeen (s : State) (n : Nat) (v : Card) : (s.setCard n v).tillSeen = s.tillSeen := rfl
@[simp] theorem State.setCard_scrub (s : State) (n : Nat) (v : Card) : (s.setCard n v).scrub = s.scrub := rfl
@[simp] theorem State.setCard_epoch (s : State) (n : Nat) (v : Card) : (s.setCard n v).epoch = s.epoch := rfl
@[simp] theorem State.setCard_sampleDays (s : State) (n : Nat) (v : Card) : (s.setCard n v).sampleDays = s.sampleDays := rfl
@[simp] theorem State.setCard_tripped (s : State) (n : Nat) (v : Card) : (s.setCard n v).tripped = s.tripped := rfl
@[simp] theorem State.setCard_tripValid (s : State) (n : Nat) (v : Card) : (s.setCard n v).tripValid = s.tripValid := rfl
@[simp] theorem State.setCard_tripLo (s : State) (n : Nat) (v : Card) : (s.setCard n v).tripLo = s.tripLo := rfl
@[simp] theorem State.setCard_tripTime (s : State) (n : Nat) (v : Card) : (s.setCard n v).tripTime = s.tripTime := rfl
@[simp] theorem State.setCard_irqs (s : State) (n : Nat) (v : Card) : (s.setCard n v).irqs = s.irqs := rfl
@[simp] theorem State.setCard_hostMem (s : State) (n : Nat) (v : Card) : (s.setCard n v).hostMem = s.hostMem := rfl
@[simp] theorem State.setCard_frameTab (s : State) (n : Nat) (v : Card) : (s.setCard n v).frameTab = s.frameTab := rfl
@[simp] theorem State.setCard_yardTlb (s : State) (n : Nat) (v : Card) : (s.setCard n v).yardTlb = s.yardTlb := rfl
@[simp] theorem State.setCard_countsSeen (s : State) (n : Nat) (v : Card) : (s.setCard n v).countsSeen = s.countsSeen := rfl
@[simp] theorem State.setCard_scrubbed (s : State) (n : Nat) (v : Card) : (s.setCard n v).scrubbed = s.scrubbed := rfl
@[simp] theorem State.setCard_hostRead (s : State) (n : Nat) (v : Card) : (s.setCard n v).hostRead = s.hostRead := rfl
@[simp] theorem State.setCard_cycleTop (s : State) (n : Nat) (v : Card) : (s.setCard n v).cycleTop = s.cycleTop := rfl
@[simp] theorem State.setCard_cycleTook (s : State) (n : Nat) (v : Card) : (s.setCard n v).cycleTook = s.cycleTook := rfl
@[simp] theorem State.setCard_lateFrames (s : State) (n : Nat) (v : Card) : (s.setCard n v).lateFrames = s.lateFrames := rfl
@[simp] theorem State.setCard_lateWrites (s : State) (n : Nat) (v : Card) : (s.setCard n v).lateWrites = s.lateWrites := rfl
@[simp] theorem State.setCard_issueCtr (s : State) (n : Nat) (v : Card) : (s.setCard n v).issueCtr = s.issueCtr := rfl
@[simp] theorem State.setCard_stageCtr (s : State) (n : Nat) (v : Card) : (s.setCard n v).stageCtr = s.stageCtr := rfl
@[simp] theorem State.setCard_freeCtr (s : State) (n : Nat) (v : Card) : (s.setCard n v).freeCtr = s.freeCtr := rfl
@[simp] theorem State.setCard_schedule (s : State) (n : Nat) (v : Card) : (s.setCard n v).schedule = s.schedule := rfl
@[simp] theorem State.setCard_focus (s : State) (n : Nat) (v : Card) : (s.setCard n v).focus = s.focus := rfl
@[simp] theorem State.core_setCard (s : State) (n : Nat) (v : Card) (j : Nat) : (s.setCard n v).core j = s.core j := rfl
@[simp] theorem State.die_setCard (s : State) (n : Nat) (v : Card) (j : Nat) : (s.setCard n v).die j = s.die j := rfl
@[simp] theorem State.vault_setCard (s : State) (n : Nat) (v : Card) (j : Nat) : (s.setCard n v).vault j = s.vault j := rfl
@[simp] theorem State.domain_setCard (s : State) (n : Nat) (v : Card) (j : Nat) : (s.setCard n v).domain j = s.domain j := rfl
@[simp] theorem State.frame_setCard (s : State) (n : Nat) (v : Card) (j : Nat) : (s.setCard n v).frame j = s.frame j := rfl
@[simp] theorem State.ctx_setCard (s : State) (n : Nat) (v : Card) (j i : Nat) : (s.setCard n v).ctx j i = s.ctx j i := rfl
@[simp] theorem State.unit_setCard (s : State) (n : Nat) (v : Card) (w : UnitId) : (s.setCard n v).unit w = s.unit w := rfl

/-! ### `setDomain` writes `domains` alone -/

@[simp] theorem State.setDomain_cores (s : State) (n : Nat) (v : Domain) : (s.setDomain n v).cores = s.cores := rfl
@[simp] theorem State.setDomain_dies (s : State) (n : Nat) (v : Domain) : (s.setDomain n v).dies = s.dies := rfl
@[simp] theorem State.setDomain_vaults (s : State) (n : Nat) (v : Domain) : (s.setDomain n v).vaults = s.vaults := rfl
@[simp] theorem State.setDomain_units (s : State) (n : Nat) (v : Domain) : (s.setDomain n v).units = s.units := rfl
@[simp] theorem State.setDomain_chansvc (s : State) (n : Nat) (v : Domain) : (s.setDomain n v).chansvc = s.chansvc := rfl
@[simp] theorem State.setDomain_mem (s : State) (n : Nat) (v : Domain) : (s.setDomain n v).mem = s.mem := rfl
@[simp] theorem State.setDomain_poison (s : State) (n : Nat) (v : Domain) : (s.setDomain n v).poison = s.poison := rfl
@[simp] theorem State.setDomain_frames (s : State) (n : Nat) (v : Domain) : (s.setDomain n v).frames = s.frames := rfl
@[simp] theorem State.setDomain_pageReqs (s : State) (n : Nat) (v : Domain) : (s.setDomain n v).pageReqs = s.pageReqs := rfl
@[simp] theorem State.setDomain_moves (s : State) (n : Nat) (v : Domain) : (s.setDomain n v).moves = s.moves := rfl
@[simp] theorem State.setDomain_defaultTier (s : State) (n : Nat) (v : Domain) : (s.setDomain n v).defaultTier = s.defaultTier := rfl
@[simp] theorem State.setDomain_cards (s : State) (n : Nat) (v : Domain) : (s.setDomain n v).cards = s.cards := rfl
@[simp] theorem State.setDomain_seqCtr (s : State) (n : Nat) (v : Domain) : (s.setDomain n v).seqCtr = s.seqCtr := rfl
@[simp] theorem State.setDomain_groups (s : State) (n : Nat) (v : Domain) : (s.setDomain n v).groups = s.groups := rfl
@[simp] theorem State.setDomain_groupAsid (s : State) (n : Nat) (v : Domain) : (s.setDomain n v).groupAsid = s.groupAsid := rfl
@[simp] theorem State.setDomain_peers (s : State) (n : Nat) (v : Domain) : (s.setDomain n v).peers = s.peers := rfl
@[simp] theorem State.setDomain_collects (s : State) (n : Nat) (v : Domain) : (s.setDomain n v).collects = s.collects := rfl
@[simp] theorem State.setDomain_entries (s : State) (n : Nat) (v : Domain) : (s.setDomain n v).entries = s.entries := rfl
@[simp] theorem State.setDomain_applied (s : State) (n : Nat) (v : Domain) : (s.setDomain n v).applied = s.applied := rfl
@[simp] theorem State.setDomain_parkedChunks (s : State) (n : Nat) (v : Domain) : (s.setDomain n v).parkedChunks = s.parkedChunks := rfl
@[simp] theorem State.setDomain_inbox (s : State) (n : Nat) (v : Domain) : (s.setDomain n v).inbox = s.inbox := rfl
@[simp] theorem State.setDomain_outbox (s : State) (n : Nat) (v : Domain) : (s.setDomain n v).outbox = s.outbox := rfl
@[simp] theorem State.setDomain_recQueue (s : State) (n : Nat) (v : Domain) : (s.setDomain n v).recQueue = s.recQueue := rfl
@[simp] theorem State.setDomain_cardRecs (s : State) (n : Nat) (v : Domain) : (s.setDomain n v).cardRecs = s.cardRecs := rfl
@[simp] theorem State.setDomain_carveGB (s : State) (n : Nat) (v : Domain) : (s.setDomain n v).carveGB = s.carveGB := rfl
@[simp] theorem State.setDomain_siltin (s : State) (n : Nat) (v : Domain) : (s.setDomain n v).siltin = s.siltin := rfl
@[simp] theorem State.setDomain_why (s : State) (n : Nat) (v : Domain) : (s.setDomain n v).why = s.why := rfl
@[simp] theorem State.setDomain_featPub (s : State) (n : Nat) (v : Domain) : (s.setDomain n v).featPub = s.featPub := rfl
@[simp] theorem State.setDomain_featAcc (s : State) (n : Nat) (v : Domain) : (s.setDomain n v).featAcc = s.featAcc := rfl
@[simp] theorem State.setDomain_timebase (s : State) (n : Nat) (v : Domain) : (s.setDomain n v).timebase = s.timebase := rfl
@[simp] theorem State.setDomain_pwrQueue (s : State) (n : Nat) (v : Domain) : (s.setDomain n v).pwrQueue = s.pwrQueue := rfl
@[simp] theorem State.setDomain_tillSeen (s : State) (n : Nat) (v : Domain) : (s.setDomain n v).tillSeen = s.tillSeen := rfl
@[simp] theorem State.setDomain_scrub (s : State) (n : Nat) (v : Domain) : (s.setDomain n v).scrub = s.scrub := rfl
@[simp] theorem State.setDomain_epoch (s : State) (n : Nat) (v : Domain) : (s.setDomain n v).epoch = s.epoch := rfl
@[simp] theorem State.setDomain_sampleDays (s : State) (n : Nat) (v : Domain) : (s.setDomain n v).sampleDays = s.sampleDays := rfl
@[simp] theorem State.setDomain_tripped (s : State) (n : Nat) (v : Domain) : (s.setDomain n v).tripped = s.tripped := rfl
@[simp] theorem State.setDomain_tripValid (s : State) (n : Nat) (v : Domain) : (s.setDomain n v).tripValid = s.tripValid := rfl
@[simp] theorem State.setDomain_tripLo (s : State) (n : Nat) (v : Domain) : (s.setDomain n v).tripLo = s.tripLo := rfl
@[simp] theorem State.setDomain_tripTime (s : State) (n : Nat) (v : Domain) : (s.setDomain n v).tripTime = s.tripTime := rfl
@[simp] theorem State.setDomain_irqs (s : State) (n : Nat) (v : Domain) : (s.setDomain n v).irqs = s.irqs := rfl
@[simp] theorem State.setDomain_hostMem (s : State) (n : Nat) (v : Domain) : (s.setDomain n v).hostMem = s.hostMem := rfl
@[simp] theorem State.setDomain_frameTab (s : State) (n : Nat) (v : Domain) : (s.setDomain n v).frameTab = s.frameTab := rfl
@[simp] theorem State.setDomain_yardTlb (s : State) (n : Nat) (v : Domain) : (s.setDomain n v).yardTlb = s.yardTlb := rfl
@[simp] theorem State.setDomain_countsSeen (s : State) (n : Nat) (v : Domain) : (s.setDomain n v).countsSeen = s.countsSeen := rfl
@[simp] theorem State.setDomain_scrubbed (s : State) (n : Nat) (v : Domain) : (s.setDomain n v).scrubbed = s.scrubbed := rfl
@[simp] theorem State.setDomain_hostRead (s : State) (n : Nat) (v : Domain) : (s.setDomain n v).hostRead = s.hostRead := rfl
@[simp] theorem State.setDomain_cycleTop (s : State) (n : Nat) (v : Domain) : (s.setDomain n v).cycleTop = s.cycleTop := rfl
@[simp] theorem State.setDomain_cycleTook (s : State) (n : Nat) (v : Domain) : (s.setDomain n v).cycleTook = s.cycleTook := rfl
@[simp] theorem State.setDomain_lateFrames (s : State) (n : Nat) (v : Domain) : (s.setDomain n v).lateFrames = s.lateFrames := rfl
@[simp] theorem State.setDomain_lateWrites (s : State) (n : Nat) (v : Domain) : (s.setDomain n v).lateWrites = s.lateWrites := rfl
@[simp] theorem State.setDomain_issueCtr (s : State) (n : Nat) (v : Domain) : (s.setDomain n v).issueCtr = s.issueCtr := rfl
@[simp] theorem State.setDomain_stageCtr (s : State) (n : Nat) (v : Domain) : (s.setDomain n v).stageCtr = s.stageCtr := rfl
@[simp] theorem State.setDomain_freeCtr (s : State) (n : Nat) (v : Domain) : (s.setDomain n v).freeCtr = s.freeCtr := rfl
@[simp] theorem State.setDomain_schedule (s : State) (n : Nat) (v : Domain) : (s.setDomain n v).schedule = s.schedule := rfl
@[simp] theorem State.setDomain_focus (s : State) (n : Nat) (v : Domain) : (s.setDomain n v).focus = s.focus := rfl
@[simp] theorem State.core_setDomain (s : State) (n : Nat) (v : Domain) (j : Nat) : (s.setDomain n v).core j = s.core j := rfl
@[simp] theorem State.die_setDomain (s : State) (n : Nat) (v : Domain) (j : Nat) : (s.setDomain n v).die j = s.die j := rfl
@[simp] theorem State.vault_setDomain (s : State) (n : Nat) (v : Domain) (j : Nat) : (s.setDomain n v).vault j = s.vault j := rfl
@[simp] theorem State.card_setDomain (s : State) (n : Nat) (v : Domain) (j : Nat) : (s.setDomain n v).card j = s.card j := rfl
@[simp] theorem State.frame_setDomain (s : State) (n : Nat) (v : Domain) (j : Nat) : (s.setDomain n v).frame j = s.frame j := rfl
@[simp] theorem State.ctx_setDomain (s : State) (n : Nat) (v : Domain) (j i : Nat) : (s.setDomain n v).ctx j i = s.ctx j i := rfl
@[simp] theorem State.unit_setDomain (s : State) (n : Nat) (v : Domain) (w : UnitId) : (s.setDomain n v).unit w = s.unit w := rfl

/-! ### `setUnit` writes `units` alone -/

@[simp] theorem State.setUnit_cores (s : State) (u : UnitId) (v : RowUnit) : (s.setUnit u v).cores = s.cores := rfl
@[simp] theorem State.setUnit_dies (s : State) (u : UnitId) (v : RowUnit) : (s.setUnit u v).dies = s.dies := rfl
@[simp] theorem State.setUnit_vaults (s : State) (u : UnitId) (v : RowUnit) : (s.setUnit u v).vaults = s.vaults := rfl
@[simp] theorem State.setUnit_chansvc (s : State) (u : UnitId) (v : RowUnit) : (s.setUnit u v).chansvc = s.chansvc := rfl
@[simp] theorem State.setUnit_mem (s : State) (u : UnitId) (v : RowUnit) : (s.setUnit u v).mem = s.mem := rfl
@[simp] theorem State.setUnit_poison (s : State) (u : UnitId) (v : RowUnit) : (s.setUnit u v).poison = s.poison := rfl
@[simp] theorem State.setUnit_frames (s : State) (u : UnitId) (v : RowUnit) : (s.setUnit u v).frames = s.frames := rfl
@[simp] theorem State.setUnit_pageReqs (s : State) (u : UnitId) (v : RowUnit) : (s.setUnit u v).pageReqs = s.pageReqs := rfl
@[simp] theorem State.setUnit_moves (s : State) (u : UnitId) (v : RowUnit) : (s.setUnit u v).moves = s.moves := rfl
@[simp] theorem State.setUnit_defaultTier (s : State) (u : UnitId) (v : RowUnit) : (s.setUnit u v).defaultTier = s.defaultTier := rfl
@[simp] theorem State.setUnit_cards (s : State) (u : UnitId) (v : RowUnit) : (s.setUnit u v).cards = s.cards := rfl
@[simp] theorem State.setUnit_seqCtr (s : State) (u : UnitId) (v : RowUnit) : (s.setUnit u v).seqCtr = s.seqCtr := rfl
@[simp] theorem State.setUnit_groups (s : State) (u : UnitId) (v : RowUnit) : (s.setUnit u v).groups = s.groups := rfl
@[simp] theorem State.setUnit_groupAsid (s : State) (u : UnitId) (v : RowUnit) : (s.setUnit u v).groupAsid = s.groupAsid := rfl
@[simp] theorem State.setUnit_peers (s : State) (u : UnitId) (v : RowUnit) : (s.setUnit u v).peers = s.peers := rfl
@[simp] theorem State.setUnit_collects (s : State) (u : UnitId) (v : RowUnit) : (s.setUnit u v).collects = s.collects := rfl
@[simp] theorem State.setUnit_entries (s : State) (u : UnitId) (v : RowUnit) : (s.setUnit u v).entries = s.entries := rfl
@[simp] theorem State.setUnit_applied (s : State) (u : UnitId) (v : RowUnit) : (s.setUnit u v).applied = s.applied := rfl
@[simp] theorem State.setUnit_parkedChunks (s : State) (u : UnitId) (v : RowUnit) : (s.setUnit u v).parkedChunks = s.parkedChunks := rfl
@[simp] theorem State.setUnit_inbox (s : State) (u : UnitId) (v : RowUnit) : (s.setUnit u v).inbox = s.inbox := rfl
@[simp] theorem State.setUnit_outbox (s : State) (u : UnitId) (v : RowUnit) : (s.setUnit u v).outbox = s.outbox := rfl
@[simp] theorem State.setUnit_recQueue (s : State) (u : UnitId) (v : RowUnit) : (s.setUnit u v).recQueue = s.recQueue := rfl
@[simp] theorem State.setUnit_cardRecs (s : State) (u : UnitId) (v : RowUnit) : (s.setUnit u v).cardRecs = s.cardRecs := rfl
@[simp] theorem State.setUnit_carveGB (s : State) (u : UnitId) (v : RowUnit) : (s.setUnit u v).carveGB = s.carveGB := rfl
@[simp] theorem State.setUnit_siltin (s : State) (u : UnitId) (v : RowUnit) : (s.setUnit u v).siltin = s.siltin := rfl
@[simp] theorem State.setUnit_why (s : State) (u : UnitId) (v : RowUnit) : (s.setUnit u v).why = s.why := rfl
@[simp] theorem State.setUnit_featPub (s : State) (u : UnitId) (v : RowUnit) : (s.setUnit u v).featPub = s.featPub := rfl
@[simp] theorem State.setUnit_featAcc (s : State) (u : UnitId) (v : RowUnit) : (s.setUnit u v).featAcc = s.featAcc := rfl
@[simp] theorem State.setUnit_timebase (s : State) (u : UnitId) (v : RowUnit) : (s.setUnit u v).timebase = s.timebase := rfl
@[simp] theorem State.setUnit_domains (s : State) (u : UnitId) (v : RowUnit) : (s.setUnit u v).domains = s.domains := rfl
@[simp] theorem State.setUnit_pwrQueue (s : State) (u : UnitId) (v : RowUnit) : (s.setUnit u v).pwrQueue = s.pwrQueue := rfl
@[simp] theorem State.setUnit_tillSeen (s : State) (u : UnitId) (v : RowUnit) : (s.setUnit u v).tillSeen = s.tillSeen := rfl
@[simp] theorem State.setUnit_scrub (s : State) (u : UnitId) (v : RowUnit) : (s.setUnit u v).scrub = s.scrub := rfl
@[simp] theorem State.setUnit_epoch (s : State) (u : UnitId) (v : RowUnit) : (s.setUnit u v).epoch = s.epoch := rfl
@[simp] theorem State.setUnit_sampleDays (s : State) (u : UnitId) (v : RowUnit) : (s.setUnit u v).sampleDays = s.sampleDays := rfl
@[simp] theorem State.setUnit_tripped (s : State) (u : UnitId) (v : RowUnit) : (s.setUnit u v).tripped = s.tripped := rfl
@[simp] theorem State.setUnit_tripValid (s : State) (u : UnitId) (v : RowUnit) : (s.setUnit u v).tripValid = s.tripValid := rfl
@[simp] theorem State.setUnit_tripLo (s : State) (u : UnitId) (v : RowUnit) : (s.setUnit u v).tripLo = s.tripLo := rfl
@[simp] theorem State.setUnit_tripTime (s : State) (u : UnitId) (v : RowUnit) : (s.setUnit u v).tripTime = s.tripTime := rfl
@[simp] theorem State.setUnit_irqs (s : State) (u : UnitId) (v : RowUnit) : (s.setUnit u v).irqs = s.irqs := rfl
@[simp] theorem State.setUnit_hostMem (s : State) (u : UnitId) (v : RowUnit) : (s.setUnit u v).hostMem = s.hostMem := rfl
@[simp] theorem State.setUnit_frameTab (s : State) (u : UnitId) (v : RowUnit) : (s.setUnit u v).frameTab = s.frameTab := rfl
@[simp] theorem State.setUnit_yardTlb (s : State) (u : UnitId) (v : RowUnit) : (s.setUnit u v).yardTlb = s.yardTlb := rfl
@[simp] theorem State.setUnit_countsSeen (s : State) (u : UnitId) (v : RowUnit) : (s.setUnit u v).countsSeen = s.countsSeen := rfl
@[simp] theorem State.setUnit_scrubbed (s : State) (u : UnitId) (v : RowUnit) : (s.setUnit u v).scrubbed = s.scrubbed := rfl
@[simp] theorem State.setUnit_hostRead (s : State) (u : UnitId) (v : RowUnit) : (s.setUnit u v).hostRead = s.hostRead := rfl
@[simp] theorem State.setUnit_cycleTop (s : State) (u : UnitId) (v : RowUnit) : (s.setUnit u v).cycleTop = s.cycleTop := rfl
@[simp] theorem State.setUnit_cycleTook (s : State) (u : UnitId) (v : RowUnit) : (s.setUnit u v).cycleTook = s.cycleTook := rfl
@[simp] theorem State.setUnit_lateFrames (s : State) (u : UnitId) (v : RowUnit) : (s.setUnit u v).lateFrames = s.lateFrames := rfl
@[simp] theorem State.setUnit_lateWrites (s : State) (u : UnitId) (v : RowUnit) : (s.setUnit u v).lateWrites = s.lateWrites := rfl
@[simp] theorem State.setUnit_issueCtr (s : State) (u : UnitId) (v : RowUnit) : (s.setUnit u v).issueCtr = s.issueCtr := rfl
@[simp] theorem State.setUnit_stageCtr (s : State) (u : UnitId) (v : RowUnit) : (s.setUnit u v).stageCtr = s.stageCtr := rfl
@[simp] theorem State.setUnit_freeCtr (s : State) (u : UnitId) (v : RowUnit) : (s.setUnit u v).freeCtr = s.freeCtr := rfl
@[simp] theorem State.setUnit_schedule (s : State) (u : UnitId) (v : RowUnit) : (s.setUnit u v).schedule = s.schedule := rfl
@[simp] theorem State.setUnit_focus (s : State) (u : UnitId) (v : RowUnit) : (s.setUnit u v).focus = s.focus := rfl
@[simp] theorem State.core_setUnit (s : State) (u : UnitId) (v : RowUnit) (j : Nat) : (s.setUnit u v).core j = s.core j := rfl
@[simp] theorem State.die_setUnit (s : State) (u : UnitId) (v : RowUnit) (j : Nat) : (s.setUnit u v).die j = s.die j := rfl
@[simp] theorem State.vault_setUnit (s : State) (u : UnitId) (v : RowUnit) (j : Nat) : (s.setUnit u v).vault j = s.vault j := rfl
@[simp] theorem State.card_setUnit (s : State) (u : UnitId) (v : RowUnit) (j : Nat) : (s.setUnit u v).card j = s.card j := rfl
@[simp] theorem State.domain_setUnit (s : State) (u : UnitId) (v : RowUnit) (j : Nat) : (s.setUnit u v).domain j = s.domain j := rfl
@[simp] theorem State.frame_setUnit (s : State) (u : UnitId) (v : RowUnit) (j : Nat) : (s.setUnit u v).frame j = s.frame j := rfl
@[simp] theorem State.ctx_setUnit (s : State) (u : UnitId) (v : RowUnit) (j i : Nat) : (s.setUnit u v).ctx j i = s.ctx j i := rfl

/-! ### `setFrame` writes `frames` alone -/

@[simp] theorem State.setFrame_cores (s : State) (n : Nat) (v : Frame) : (s.setFrame n v).cores = s.cores := rfl
@[simp] theorem State.setFrame_dies (s : State) (n : Nat) (v : Frame) : (s.setFrame n v).dies = s.dies := rfl
@[simp] theorem State.setFrame_vaults (s : State) (n : Nat) (v : Frame) : (s.setFrame n v).vaults = s.vaults := rfl
@[simp] theorem State.setFrame_units (s : State) (n : Nat) (v : Frame) : (s.setFrame n v).units = s.units := rfl
@[simp] theorem State.setFrame_chansvc (s : State) (n : Nat) (v : Frame) : (s.setFrame n v).chansvc = s.chansvc := rfl
@[simp] theorem State.setFrame_mem (s : State) (n : Nat) (v : Frame) : (s.setFrame n v).mem = s.mem := rfl
@[simp] theorem State.setFrame_poison (s : State) (n : Nat) (v : Frame) : (s.setFrame n v).poison = s.poison := rfl
@[simp] theorem State.setFrame_pageReqs (s : State) (n : Nat) (v : Frame) : (s.setFrame n v).pageReqs = s.pageReqs := rfl
@[simp] theorem State.setFrame_moves (s : State) (n : Nat) (v : Frame) : (s.setFrame n v).moves = s.moves := rfl
@[simp] theorem State.setFrame_defaultTier (s : State) (n : Nat) (v : Frame) : (s.setFrame n v).defaultTier = s.defaultTier := rfl
@[simp] theorem State.setFrame_cards (s : State) (n : Nat) (v : Frame) : (s.setFrame n v).cards = s.cards := rfl
@[simp] theorem State.setFrame_seqCtr (s : State) (n : Nat) (v : Frame) : (s.setFrame n v).seqCtr = s.seqCtr := rfl
@[simp] theorem State.setFrame_groups (s : State) (n : Nat) (v : Frame) : (s.setFrame n v).groups = s.groups := rfl
@[simp] theorem State.setFrame_groupAsid (s : State) (n : Nat) (v : Frame) : (s.setFrame n v).groupAsid = s.groupAsid := rfl
@[simp] theorem State.setFrame_peers (s : State) (n : Nat) (v : Frame) : (s.setFrame n v).peers = s.peers := rfl
@[simp] theorem State.setFrame_collects (s : State) (n : Nat) (v : Frame) : (s.setFrame n v).collects = s.collects := rfl
@[simp] theorem State.setFrame_entries (s : State) (n : Nat) (v : Frame) : (s.setFrame n v).entries = s.entries := rfl
@[simp] theorem State.setFrame_applied (s : State) (n : Nat) (v : Frame) : (s.setFrame n v).applied = s.applied := rfl
@[simp] theorem State.setFrame_parkedChunks (s : State) (n : Nat) (v : Frame) : (s.setFrame n v).parkedChunks = s.parkedChunks := rfl
@[simp] theorem State.setFrame_inbox (s : State) (n : Nat) (v : Frame) : (s.setFrame n v).inbox = s.inbox := rfl
@[simp] theorem State.setFrame_outbox (s : State) (n : Nat) (v : Frame) : (s.setFrame n v).outbox = s.outbox := rfl
@[simp] theorem State.setFrame_recQueue (s : State) (n : Nat) (v : Frame) : (s.setFrame n v).recQueue = s.recQueue := rfl
@[simp] theorem State.setFrame_cardRecs (s : State) (n : Nat) (v : Frame) : (s.setFrame n v).cardRecs = s.cardRecs := rfl
@[simp] theorem State.setFrame_carveGB (s : State) (n : Nat) (v : Frame) : (s.setFrame n v).carveGB = s.carveGB := rfl
@[simp] theorem State.setFrame_siltin (s : State) (n : Nat) (v : Frame) : (s.setFrame n v).siltin = s.siltin := rfl
@[simp] theorem State.setFrame_why (s : State) (n : Nat) (v : Frame) : (s.setFrame n v).why = s.why := rfl
@[simp] theorem State.setFrame_featPub (s : State) (n : Nat) (v : Frame) : (s.setFrame n v).featPub = s.featPub := rfl
@[simp] theorem State.setFrame_featAcc (s : State) (n : Nat) (v : Frame) : (s.setFrame n v).featAcc = s.featAcc := rfl
@[simp] theorem State.setFrame_timebase (s : State) (n : Nat) (v : Frame) : (s.setFrame n v).timebase = s.timebase := rfl
@[simp] theorem State.setFrame_domains (s : State) (n : Nat) (v : Frame) : (s.setFrame n v).domains = s.domains := rfl
@[simp] theorem State.setFrame_pwrQueue (s : State) (n : Nat) (v : Frame) : (s.setFrame n v).pwrQueue = s.pwrQueue := rfl
@[simp] theorem State.setFrame_tillSeen (s : State) (n : Nat) (v : Frame) : (s.setFrame n v).tillSeen = s.tillSeen := rfl
@[simp] theorem State.setFrame_scrub (s : State) (n : Nat) (v : Frame) : (s.setFrame n v).scrub = s.scrub := rfl
@[simp] theorem State.setFrame_epoch (s : State) (n : Nat) (v : Frame) : (s.setFrame n v).epoch = s.epoch := rfl
@[simp] theorem State.setFrame_sampleDays (s : State) (n : Nat) (v : Frame) : (s.setFrame n v).sampleDays = s.sampleDays := rfl
@[simp] theorem State.setFrame_tripped (s : State) (n : Nat) (v : Frame) : (s.setFrame n v).tripped = s.tripped := rfl
@[simp] theorem State.setFrame_tripValid (s : State) (n : Nat) (v : Frame) : (s.setFrame n v).tripValid = s.tripValid := rfl
@[simp] theorem State.setFrame_tripLo (s : State) (n : Nat) (v : Frame) : (s.setFrame n v).tripLo = s.tripLo := rfl
@[simp] theorem State.setFrame_tripTime (s : State) (n : Nat) (v : Frame) : (s.setFrame n v).tripTime = s.tripTime := rfl
@[simp] theorem State.setFrame_irqs (s : State) (n : Nat) (v : Frame) : (s.setFrame n v).irqs = s.irqs := rfl
@[simp] theorem State.setFrame_hostMem (s : State) (n : Nat) (v : Frame) : (s.setFrame n v).hostMem = s.hostMem := rfl
@[simp] theorem State.setFrame_frameTab (s : State) (n : Nat) (v : Frame) : (s.setFrame n v).frameTab = s.frameTab := rfl
@[simp] theorem State.setFrame_yardTlb (s : State) (n : Nat) (v : Frame) : (s.setFrame n v).yardTlb = s.yardTlb := rfl
@[simp] theorem State.setFrame_countsSeen (s : State) (n : Nat) (v : Frame) : (s.setFrame n v).countsSeen = s.countsSeen := rfl
@[simp] theorem State.setFrame_scrubbed (s : State) (n : Nat) (v : Frame) : (s.setFrame n v).scrubbed = s.scrubbed := rfl
@[simp] theorem State.setFrame_hostRead (s : State) (n : Nat) (v : Frame) : (s.setFrame n v).hostRead = s.hostRead := rfl
@[simp] theorem State.setFrame_cycleTop (s : State) (n : Nat) (v : Frame) : (s.setFrame n v).cycleTop = s.cycleTop := rfl
@[simp] theorem State.setFrame_cycleTook (s : State) (n : Nat) (v : Frame) : (s.setFrame n v).cycleTook = s.cycleTook := rfl
@[simp] theorem State.setFrame_lateFrames (s : State) (n : Nat) (v : Frame) : (s.setFrame n v).lateFrames = s.lateFrames := rfl
@[simp] theorem State.setFrame_lateWrites (s : State) (n : Nat) (v : Frame) : (s.setFrame n v).lateWrites = s.lateWrites := rfl
@[simp] theorem State.setFrame_issueCtr (s : State) (n : Nat) (v : Frame) : (s.setFrame n v).issueCtr = s.issueCtr := rfl
@[simp] theorem State.setFrame_stageCtr (s : State) (n : Nat) (v : Frame) : (s.setFrame n v).stageCtr = s.stageCtr := rfl
@[simp] theorem State.setFrame_freeCtr (s : State) (n : Nat) (v : Frame) : (s.setFrame n v).freeCtr = s.freeCtr := rfl
@[simp] theorem State.setFrame_schedule (s : State) (n : Nat) (v : Frame) : (s.setFrame n v).schedule = s.schedule := rfl
@[simp] theorem State.setFrame_focus (s : State) (n : Nat) (v : Frame) : (s.setFrame n v).focus = s.focus := rfl
@[simp] theorem State.core_setFrame (s : State) (n : Nat) (v : Frame) (j : Nat) : (s.setFrame n v).core j = s.core j := rfl
@[simp] theorem State.die_setFrame (s : State) (n : Nat) (v : Frame) (j : Nat) : (s.setFrame n v).die j = s.die j := rfl
@[simp] theorem State.vault_setFrame (s : State) (n : Nat) (v : Frame) (j : Nat) : (s.setFrame n v).vault j = s.vault j := rfl
@[simp] theorem State.card_setFrame (s : State) (n : Nat) (v : Frame) (j : Nat) : (s.setFrame n v).card j = s.card j := rfl
@[simp] theorem State.domain_setFrame (s : State) (n : Nat) (v : Frame) (j : Nat) : (s.setFrame n v).domain j = s.domain j := rfl
@[simp] theorem State.ctx_setFrame (s : State) (n : Nat) (v : Frame) (j i : Nat) : (s.setFrame n v).ctx j i = s.ctx j i := rfl
@[simp] theorem State.unit_setFrame (s : State) (n : Nat) (v : Frame) (w : UnitId) : (s.setFrame n v).unit w = s.unit w := rfl

/-! ### `setCtx` writes `cores` alone -/

@[simp] theorem State.setCtx_dies (s : State) (k c : Nat) (v : Ctx) : (s.setCtx k c v).dies = s.dies := rfl
@[simp] theorem State.setCtx_vaults (s : State) (k c : Nat) (v : Ctx) : (s.setCtx k c v).vaults = s.vaults := rfl
@[simp] theorem State.setCtx_units (s : State) (k c : Nat) (v : Ctx) : (s.setCtx k c v).units = s.units := rfl
@[simp] theorem State.setCtx_chansvc (s : State) (k c : Nat) (v : Ctx) : (s.setCtx k c v).chansvc = s.chansvc := rfl
@[simp] theorem State.setCtx_mem (s : State) (k c : Nat) (v : Ctx) : (s.setCtx k c v).mem = s.mem := rfl
@[simp] theorem State.setCtx_poison (s : State) (k c : Nat) (v : Ctx) : (s.setCtx k c v).poison = s.poison := rfl
@[simp] theorem State.setCtx_frames (s : State) (k c : Nat) (v : Ctx) : (s.setCtx k c v).frames = s.frames := rfl
@[simp] theorem State.setCtx_pageReqs (s : State) (k c : Nat) (v : Ctx) : (s.setCtx k c v).pageReqs = s.pageReqs := rfl
@[simp] theorem State.setCtx_moves (s : State) (k c : Nat) (v : Ctx) : (s.setCtx k c v).moves = s.moves := rfl
@[simp] theorem State.setCtx_defaultTier (s : State) (k c : Nat) (v : Ctx) : (s.setCtx k c v).defaultTier = s.defaultTier := rfl
@[simp] theorem State.setCtx_cards (s : State) (k c : Nat) (v : Ctx) : (s.setCtx k c v).cards = s.cards := rfl
@[simp] theorem State.setCtx_seqCtr (s : State) (k c : Nat) (v : Ctx) : (s.setCtx k c v).seqCtr = s.seqCtr := rfl
@[simp] theorem State.setCtx_groups (s : State) (k c : Nat) (v : Ctx) : (s.setCtx k c v).groups = s.groups := rfl
@[simp] theorem State.setCtx_groupAsid (s : State) (k c : Nat) (v : Ctx) : (s.setCtx k c v).groupAsid = s.groupAsid := rfl
@[simp] theorem State.setCtx_peers (s : State) (k c : Nat) (v : Ctx) : (s.setCtx k c v).peers = s.peers := rfl
@[simp] theorem State.setCtx_collects (s : State) (k c : Nat) (v : Ctx) : (s.setCtx k c v).collects = s.collects := rfl
@[simp] theorem State.setCtx_entries (s : State) (k c : Nat) (v : Ctx) : (s.setCtx k c v).entries = s.entries := rfl
@[simp] theorem State.setCtx_applied (s : State) (k c : Nat) (v : Ctx) : (s.setCtx k c v).applied = s.applied := rfl
@[simp] theorem State.setCtx_parkedChunks (s : State) (k c : Nat) (v : Ctx) : (s.setCtx k c v).parkedChunks = s.parkedChunks := rfl
@[simp] theorem State.setCtx_inbox (s : State) (k c : Nat) (v : Ctx) : (s.setCtx k c v).inbox = s.inbox := rfl
@[simp] theorem State.setCtx_outbox (s : State) (k c : Nat) (v : Ctx) : (s.setCtx k c v).outbox = s.outbox := rfl
@[simp] theorem State.setCtx_recQueue (s : State) (k c : Nat) (v : Ctx) : (s.setCtx k c v).recQueue = s.recQueue := rfl
@[simp] theorem State.setCtx_cardRecs (s : State) (k c : Nat) (v : Ctx) : (s.setCtx k c v).cardRecs = s.cardRecs := rfl
@[simp] theorem State.setCtx_carveGB (s : State) (k c : Nat) (v : Ctx) : (s.setCtx k c v).carveGB = s.carveGB := rfl
@[simp] theorem State.setCtx_siltin (s : State) (k c : Nat) (v : Ctx) : (s.setCtx k c v).siltin = s.siltin := rfl
@[simp] theorem State.setCtx_why (s : State) (k c : Nat) (v : Ctx) : (s.setCtx k c v).why = s.why := rfl
@[simp] theorem State.setCtx_featPub (s : State) (k c : Nat) (v : Ctx) : (s.setCtx k c v).featPub = s.featPub := rfl
@[simp] theorem State.setCtx_featAcc (s : State) (k c : Nat) (v : Ctx) : (s.setCtx k c v).featAcc = s.featAcc := rfl
@[simp] theorem State.setCtx_timebase (s : State) (k c : Nat) (v : Ctx) : (s.setCtx k c v).timebase = s.timebase := rfl
@[simp] theorem State.setCtx_domains (s : State) (k c : Nat) (v : Ctx) : (s.setCtx k c v).domains = s.domains := rfl
@[simp] theorem State.setCtx_pwrQueue (s : State) (k c : Nat) (v : Ctx) : (s.setCtx k c v).pwrQueue = s.pwrQueue := rfl
@[simp] theorem State.setCtx_tillSeen (s : State) (k c : Nat) (v : Ctx) : (s.setCtx k c v).tillSeen = s.tillSeen := rfl
@[simp] theorem State.setCtx_scrub (s : State) (k c : Nat) (v : Ctx) : (s.setCtx k c v).scrub = s.scrub := rfl
@[simp] theorem State.setCtx_epoch (s : State) (k c : Nat) (v : Ctx) : (s.setCtx k c v).epoch = s.epoch := rfl
@[simp] theorem State.setCtx_sampleDays (s : State) (k c : Nat) (v : Ctx) : (s.setCtx k c v).sampleDays = s.sampleDays := rfl
@[simp] theorem State.setCtx_tripped (s : State) (k c : Nat) (v : Ctx) : (s.setCtx k c v).tripped = s.tripped := rfl
@[simp] theorem State.setCtx_tripValid (s : State) (k c : Nat) (v : Ctx) : (s.setCtx k c v).tripValid = s.tripValid := rfl
@[simp] theorem State.setCtx_tripLo (s : State) (k c : Nat) (v : Ctx) : (s.setCtx k c v).tripLo = s.tripLo := rfl
@[simp] theorem State.setCtx_tripTime (s : State) (k c : Nat) (v : Ctx) : (s.setCtx k c v).tripTime = s.tripTime := rfl
@[simp] theorem State.setCtx_irqs (s : State) (k c : Nat) (v : Ctx) : (s.setCtx k c v).irqs = s.irqs := rfl
@[simp] theorem State.setCtx_hostMem (s : State) (k c : Nat) (v : Ctx) : (s.setCtx k c v).hostMem = s.hostMem := rfl
@[simp] theorem State.setCtx_frameTab (s : State) (k c : Nat) (v : Ctx) : (s.setCtx k c v).frameTab = s.frameTab := rfl
@[simp] theorem State.setCtx_yardTlb (s : State) (k c : Nat) (v : Ctx) : (s.setCtx k c v).yardTlb = s.yardTlb := rfl
@[simp] theorem State.setCtx_countsSeen (s : State) (k c : Nat) (v : Ctx) : (s.setCtx k c v).countsSeen = s.countsSeen := rfl
@[simp] theorem State.setCtx_scrubbed (s : State) (k c : Nat) (v : Ctx) : (s.setCtx k c v).scrubbed = s.scrubbed := rfl
@[simp] theorem State.setCtx_hostRead (s : State) (k c : Nat) (v : Ctx) : (s.setCtx k c v).hostRead = s.hostRead := rfl
@[simp] theorem State.setCtx_cycleTop (s : State) (k c : Nat) (v : Ctx) : (s.setCtx k c v).cycleTop = s.cycleTop := rfl
@[simp] theorem State.setCtx_cycleTook (s : State) (k c : Nat) (v : Ctx) : (s.setCtx k c v).cycleTook = s.cycleTook := rfl
@[simp] theorem State.setCtx_lateFrames (s : State) (k c : Nat) (v : Ctx) : (s.setCtx k c v).lateFrames = s.lateFrames := rfl
@[simp] theorem State.setCtx_lateWrites (s : State) (k c : Nat) (v : Ctx) : (s.setCtx k c v).lateWrites = s.lateWrites := rfl
@[simp] theorem State.setCtx_issueCtr (s : State) (k c : Nat) (v : Ctx) : (s.setCtx k c v).issueCtr = s.issueCtr := rfl
@[simp] theorem State.setCtx_stageCtr (s : State) (k c : Nat) (v : Ctx) : (s.setCtx k c v).stageCtr = s.stageCtr := rfl
@[simp] theorem State.setCtx_freeCtr (s : State) (k c : Nat) (v : Ctx) : (s.setCtx k c v).freeCtr = s.freeCtr := rfl
@[simp] theorem State.setCtx_schedule (s : State) (k c : Nat) (v : Ctx) : (s.setCtx k c v).schedule = s.schedule := rfl
@[simp] theorem State.setCtx_focus (s : State) (k c : Nat) (v : Ctx) : (s.setCtx k c v).focus = s.focus := rfl
@[simp] theorem State.die_setCtx (s : State) (k c : Nat) (v : Ctx) (j : Nat) : (s.setCtx k c v).die j = s.die j := rfl
@[simp] theorem State.vault_setCtx (s : State) (k c : Nat) (v : Ctx) (j : Nat) : (s.setCtx k c v).vault j = s.vault j := rfl
@[simp] theorem State.card_setCtx (s : State) (k c : Nat) (v : Ctx) (j : Nat) : (s.setCtx k c v).card j = s.card j := rfl
@[simp] theorem State.domain_setCtx (s : State) (k c : Nat) (v : Ctx) (j : Nat) : (s.setCtx k c v).domain j = s.domain j := rfl
@[simp] theorem State.frame_setCtx (s : State) (k c : Nat) (v : Ctx) (j : Nat) : (s.setCtx k c v).frame j = s.frame j := rfl
@[simp] theorem State.unit_setCtx (s : State) (k c : Nat) (v : Ctx) (w : UnitId) : (s.setCtx k c v).unit w = s.unit w := rfl

/-! ### `modCore` writes `cores` alone -/

@[simp] theorem State.modCore_dies (s : State) (k : Nat) (f : Core → Core) : (s.modCore k f).dies = s.dies := rfl
@[simp] theorem State.modCore_vaults (s : State) (k : Nat) (f : Core → Core) : (s.modCore k f).vaults = s.vaults := rfl
@[simp] theorem State.modCore_units (s : State) (k : Nat) (f : Core → Core) : (s.modCore k f).units = s.units := rfl
@[simp] theorem State.modCore_chansvc (s : State) (k : Nat) (f : Core → Core) : (s.modCore k f).chansvc = s.chansvc := rfl
@[simp] theorem State.modCore_mem (s : State) (k : Nat) (f : Core → Core) : (s.modCore k f).mem = s.mem := rfl
@[simp] theorem State.modCore_poison (s : State) (k : Nat) (f : Core → Core) : (s.modCore k f).poison = s.poison := rfl
@[simp] theorem State.modCore_frames (s : State) (k : Nat) (f : Core → Core) : (s.modCore k f).frames = s.frames := rfl
@[simp] theorem State.modCore_pageReqs (s : State) (k : Nat) (f : Core → Core) : (s.modCore k f).pageReqs = s.pageReqs := rfl
@[simp] theorem State.modCore_moves (s : State) (k : Nat) (f : Core → Core) : (s.modCore k f).moves = s.moves := rfl
@[simp] theorem State.modCore_defaultTier (s : State) (k : Nat) (f : Core → Core) : (s.modCore k f).defaultTier = s.defaultTier := rfl
@[simp] theorem State.modCore_cards (s : State) (k : Nat) (f : Core → Core) : (s.modCore k f).cards = s.cards := rfl
@[simp] theorem State.modCore_seqCtr (s : State) (k : Nat) (f : Core → Core) : (s.modCore k f).seqCtr = s.seqCtr := rfl
@[simp] theorem State.modCore_groups (s : State) (k : Nat) (f : Core → Core) : (s.modCore k f).groups = s.groups := rfl
@[simp] theorem State.modCore_groupAsid (s : State) (k : Nat) (f : Core → Core) : (s.modCore k f).groupAsid = s.groupAsid := rfl
@[simp] theorem State.modCore_peers (s : State) (k : Nat) (f : Core → Core) : (s.modCore k f).peers = s.peers := rfl
@[simp] theorem State.modCore_collects (s : State) (k : Nat) (f : Core → Core) : (s.modCore k f).collects = s.collects := rfl
@[simp] theorem State.modCore_entries (s : State) (k : Nat) (f : Core → Core) : (s.modCore k f).entries = s.entries := rfl
@[simp] theorem State.modCore_applied (s : State) (k : Nat) (f : Core → Core) : (s.modCore k f).applied = s.applied := rfl
@[simp] theorem State.modCore_parkedChunks (s : State) (k : Nat) (f : Core → Core) : (s.modCore k f).parkedChunks = s.parkedChunks := rfl
@[simp] theorem State.modCore_inbox (s : State) (k : Nat) (f : Core → Core) : (s.modCore k f).inbox = s.inbox := rfl
@[simp] theorem State.modCore_outbox (s : State) (k : Nat) (f : Core → Core) : (s.modCore k f).outbox = s.outbox := rfl
@[simp] theorem State.modCore_recQueue (s : State) (k : Nat) (f : Core → Core) : (s.modCore k f).recQueue = s.recQueue := rfl
@[simp] theorem State.modCore_cardRecs (s : State) (k : Nat) (f : Core → Core) : (s.modCore k f).cardRecs = s.cardRecs := rfl
@[simp] theorem State.modCore_carveGB (s : State) (k : Nat) (f : Core → Core) : (s.modCore k f).carveGB = s.carveGB := rfl
@[simp] theorem State.modCore_siltin (s : State) (k : Nat) (f : Core → Core) : (s.modCore k f).siltin = s.siltin := rfl
@[simp] theorem State.modCore_why (s : State) (k : Nat) (f : Core → Core) : (s.modCore k f).why = s.why := rfl
@[simp] theorem State.modCore_featPub (s : State) (k : Nat) (f : Core → Core) : (s.modCore k f).featPub = s.featPub := rfl
@[simp] theorem State.modCore_featAcc (s : State) (k : Nat) (f : Core → Core) : (s.modCore k f).featAcc = s.featAcc := rfl
@[simp] theorem State.modCore_timebase (s : State) (k : Nat) (f : Core → Core) : (s.modCore k f).timebase = s.timebase := rfl
@[simp] theorem State.modCore_domains (s : State) (k : Nat) (f : Core → Core) : (s.modCore k f).domains = s.domains := rfl
@[simp] theorem State.modCore_pwrQueue (s : State) (k : Nat) (f : Core → Core) : (s.modCore k f).pwrQueue = s.pwrQueue := rfl
@[simp] theorem State.modCore_tillSeen (s : State) (k : Nat) (f : Core → Core) : (s.modCore k f).tillSeen = s.tillSeen := rfl
@[simp] theorem State.modCore_scrub (s : State) (k : Nat) (f : Core → Core) : (s.modCore k f).scrub = s.scrub := rfl
@[simp] theorem State.modCore_epoch (s : State) (k : Nat) (f : Core → Core) : (s.modCore k f).epoch = s.epoch := rfl
@[simp] theorem State.modCore_sampleDays (s : State) (k : Nat) (f : Core → Core) : (s.modCore k f).sampleDays = s.sampleDays := rfl
@[simp] theorem State.modCore_tripped (s : State) (k : Nat) (f : Core → Core) : (s.modCore k f).tripped = s.tripped := rfl
@[simp] theorem State.modCore_tripValid (s : State) (k : Nat) (f : Core → Core) : (s.modCore k f).tripValid = s.tripValid := rfl
@[simp] theorem State.modCore_tripLo (s : State) (k : Nat) (f : Core → Core) : (s.modCore k f).tripLo = s.tripLo := rfl
@[simp] theorem State.modCore_tripTime (s : State) (k : Nat) (f : Core → Core) : (s.modCore k f).tripTime = s.tripTime := rfl
@[simp] theorem State.modCore_irqs (s : State) (k : Nat) (f : Core → Core) : (s.modCore k f).irqs = s.irqs := rfl
@[simp] theorem State.modCore_hostMem (s : State) (k : Nat) (f : Core → Core) : (s.modCore k f).hostMem = s.hostMem := rfl
@[simp] theorem State.modCore_frameTab (s : State) (k : Nat) (f : Core → Core) : (s.modCore k f).frameTab = s.frameTab := rfl
@[simp] theorem State.modCore_yardTlb (s : State) (k : Nat) (f : Core → Core) : (s.modCore k f).yardTlb = s.yardTlb := rfl
@[simp] theorem State.modCore_countsSeen (s : State) (k : Nat) (f : Core → Core) : (s.modCore k f).countsSeen = s.countsSeen := rfl
@[simp] theorem State.modCore_scrubbed (s : State) (k : Nat) (f : Core → Core) : (s.modCore k f).scrubbed = s.scrubbed := rfl
@[simp] theorem State.modCore_hostRead (s : State) (k : Nat) (f : Core → Core) : (s.modCore k f).hostRead = s.hostRead := rfl
@[simp] theorem State.modCore_cycleTop (s : State) (k : Nat) (f : Core → Core) : (s.modCore k f).cycleTop = s.cycleTop := rfl
@[simp] theorem State.modCore_cycleTook (s : State) (k : Nat) (f : Core → Core) : (s.modCore k f).cycleTook = s.cycleTook := rfl
@[simp] theorem State.modCore_lateFrames (s : State) (k : Nat) (f : Core → Core) : (s.modCore k f).lateFrames = s.lateFrames := rfl
@[simp] theorem State.modCore_lateWrites (s : State) (k : Nat) (f : Core → Core) : (s.modCore k f).lateWrites = s.lateWrites := rfl
@[simp] theorem State.modCore_issueCtr (s : State) (k : Nat) (f : Core → Core) : (s.modCore k f).issueCtr = s.issueCtr := rfl
@[simp] theorem State.modCore_stageCtr (s : State) (k : Nat) (f : Core → Core) : (s.modCore k f).stageCtr = s.stageCtr := rfl
@[simp] theorem State.modCore_freeCtr (s : State) (k : Nat) (f : Core → Core) : (s.modCore k f).freeCtr = s.freeCtr := rfl
@[simp] theorem State.modCore_schedule (s : State) (k : Nat) (f : Core → Core) : (s.modCore k f).schedule = s.schedule := rfl
@[simp] theorem State.modCore_focus (s : State) (k : Nat) (f : Core → Core) : (s.modCore k f).focus = s.focus := rfl
@[simp] theorem State.die_modCore (s : State) (k : Nat) (f : Core → Core) (j : Nat) : (s.modCore k f).die j = s.die j := rfl
@[simp] theorem State.vault_modCore (s : State) (k : Nat) (f : Core → Core) (j : Nat) : (s.modCore k f).vault j = s.vault j := rfl
@[simp] theorem State.card_modCore (s : State) (k : Nat) (f : Core → Core) (j : Nat) : (s.modCore k f).card j = s.card j := rfl
@[simp] theorem State.domain_modCore (s : State) (k : Nat) (f : Core → Core) (j : Nat) : (s.modCore k f).domain j = s.domain j := rfl
@[simp] theorem State.frame_modCore (s : State) (k : Nat) (f : Core → Core) (j : Nat) : (s.modCore k f).frame j = s.frame j := rfl
@[simp] theorem State.unit_modCore (s : State) (k : Nat) (f : Core → Core) (w : UnitId) : (s.modCore k f).unit w = s.unit w := rfl

/-! ### `modCtx` writes `cores` alone -/

@[simp] theorem State.modCtx_dies (s : State) (k c : Nat) (f : Ctx → Ctx) : (s.modCtx k c f).dies = s.dies := rfl
@[simp] theorem State.modCtx_vaults (s : State) (k c : Nat) (f : Ctx → Ctx) : (s.modCtx k c f).vaults = s.vaults := rfl
@[simp] theorem State.modCtx_units (s : State) (k c : Nat) (f : Ctx → Ctx) : (s.modCtx k c f).units = s.units := rfl
@[simp] theorem State.modCtx_chansvc (s : State) (k c : Nat) (f : Ctx → Ctx) : (s.modCtx k c f).chansvc = s.chansvc := rfl
@[simp] theorem State.modCtx_mem (s : State) (k c : Nat) (f : Ctx → Ctx) : (s.modCtx k c f).mem = s.mem := rfl
@[simp] theorem State.modCtx_poison (s : State) (k c : Nat) (f : Ctx → Ctx) : (s.modCtx k c f).poison = s.poison := rfl
@[simp] theorem State.modCtx_frames (s : State) (k c : Nat) (f : Ctx → Ctx) : (s.modCtx k c f).frames = s.frames := rfl
@[simp] theorem State.modCtx_pageReqs (s : State) (k c : Nat) (f : Ctx → Ctx) : (s.modCtx k c f).pageReqs = s.pageReqs := rfl
@[simp] theorem State.modCtx_moves (s : State) (k c : Nat) (f : Ctx → Ctx) : (s.modCtx k c f).moves = s.moves := rfl
@[simp] theorem State.modCtx_defaultTier (s : State) (k c : Nat) (f : Ctx → Ctx) : (s.modCtx k c f).defaultTier = s.defaultTier := rfl
@[simp] theorem State.modCtx_cards (s : State) (k c : Nat) (f : Ctx → Ctx) : (s.modCtx k c f).cards = s.cards := rfl
@[simp] theorem State.modCtx_seqCtr (s : State) (k c : Nat) (f : Ctx → Ctx) : (s.modCtx k c f).seqCtr = s.seqCtr := rfl
@[simp] theorem State.modCtx_groups (s : State) (k c : Nat) (f : Ctx → Ctx) : (s.modCtx k c f).groups = s.groups := rfl
@[simp] theorem State.modCtx_groupAsid (s : State) (k c : Nat) (f : Ctx → Ctx) : (s.modCtx k c f).groupAsid = s.groupAsid := rfl
@[simp] theorem State.modCtx_peers (s : State) (k c : Nat) (f : Ctx → Ctx) : (s.modCtx k c f).peers = s.peers := rfl
@[simp] theorem State.modCtx_collects (s : State) (k c : Nat) (f : Ctx → Ctx) : (s.modCtx k c f).collects = s.collects := rfl
@[simp] theorem State.modCtx_entries (s : State) (k c : Nat) (f : Ctx → Ctx) : (s.modCtx k c f).entries = s.entries := rfl
@[simp] theorem State.modCtx_applied (s : State) (k c : Nat) (f : Ctx → Ctx) : (s.modCtx k c f).applied = s.applied := rfl
@[simp] theorem State.modCtx_parkedChunks (s : State) (k c : Nat) (f : Ctx → Ctx) : (s.modCtx k c f).parkedChunks = s.parkedChunks := rfl
@[simp] theorem State.modCtx_inbox (s : State) (k c : Nat) (f : Ctx → Ctx) : (s.modCtx k c f).inbox = s.inbox := rfl
@[simp] theorem State.modCtx_outbox (s : State) (k c : Nat) (f : Ctx → Ctx) : (s.modCtx k c f).outbox = s.outbox := rfl
@[simp] theorem State.modCtx_recQueue (s : State) (k c : Nat) (f : Ctx → Ctx) : (s.modCtx k c f).recQueue = s.recQueue := rfl
@[simp] theorem State.modCtx_cardRecs (s : State) (k c : Nat) (f : Ctx → Ctx) : (s.modCtx k c f).cardRecs = s.cardRecs := rfl
@[simp] theorem State.modCtx_carveGB (s : State) (k c : Nat) (f : Ctx → Ctx) : (s.modCtx k c f).carveGB = s.carveGB := rfl
@[simp] theorem State.modCtx_siltin (s : State) (k c : Nat) (f : Ctx → Ctx) : (s.modCtx k c f).siltin = s.siltin := rfl
@[simp] theorem State.modCtx_why (s : State) (k c : Nat) (f : Ctx → Ctx) : (s.modCtx k c f).why = s.why := rfl
@[simp] theorem State.modCtx_featPub (s : State) (k c : Nat) (f : Ctx → Ctx) : (s.modCtx k c f).featPub = s.featPub := rfl
@[simp] theorem State.modCtx_featAcc (s : State) (k c : Nat) (f : Ctx → Ctx) : (s.modCtx k c f).featAcc = s.featAcc := rfl
@[simp] theorem State.modCtx_timebase (s : State) (k c : Nat) (f : Ctx → Ctx) : (s.modCtx k c f).timebase = s.timebase := rfl
@[simp] theorem State.modCtx_domains (s : State) (k c : Nat) (f : Ctx → Ctx) : (s.modCtx k c f).domains = s.domains := rfl
@[simp] theorem State.modCtx_pwrQueue (s : State) (k c : Nat) (f : Ctx → Ctx) : (s.modCtx k c f).pwrQueue = s.pwrQueue := rfl
@[simp] theorem State.modCtx_tillSeen (s : State) (k c : Nat) (f : Ctx → Ctx) : (s.modCtx k c f).tillSeen = s.tillSeen := rfl
@[simp] theorem State.modCtx_scrub (s : State) (k c : Nat) (f : Ctx → Ctx) : (s.modCtx k c f).scrub = s.scrub := rfl
@[simp] theorem State.modCtx_epoch (s : State) (k c : Nat) (f : Ctx → Ctx) : (s.modCtx k c f).epoch = s.epoch := rfl
@[simp] theorem State.modCtx_sampleDays (s : State) (k c : Nat) (f : Ctx → Ctx) : (s.modCtx k c f).sampleDays = s.sampleDays := rfl
@[simp] theorem State.modCtx_tripped (s : State) (k c : Nat) (f : Ctx → Ctx) : (s.modCtx k c f).tripped = s.tripped := rfl
@[simp] theorem State.modCtx_tripValid (s : State) (k c : Nat) (f : Ctx → Ctx) : (s.modCtx k c f).tripValid = s.tripValid := rfl
@[simp] theorem State.modCtx_tripLo (s : State) (k c : Nat) (f : Ctx → Ctx) : (s.modCtx k c f).tripLo = s.tripLo := rfl
@[simp] theorem State.modCtx_tripTime (s : State) (k c : Nat) (f : Ctx → Ctx) : (s.modCtx k c f).tripTime = s.tripTime := rfl
@[simp] theorem State.modCtx_irqs (s : State) (k c : Nat) (f : Ctx → Ctx) : (s.modCtx k c f).irqs = s.irqs := rfl
@[simp] theorem State.modCtx_hostMem (s : State) (k c : Nat) (f : Ctx → Ctx) : (s.modCtx k c f).hostMem = s.hostMem := rfl
@[simp] theorem State.modCtx_frameTab (s : State) (k c : Nat) (f : Ctx → Ctx) : (s.modCtx k c f).frameTab = s.frameTab := rfl
@[simp] theorem State.modCtx_yardTlb (s : State) (k c : Nat) (f : Ctx → Ctx) : (s.modCtx k c f).yardTlb = s.yardTlb := rfl
@[simp] theorem State.modCtx_countsSeen (s : State) (k c : Nat) (f : Ctx → Ctx) : (s.modCtx k c f).countsSeen = s.countsSeen := rfl
@[simp] theorem State.modCtx_scrubbed (s : State) (k c : Nat) (f : Ctx → Ctx) : (s.modCtx k c f).scrubbed = s.scrubbed := rfl
@[simp] theorem State.modCtx_hostRead (s : State) (k c : Nat) (f : Ctx → Ctx) : (s.modCtx k c f).hostRead = s.hostRead := rfl
@[simp] theorem State.modCtx_cycleTop (s : State) (k c : Nat) (f : Ctx → Ctx) : (s.modCtx k c f).cycleTop = s.cycleTop := rfl
@[simp] theorem State.modCtx_cycleTook (s : State) (k c : Nat) (f : Ctx → Ctx) : (s.modCtx k c f).cycleTook = s.cycleTook := rfl
@[simp] theorem State.modCtx_lateFrames (s : State) (k c : Nat) (f : Ctx → Ctx) : (s.modCtx k c f).lateFrames = s.lateFrames := rfl
@[simp] theorem State.modCtx_lateWrites (s : State) (k c : Nat) (f : Ctx → Ctx) : (s.modCtx k c f).lateWrites = s.lateWrites := rfl
@[simp] theorem State.modCtx_issueCtr (s : State) (k c : Nat) (f : Ctx → Ctx) : (s.modCtx k c f).issueCtr = s.issueCtr := rfl
@[simp] theorem State.modCtx_stageCtr (s : State) (k c : Nat) (f : Ctx → Ctx) : (s.modCtx k c f).stageCtr = s.stageCtr := rfl
@[simp] theorem State.modCtx_freeCtr (s : State) (k c : Nat) (f : Ctx → Ctx) : (s.modCtx k c f).freeCtr = s.freeCtr := rfl
@[simp] theorem State.modCtx_schedule (s : State) (k c : Nat) (f : Ctx → Ctx) : (s.modCtx k c f).schedule = s.schedule := rfl
@[simp] theorem State.modCtx_focus (s : State) (k c : Nat) (f : Ctx → Ctx) : (s.modCtx k c f).focus = s.focus := rfl
@[simp] theorem State.die_modCtx (s : State) (k c : Nat) (f : Ctx → Ctx) (j : Nat) : (s.modCtx k c f).die j = s.die j := rfl
@[simp] theorem State.vault_modCtx (s : State) (k c : Nat) (f : Ctx → Ctx) (j : Nat) : (s.modCtx k c f).vault j = s.vault j := rfl
@[simp] theorem State.card_modCtx (s : State) (k c : Nat) (f : Ctx → Ctx) (j : Nat) : (s.modCtx k c f).card j = s.card j := rfl
@[simp] theorem State.domain_modCtx (s : State) (k c : Nat) (f : Ctx → Ctx) (j : Nat) : (s.modCtx k c f).domain j = s.domain j := rfl
@[simp] theorem State.frame_modCtx (s : State) (k c : Nat) (f : Ctx → Ctx) (j : Nat) : (s.modCtx k c f).frame j = s.frame j := rfl
@[simp] theorem State.unit_modCtx (s : State) (k c : Nat) (f : Ctx → Ctx) (w : UnitId) : (s.modCtx k c f).unit w = s.unit w := rfl

/-! ### `modDie` writes `dies` alone -/

@[simp] theorem State.modDie_cores (s : State) (d : Nat) (f : Die → Die) : (s.modDie d f).cores = s.cores := rfl
@[simp] theorem State.modDie_vaults (s : State) (d : Nat) (f : Die → Die) : (s.modDie d f).vaults = s.vaults := rfl
@[simp] theorem State.modDie_units (s : State) (d : Nat) (f : Die → Die) : (s.modDie d f).units = s.units := rfl
@[simp] theorem State.modDie_chansvc (s : State) (d : Nat) (f : Die → Die) : (s.modDie d f).chansvc = s.chansvc := rfl
@[simp] theorem State.modDie_mem (s : State) (d : Nat) (f : Die → Die) : (s.modDie d f).mem = s.mem := rfl
@[simp] theorem State.modDie_poison (s : State) (d : Nat) (f : Die → Die) : (s.modDie d f).poison = s.poison := rfl
@[simp] theorem State.modDie_frames (s : State) (d : Nat) (f : Die → Die) : (s.modDie d f).frames = s.frames := rfl
@[simp] theorem State.modDie_pageReqs (s : State) (d : Nat) (f : Die → Die) : (s.modDie d f).pageReqs = s.pageReqs := rfl
@[simp] theorem State.modDie_moves (s : State) (d : Nat) (f : Die → Die) : (s.modDie d f).moves = s.moves := rfl
@[simp] theorem State.modDie_defaultTier (s : State) (d : Nat) (f : Die → Die) : (s.modDie d f).defaultTier = s.defaultTier := rfl
@[simp] theorem State.modDie_cards (s : State) (d : Nat) (f : Die → Die) : (s.modDie d f).cards = s.cards := rfl
@[simp] theorem State.modDie_seqCtr (s : State) (d : Nat) (f : Die → Die) : (s.modDie d f).seqCtr = s.seqCtr := rfl
@[simp] theorem State.modDie_groups (s : State) (d : Nat) (f : Die → Die) : (s.modDie d f).groups = s.groups := rfl
@[simp] theorem State.modDie_groupAsid (s : State) (d : Nat) (f : Die → Die) : (s.modDie d f).groupAsid = s.groupAsid := rfl
@[simp] theorem State.modDie_peers (s : State) (d : Nat) (f : Die → Die) : (s.modDie d f).peers = s.peers := rfl
@[simp] theorem State.modDie_collects (s : State) (d : Nat) (f : Die → Die) : (s.modDie d f).collects = s.collects := rfl
@[simp] theorem State.modDie_entries (s : State) (d : Nat) (f : Die → Die) : (s.modDie d f).entries = s.entries := rfl
@[simp] theorem State.modDie_applied (s : State) (d : Nat) (f : Die → Die) : (s.modDie d f).applied = s.applied := rfl
@[simp] theorem State.modDie_parkedChunks (s : State) (d : Nat) (f : Die → Die) : (s.modDie d f).parkedChunks = s.parkedChunks := rfl
@[simp] theorem State.modDie_inbox (s : State) (d : Nat) (f : Die → Die) : (s.modDie d f).inbox = s.inbox := rfl
@[simp] theorem State.modDie_outbox (s : State) (d : Nat) (f : Die → Die) : (s.modDie d f).outbox = s.outbox := rfl
@[simp] theorem State.modDie_recQueue (s : State) (d : Nat) (f : Die → Die) : (s.modDie d f).recQueue = s.recQueue := rfl
@[simp] theorem State.modDie_cardRecs (s : State) (d : Nat) (f : Die → Die) : (s.modDie d f).cardRecs = s.cardRecs := rfl
@[simp] theorem State.modDie_carveGB (s : State) (d : Nat) (f : Die → Die) : (s.modDie d f).carveGB = s.carveGB := rfl
@[simp] theorem State.modDie_siltin (s : State) (d : Nat) (f : Die → Die) : (s.modDie d f).siltin = s.siltin := rfl
@[simp] theorem State.modDie_why (s : State) (d : Nat) (f : Die → Die) : (s.modDie d f).why = s.why := rfl
@[simp] theorem State.modDie_featPub (s : State) (d : Nat) (f : Die → Die) : (s.modDie d f).featPub = s.featPub := rfl
@[simp] theorem State.modDie_featAcc (s : State) (d : Nat) (f : Die → Die) : (s.modDie d f).featAcc = s.featAcc := rfl
@[simp] theorem State.modDie_timebase (s : State) (d : Nat) (f : Die → Die) : (s.modDie d f).timebase = s.timebase := rfl
@[simp] theorem State.modDie_domains (s : State) (d : Nat) (f : Die → Die) : (s.modDie d f).domains = s.domains := rfl
@[simp] theorem State.modDie_pwrQueue (s : State) (d : Nat) (f : Die → Die) : (s.modDie d f).pwrQueue = s.pwrQueue := rfl
@[simp] theorem State.modDie_tillSeen (s : State) (d : Nat) (f : Die → Die) : (s.modDie d f).tillSeen = s.tillSeen := rfl
@[simp] theorem State.modDie_scrub (s : State) (d : Nat) (f : Die → Die) : (s.modDie d f).scrub = s.scrub := rfl
@[simp] theorem State.modDie_epoch (s : State) (d : Nat) (f : Die → Die) : (s.modDie d f).epoch = s.epoch := rfl
@[simp] theorem State.modDie_sampleDays (s : State) (d : Nat) (f : Die → Die) : (s.modDie d f).sampleDays = s.sampleDays := rfl
@[simp] theorem State.modDie_tripped (s : State) (d : Nat) (f : Die → Die) : (s.modDie d f).tripped = s.tripped := rfl
@[simp] theorem State.modDie_tripValid (s : State) (d : Nat) (f : Die → Die) : (s.modDie d f).tripValid = s.tripValid := rfl
@[simp] theorem State.modDie_tripLo (s : State) (d : Nat) (f : Die → Die) : (s.modDie d f).tripLo = s.tripLo := rfl
@[simp] theorem State.modDie_tripTime (s : State) (d : Nat) (f : Die → Die) : (s.modDie d f).tripTime = s.tripTime := rfl
@[simp] theorem State.modDie_irqs (s : State) (d : Nat) (f : Die → Die) : (s.modDie d f).irqs = s.irqs := rfl
@[simp] theorem State.modDie_hostMem (s : State) (d : Nat) (f : Die → Die) : (s.modDie d f).hostMem = s.hostMem := rfl
@[simp] theorem State.modDie_frameTab (s : State) (d : Nat) (f : Die → Die) : (s.modDie d f).frameTab = s.frameTab := rfl
@[simp] theorem State.modDie_yardTlb (s : State) (d : Nat) (f : Die → Die) : (s.modDie d f).yardTlb = s.yardTlb := rfl
@[simp] theorem State.modDie_countsSeen (s : State) (d : Nat) (f : Die → Die) : (s.modDie d f).countsSeen = s.countsSeen := rfl
@[simp] theorem State.modDie_scrubbed (s : State) (d : Nat) (f : Die → Die) : (s.modDie d f).scrubbed = s.scrubbed := rfl
@[simp] theorem State.modDie_hostRead (s : State) (d : Nat) (f : Die → Die) : (s.modDie d f).hostRead = s.hostRead := rfl
@[simp] theorem State.modDie_cycleTop (s : State) (d : Nat) (f : Die → Die) : (s.modDie d f).cycleTop = s.cycleTop := rfl
@[simp] theorem State.modDie_cycleTook (s : State) (d : Nat) (f : Die → Die) : (s.modDie d f).cycleTook = s.cycleTook := rfl
@[simp] theorem State.modDie_lateFrames (s : State) (d : Nat) (f : Die → Die) : (s.modDie d f).lateFrames = s.lateFrames := rfl
@[simp] theorem State.modDie_lateWrites (s : State) (d : Nat) (f : Die → Die) : (s.modDie d f).lateWrites = s.lateWrites := rfl
@[simp] theorem State.modDie_issueCtr (s : State) (d : Nat) (f : Die → Die) : (s.modDie d f).issueCtr = s.issueCtr := rfl
@[simp] theorem State.modDie_stageCtr (s : State) (d : Nat) (f : Die → Die) : (s.modDie d f).stageCtr = s.stageCtr := rfl
@[simp] theorem State.modDie_freeCtr (s : State) (d : Nat) (f : Die → Die) : (s.modDie d f).freeCtr = s.freeCtr := rfl
@[simp] theorem State.modDie_schedule (s : State) (d : Nat) (f : Die → Die) : (s.modDie d f).schedule = s.schedule := rfl
@[simp] theorem State.modDie_focus (s : State) (d : Nat) (f : Die → Die) : (s.modDie d f).focus = s.focus := rfl
@[simp] theorem State.core_modDie (s : State) (d : Nat) (f : Die → Die) (j : Nat) : (s.modDie d f).core j = s.core j := rfl
@[simp] theorem State.vault_modDie (s : State) (d : Nat) (f : Die → Die) (j : Nat) : (s.modDie d f).vault j = s.vault j := rfl
@[simp] theorem State.card_modDie (s : State) (d : Nat) (f : Die → Die) (j : Nat) : (s.modDie d f).card j = s.card j := rfl
@[simp] theorem State.domain_modDie (s : State) (d : Nat) (f : Die → Die) (j : Nat) : (s.modDie d f).domain j = s.domain j := rfl
@[simp] theorem State.frame_modDie (s : State) (d : Nat) (f : Die → Die) (j : Nat) : (s.modDie d f).frame j = s.frame j := rfl
@[simp] theorem State.ctx_modDie (s : State) (d : Nat) (f : Die → Die) (j i : Nat) : (s.modDie d f).ctx j i = s.ctx j i := rfl
@[simp] theorem State.unit_modDie (s : State) (d : Nat) (f : Die → Die) (w : UnitId) : (s.modDie d f).unit w = s.unit w := rfl

/-! ### `modCard` writes `cards` alone -/

@[simp] theorem State.modCard_cores (s : State) (n : Nat) (f : Card → Card) : (s.modCard n f).cores = s.cores := rfl
@[simp] theorem State.modCard_dies (s : State) (n : Nat) (f : Card → Card) : (s.modCard n f).dies = s.dies := rfl
@[simp] theorem State.modCard_vaults (s : State) (n : Nat) (f : Card → Card) : (s.modCard n f).vaults = s.vaults := rfl
@[simp] theorem State.modCard_units (s : State) (n : Nat) (f : Card → Card) : (s.modCard n f).units = s.units := rfl
@[simp] theorem State.modCard_chansvc (s : State) (n : Nat) (f : Card → Card) : (s.modCard n f).chansvc = s.chansvc := rfl
@[simp] theorem State.modCard_mem (s : State) (n : Nat) (f : Card → Card) : (s.modCard n f).mem = s.mem := rfl
@[simp] theorem State.modCard_poison (s : State) (n : Nat) (f : Card → Card) : (s.modCard n f).poison = s.poison := rfl
@[simp] theorem State.modCard_frames (s : State) (n : Nat) (f : Card → Card) : (s.modCard n f).frames = s.frames := rfl
@[simp] theorem State.modCard_pageReqs (s : State) (n : Nat) (f : Card → Card) : (s.modCard n f).pageReqs = s.pageReqs := rfl
@[simp] theorem State.modCard_moves (s : State) (n : Nat) (f : Card → Card) : (s.modCard n f).moves = s.moves := rfl
@[simp] theorem State.modCard_defaultTier (s : State) (n : Nat) (f : Card → Card) : (s.modCard n f).defaultTier = s.defaultTier := rfl
@[simp] theorem State.modCard_seqCtr (s : State) (n : Nat) (f : Card → Card) : (s.modCard n f).seqCtr = s.seqCtr := rfl
@[simp] theorem State.modCard_groups (s : State) (n : Nat) (f : Card → Card) : (s.modCard n f).groups = s.groups := rfl
@[simp] theorem State.modCard_groupAsid (s : State) (n : Nat) (f : Card → Card) : (s.modCard n f).groupAsid = s.groupAsid := rfl
@[simp] theorem State.modCard_peers (s : State) (n : Nat) (f : Card → Card) : (s.modCard n f).peers = s.peers := rfl
@[simp] theorem State.modCard_collects (s : State) (n : Nat) (f : Card → Card) : (s.modCard n f).collects = s.collects := rfl
@[simp] theorem State.modCard_entries (s : State) (n : Nat) (f : Card → Card) : (s.modCard n f).entries = s.entries := rfl
@[simp] theorem State.modCard_applied (s : State) (n : Nat) (f : Card → Card) : (s.modCard n f).applied = s.applied := rfl
@[simp] theorem State.modCard_parkedChunks (s : State) (n : Nat) (f : Card → Card) : (s.modCard n f).parkedChunks = s.parkedChunks := rfl
@[simp] theorem State.modCard_inbox (s : State) (n : Nat) (f : Card → Card) : (s.modCard n f).inbox = s.inbox := rfl
@[simp] theorem State.modCard_outbox (s : State) (n : Nat) (f : Card → Card) : (s.modCard n f).outbox = s.outbox := rfl
@[simp] theorem State.modCard_recQueue (s : State) (n : Nat) (f : Card → Card) : (s.modCard n f).recQueue = s.recQueue := rfl
@[simp] theorem State.modCard_cardRecs (s : State) (n : Nat) (f : Card → Card) : (s.modCard n f).cardRecs = s.cardRecs := rfl
@[simp] theorem State.modCard_carveGB (s : State) (n : Nat) (f : Card → Card) : (s.modCard n f).carveGB = s.carveGB := rfl
@[simp] theorem State.modCard_siltin (s : State) (n : Nat) (f : Card → Card) : (s.modCard n f).siltin = s.siltin := rfl
@[simp] theorem State.modCard_why (s : State) (n : Nat) (f : Card → Card) : (s.modCard n f).why = s.why := rfl
@[simp] theorem State.modCard_featPub (s : State) (n : Nat) (f : Card → Card) : (s.modCard n f).featPub = s.featPub := rfl
@[simp] theorem State.modCard_featAcc (s : State) (n : Nat) (f : Card → Card) : (s.modCard n f).featAcc = s.featAcc := rfl
@[simp] theorem State.modCard_timebase (s : State) (n : Nat) (f : Card → Card) : (s.modCard n f).timebase = s.timebase := rfl
@[simp] theorem State.modCard_domains (s : State) (n : Nat) (f : Card → Card) : (s.modCard n f).domains = s.domains := rfl
@[simp] theorem State.modCard_pwrQueue (s : State) (n : Nat) (f : Card → Card) : (s.modCard n f).pwrQueue = s.pwrQueue := rfl
@[simp] theorem State.modCard_tillSeen (s : State) (n : Nat) (f : Card → Card) : (s.modCard n f).tillSeen = s.tillSeen := rfl
@[simp] theorem State.modCard_scrub (s : State) (n : Nat) (f : Card → Card) : (s.modCard n f).scrub = s.scrub := rfl
@[simp] theorem State.modCard_epoch (s : State) (n : Nat) (f : Card → Card) : (s.modCard n f).epoch = s.epoch := rfl
@[simp] theorem State.modCard_sampleDays (s : State) (n : Nat) (f : Card → Card) : (s.modCard n f).sampleDays = s.sampleDays := rfl
@[simp] theorem State.modCard_tripped (s : State) (n : Nat) (f : Card → Card) : (s.modCard n f).tripped = s.tripped := rfl
@[simp] theorem State.modCard_tripValid (s : State) (n : Nat) (f : Card → Card) : (s.modCard n f).tripValid = s.tripValid := rfl
@[simp] theorem State.modCard_tripLo (s : State) (n : Nat) (f : Card → Card) : (s.modCard n f).tripLo = s.tripLo := rfl
@[simp] theorem State.modCard_tripTime (s : State) (n : Nat) (f : Card → Card) : (s.modCard n f).tripTime = s.tripTime := rfl
@[simp] theorem State.modCard_irqs (s : State) (n : Nat) (f : Card → Card) : (s.modCard n f).irqs = s.irqs := rfl
@[simp] theorem State.modCard_hostMem (s : State) (n : Nat) (f : Card → Card) : (s.modCard n f).hostMem = s.hostMem := rfl
@[simp] theorem State.modCard_frameTab (s : State) (n : Nat) (f : Card → Card) : (s.modCard n f).frameTab = s.frameTab := rfl
@[simp] theorem State.modCard_yardTlb (s : State) (n : Nat) (f : Card → Card) : (s.modCard n f).yardTlb = s.yardTlb := rfl
@[simp] theorem State.modCard_countsSeen (s : State) (n : Nat) (f : Card → Card) : (s.modCard n f).countsSeen = s.countsSeen := rfl
@[simp] theorem State.modCard_scrubbed (s : State) (n : Nat) (f : Card → Card) : (s.modCard n f).scrubbed = s.scrubbed := rfl
@[simp] theorem State.modCard_hostRead (s : State) (n : Nat) (f : Card → Card) : (s.modCard n f).hostRead = s.hostRead := rfl
@[simp] theorem State.modCard_cycleTop (s : State) (n : Nat) (f : Card → Card) : (s.modCard n f).cycleTop = s.cycleTop := rfl
@[simp] theorem State.modCard_cycleTook (s : State) (n : Nat) (f : Card → Card) : (s.modCard n f).cycleTook = s.cycleTook := rfl
@[simp] theorem State.modCard_lateFrames (s : State) (n : Nat) (f : Card → Card) : (s.modCard n f).lateFrames = s.lateFrames := rfl
@[simp] theorem State.modCard_lateWrites (s : State) (n : Nat) (f : Card → Card) : (s.modCard n f).lateWrites = s.lateWrites := rfl
@[simp] theorem State.modCard_issueCtr (s : State) (n : Nat) (f : Card → Card) : (s.modCard n f).issueCtr = s.issueCtr := rfl
@[simp] theorem State.modCard_stageCtr (s : State) (n : Nat) (f : Card → Card) : (s.modCard n f).stageCtr = s.stageCtr := rfl
@[simp] theorem State.modCard_freeCtr (s : State) (n : Nat) (f : Card → Card) : (s.modCard n f).freeCtr = s.freeCtr := rfl
@[simp] theorem State.modCard_schedule (s : State) (n : Nat) (f : Card → Card) : (s.modCard n f).schedule = s.schedule := rfl
@[simp] theorem State.modCard_focus (s : State) (n : Nat) (f : Card → Card) : (s.modCard n f).focus = s.focus := rfl
@[simp] theorem State.core_modCard (s : State) (n : Nat) (f : Card → Card) (j : Nat) : (s.modCard n f).core j = s.core j := rfl
@[simp] theorem State.die_modCard (s : State) (n : Nat) (f : Card → Card) (j : Nat) : (s.modCard n f).die j = s.die j := rfl
@[simp] theorem State.vault_modCard (s : State) (n : Nat) (f : Card → Card) (j : Nat) : (s.modCard n f).vault j = s.vault j := rfl
@[simp] theorem State.domain_modCard (s : State) (n : Nat) (f : Card → Card) (j : Nat) : (s.modCard n f).domain j = s.domain j := rfl
@[simp] theorem State.frame_modCard (s : State) (n : Nat) (f : Card → Card) (j : Nat) : (s.modCard n f).frame j = s.frame j := rfl
@[simp] theorem State.ctx_modCard (s : State) (n : Nat) (f : Card → Card) (j i : Nat) : (s.modCard n f).ctx j i = s.ctx j i := rfl
@[simp] theorem State.unit_modCard (s : State) (n : Nat) (f : Card → Card) (w : UnitId) : (s.modCard n f).unit w = s.unit w := rfl

end Sys2Proof.Machine
end

