-- ==== Sys2Proof/Laws/Issue.lean ====
section
/-! SUPPORT. The issue of a bundle with one slot: once and for all, what it does when its slot executes, faults or
stalls. -/

namespace Sys2Proof.Machine

theorem Tab.get_map {α : Type} (d : α) (l : Tab α) (f : α → α) (h : f d = d) (k : Nat) :
    Tab.get d (l.map fun x => (x.1, f x.2)) k = f (Tab.get d l k) := by
  induction l with
  | nil => exact h.symm
  | cons x t ih =>
    obtain ⟨a, b⟩ := x
    by_cases e : a = k <;> simp [Tab.get, e, ih]

theorem Tab.map_erase {α : Type} (l : Tab α) (f : α → α) (k : Nat) :
    (Tab.erase l k).map (fun x => (x.1, f x.2)) = Tab.erase (l.map fun x => (x.1, f x.2)) k := by
  induction l with
  | nil => rfl
  | cons x t ih =>
    obtain ⟨a, b⟩ := x
    by_cases e : a = k <;> simp [Tab.erase, e, ih]

theorem Tab.map_insert {α : Type} (l : Tab α) (f : α → α) (k : Nat) (v : α) :
    (Tab.insert l k v).map (fun x => (x.1, f x.2)) = Tab.insert (l.map fun x => (x.1, f x.2)) k (f v) := by
  induction l with
  | nil => rfl
  | cons x t ih =>
    obtain ⟨a, b⟩ := x
    by_cases e : k < a <;> simp [Tab.insert, e, ih]

theorem Tab.map_put {α : Type} (l : Tab α) (f : α → α) (k : Nat) (v : α) :
    (Tab.put l k v).map (fun x => (x.1, f x.2)) = Tab.put (l.map fun x => (x.1, f x.2)) k (f v) := by
  rw [Tab.put, Tab.map_insert, Tab.map_erase, Tab.put]

theorem Core.countDown_ctxs (q : Core) : q.countDown.ctxs = q.ctxs.map fun x => (x.1, x.2.aged) := rfl

/-- R39: counting a bundle ages the results of every context. -/
theorem Core.ctx_countDown (q : Core) (c : Nat) : q.countDown.ctx c = (q.ctx c).aged := by
  unfold Core.ctx
  rw [Core.countDown_ctxs]
  exact Tab.get_map {} q.ctxs Ctx.aged rfl c

theorem Core.countDown_setCtx (q : Core) (c : Nat) (x : Ctx) : (q.setCtx c x).countDown = q.countDown.setCtx c x.aged := by
  unfold Core.countDown Core.setCtx
  simp only
  congr 1
  exact Tab.map_put q.ctxs Ctx.aged c x

@[simp] theorem State.slotView_s (t : State) (k c slot : Nat) : (t.slotView k c slot).s = t := rfl
@[simp] theorem State.slotView_ctx (t : State) (k c slot : Nat) : (t.slotView k c slot).ctx = t.ctx k c := rfl
@[simp] theorem State.slotView_core (t : State) (k c slot : Nat) : (t.slotView k c slot).core = t.core k := rfl
@[simp] theorem State.slotView_x (t : State) (k c slot : Nat) (r : Reg) : (t.slotView k c slot).x r = (t.ctx k c).readX r := rfl
@[simp] theorem State.slotView_p (t : State) (k c slot : Nat) (p : PReg) : (t.slotView k c slot).p p = (t.ctx k c).readP p := rfl
@[simp] theorem State.slotView_pc (t : State) (k c slot : Nat) : (t.slotView k c slot).pc = (t.ctx k c).pc := rfl
@[simp] theorem State.slotView_k (t : State) (k c slot : Nat) : (t.slotView k c slot).k = k := rfl
@[simp] theorem State.slotView_c (t : State) (k c slot : Nat) : (t.slotView k c slot).c = c := rfl
@[simp] theorem State.slotView_slot (t : State) (k c slot : Nat) : (t.slotView k c slot).slot = slot := rfl
@[simp] theorem State.slotView_trap (t : State) (k c slot : Nat) : (t.slotView k c slot).trap = none := rfl

/-- A bundle that issues from its first slot takes over nothing of a split one. -/
theorem Bx.rejoin_first (b : Bx) (x : Ctx) (h : x.start = 0) : b.rejoin x = b := by
  unfold Bx.rejoin
  cases x.split <;> simp [h]

/-- The issue of a bundle that has one slot, reduced to that slot. -/
theorem State.issueOne_eq {s t : State} {k c slot : Nat} (h : Issuing s k c t) (f : SlotFn) :
    s.issueOne slot f =
      State.issueSlots t k c {} true false
        [(slot, fun b => if slotBarred b.ctx slot then .fault .illegalEncoding 0 else f b)] := by
  obtain ⟨u, hgo, hd, ht⟩ := h.go
  have hf := h.first
  rw [ht] at hf
  simp only [State.issueOne, State.focusCore, h.focus, h.runs, hgo, hd, ht, hf]
  simp

/-- A slot that executes, by itself in a bundle: the bundle commits and goes on. -/
theorem State.issueOne_done {s t : State} {k c slot : Nat} (h : Issuing s k c t)
    (m : slotBarred (t.ctx k c) slot = false) (f : SlotFn) {b : Bx} (e : f (t.slotView k c slot) = .done b)
    (n : b.trap = none) :
    s.issueOne slot f = b.finish (((b.commit true).keepSplit k c none).modCore k Core.unheld) {} := by
  rw [State.issueOne_eq h]
  have e' : runSlots { t.slotView k c slot with slot := 0 }
      [(slot, fun b => if slotBarred b.ctx slot then .fault .illegalEncoding 0 else f b)] = .all b := by
    show (match (if slotBarred (t.ctx k c) slot then .fault .illegalEncoding 0 else f (t.slotView k c slot)) with
      | .fault c v => SlotsEnd.fault _ slot c v
      | .stall h v i => .stall _ slot h v i
      | .done b' => match b'.trap with
        | some (c, v) => .trapped { b' with trap := none } slot c v
        | none => runSlots b' []) = _
    rw [if_neg (by simp [m]), e]
    simp only [n]
    rfl
  unfold State.issueSlots
  simp only [Bx.rejoin_first _ _ h.first, h.first]
  split
  · next q => exact absurd (e'.symm.trans q) (by simp)
  · next q => exact absurd (e'.symm.trans q) (by simp)
  · next q => exact absurd (e'.symm.trans q) (by simp)
  · next q =>
    have q' := e'.symm.trans q
    simp only [SlotsEnd.all.injEq] at q'
    subst q'
    rfl

theorem State.modCtx_eq (s : State) (k c : Nat) (f : Ctx → Ctx) :
    s.modCtx k c f = s.modCore k fun q => q.setCtx c (f (q.ctx c)) := rfl

theorem State.modCore_modCore (s : State) (k : Nat) (f g : Core → Core) :
    (s.modCore k f).modCore k g = s.modCore k fun q => g (f q) := by
  simp [State.modCore]

@[simp] theorem State.core_fresh (s : State) (k : Nat) : s.fresh.core k = s.core k := rfl
@[simp] theorem State.ctx_fresh (s : State) (k c : Nat) : s.fresh.ctx k c = s.ctx k c := rfl
@[simp] theorem State.core_ctx (s : State) (k c : Nat) : (s.core k).ctx c = s.ctx k c := rfl
@[simp] theorem Core.ctx_counted (q : Core) (c d : Nat) : (q.counted c).ctx d = (q.ctx d).aged := Core.ctx_countDown q d
@[simp] theorem Ctx.inHandler_aged (x : Ctx) : x.aged.inHandler = x.inHandler := rfl

theorem Core.storeAll_nil (q : Core) : q.storeAll [] = q := rfl

/-- What the commit of a bundle without stores leaves. -/
theorem Bx.commit_eq (b : Bx) (ts : b.ts = []) :
    ((b.commit true).keepSplit b.k b.c none).modCore b.k Core.unheld =
      b.s.fresh.setCore b.k (((b.s.core b.k).counted b.c).unheld.setCtx b.c
        (((b.s.ctx b.k b.c).aged.leave b.flights ((b.s.core b.k).seq + 1)).keepSplit none)) := by
  unfold Bx.commit State.keepSplit
  simp only [ts, Core.storeAll_nil, State.modCtx_eq, State.modCore_modCore, if_true, State.core_modCore,
    State.core_fresh]
  unfold State.modCore
  simp only [State.core_fresh, Core.ctx_counted, Core.ctx_setCtx, Core.setCtx_setCtx]
  rfl

/-- What a bundle leaves whose slots left results and a next address alone: `b.s` is the module as its slots left it. -/
theorem Bx.finish_plain (b : Bx) (ts : b.ts = []) (er : b.eret = false) (ex : b.exit = none) (sk : b.skip = none) :
    b.finish (((b.commit true).keepSplit b.k b.c none).modCore b.k Core.unheld) {} =
      b.s.after b.k b.c b.flights (b.next.getD (b.pc + 32)) := by
  unfold Bx.finish
  rw [Bx.commit_eq b ts]
  cases h : b.next <;>
    simp [er, ex, sk, State.nextBundle, State.after, State.modCtx_eq, State.modCore]

/-- A slot that leaves results, by itself in a bundle. -/
theorem State.issueOne_land {s t : State} {k c slot : Nat} (h : Issuing s k c t)
    (m : slotBarred (t.ctx k c) slot = false) (f : SlotFn) {lat : Nat} {dest : Dest} {val : Val} {fl tr : BitVec 5}
    (e : f (t.slotView k c slot) = .done ((t.slotView k c slot).land lat dest val fl tr)) :
    s.issueOne slot f = t.fallThrough k c [t.result k c slot lat dest val fl tr] := by
  rw [State.issueOne_done h m f e rfl]
  exact Bx.finish_plain _ rfl rfl rfl rfl

/-- A slot that has no effect, by itself in a bundle. -/
theorem State.issueOne_idle {s t : State} {k c slot : Nat} (h : Issuing s k c t)
    (m : slotBarred (t.ctx k c) slot = false) (f : SlotFn) (e : f (t.slotView k c slot) = .done (t.slotView k c slot)) :
    s.issueOne slot f = t.fallThrough k c [] := by
  rw [State.issueOne_done h m f e rfl]
  exact Bx.finish_plain _ rfl rfl rfl rfl

theorem State.issueOne_fault_raw {s t : State} {k c slot : Nat} (h : Issuing s k c t) (f : SlotFn) {e : Cause} {v : Dword}
    (hf : (if slotBarred (t.ctx k c) slot then .fault .illegalEncoding 0 else f (t.slotView k c slot)) = .fault e v) :
    s.issueOne slot f =
      ((Bx.commit { t.slotView k c slot with slot := 0 } (decide (1 ≤ slot))).keepSplit k c
        (Bx.split { t.slotView k c slot with slot := 0 } slot)).raise k c
        (Trap.atIssue e v (t.ctx k c).pc slot) := by
  rw [State.issueOne_eq h]
  have e' : runSlots { t.slotView k c slot with slot := 0 }
      [(slot, fun b => if slotBarred b.ctx slot then .fault .illegalEncoding 0 else f b)] =
        .fault { t.slotView k c slot with slot := 0 } slot e v := by
    show (match (if slotBarred (t.ctx k c) slot then .fault .illegalEncoding 0 else f (t.slotView k c slot)) with
      | .fault c v => SlotsEnd.fault _ slot c v
      | .stall h v i => .stall _ slot h v i
      | .done b' => match b'.trap with
        | some (c, v) => .trapped { b' with trap := none } slot c v
        | none => runSlots b' []) = _
    rw [hf]
  unfold State.issueSlots
  simp only [Bx.rejoin_first _ _ h.first, h.first]
  split
  · next q => exact absurd (e'.symm.trans q) (by simp)
  · next q =>
    have q' := e'.symm.trans q
    simp only [SlotsEnd.fault.injEq] at q'
    obtain ⟨rfl, rfl, rfl, rfl⟩ := q'
    simp only [decide_true, Bool.true_and]
  · next q => exact absurd (e'.symm.trans q) (by simp)
  · next q => exact absurd (e'.symm.trans q) (by simp)

/-- Writing back what a context and its core already hold is lost in any later write of that context. -/
theorem State.modCtx_same (s : State) (k c : Nat) (f : Ctx → Ctx) :
    State.modCtx (s.setCore k ((s.core k).setCtx c (s.ctx k c))) k c f = s.modCtx k c f := by
  simp [State.modCtx_eq, State.modCore]

theorem Bx.commit_idle (t : State) (k c : Nat) :
    Bx.commit { t.slotView k c 0 with slot := 0 } false = t.fresh.setCore k ((t.core k).setCtx c (t.ctx k c)) := by
  have e : (t.ctx k c).leave [] (t.ctx k c).lastSeq = t.ctx k c := by simp [Ctx.leave]
  unfold Bx.commit
  simp only [State.slotView, Core.storeAll_nil, State.modCtx_eq, State.modCore_modCore, Bool.false_eq_true,
    if_false, State.core_modCore, State.core_fresh]
  simp only [State.modCore, State.core_fresh, State.core_ctx]
  rw [e]

theorem Bx.commit_empty (t : State) (k c slot : Nat) :
    Bx.commit { t.slotView k c slot with slot := 0 } true = t.counted k c := by
  unfold Bx.commit State.counted
  simp only [State.slotView, Core.storeAll_nil, State.modCtx_eq, State.modCore_modCore, if_true,
    State.core_modCore, State.core_fresh]
  simp only [State.modCore, State.core_fresh, Core.ctx_counted, State.core_ctx]
  rfl

/-- A slot that faults, by itself in a bundle (R82, R297). -/
theorem State.issueOne_fault {s t : State} {k c slot : Nat} (h : Issuing s k c t) (f : SlotFn) {e : Cause} {v : Dword}
    (hf : (if slotBarred (t.ctx k c) slot then .fault .illegalEncoding 0 else f (t.slotView k c slot)) = .fault e v) :
    s.issueOne slot f = t.slotFault k c slot e v := by
  rw [State.issueOne_fault_raw h f hf, State.slotFault]
  by_cases z : slot = 0
  · subst z
    have : decide (1 ≤ 0) = false := rfl
    rw [this, Bx.commit_idle, if_pos rfl, if_pos rfl]
    exact congrArg (fun u => State.raise u k c _) (State.modCtx_same t.fresh k c _)
  · have : decide (1 ≤ slot) = true := by simp; omega
    rw [this, Bx.commit_empty, if_neg z, if_neg z]
    simp [Bx.split, State.slotView, z]

end Sys2Proof.Machine
end

