-- ==== Sys2Proof/Laws/Memory.lean ====
section
/-! SUPPORT. Byte memories: reading after a write, and the canonical form that every operation keeps. -/

namespace Sys2Proof.Machine

/-! ### Reading after a write -/

theorem Mem.read_write_self (m : Mem) (a : Nat) (v : Byte) : (m.write a v).read a = v := by
  unfold Mem.write Mem.read
  split
  · next h => rw [Tab.get_erase_self, h]
  · exact Tab.get_put_self _ _ _ _

theorem Mem.read_write_other (m : Mem) {a b : Nat} (v : Byte) (h : b ≠ a) : (m.write a v).read b = m.read b := by
  unfold Mem.write Mem.read
  split
  · exact Tab.get_erase_other _ _ h
  · exact Tab.get_put_other _ _ _ h

theorem Mem.read_writeList_before (m : Mem) (l : List Byte) {a b : Nat} (h : b < a) : (m.writeList a l).read b = m.read b := by
  induction l generalizing m a with
  | nil => rfl
  | cons x t ih =>
    rw [Mem.writeList, ih (m.write a x) (Nat.lt_succ_of_lt h), Mem.read_write_other m x (Nat.ne_of_lt h)]

/-- A list of bytes reads back where it was written. -/
theorem Mem.readList_writeList (m : Mem) (a : Nat) (l : List Byte) : (m.writeList a l).readList a l.length = l := by
  induction l generalizing m a with
  | nil => rfl
  | cons x t ih =>
    simp only [List.length_cons, Mem.readList, Mem.writeList]
    rw [ih, Mem.read_writeList_before _ t (Nat.lt_succ_self a), Mem.read_write_self]

/-- A list of bytes leaves every byte outside its places alone. -/
theorem Mem.read_writeList_other (m : Mem) (l : List Byte) {a b : Nat} (h : b < a ∨ a + l.length ≤ b) :
    (m.writeList a l).read b = m.read b := by
  induction l generalizing m a with
  | nil => rfl
  | cons x t ih =>
    simp only [List.length_cons] at h
    rw [Mem.writeList, ih (m.write a x) (by omega), Mem.read_write_other m x (by omega)]

/-! ### The canonical form -/

/-- A bound below which no entry lies. -/
def below : Option Nat → Nat → Prop
  | none, _ => True
  | some l, a => l < a

theorem Mem.wfFrom_cons (lo : Option Nat) (a : Nat) (b : Byte) (t : Mem) :
    Mem.wfFrom lo ((a, b) :: t) = true ↔ below lo a ∧ b ≠ Mem.unlisted ∧ Mem.wfFrom (some a) t = true := by
  cases lo <;> simp [Mem.wfFrom, below, and_assoc]

theorem Mem.wfFrom_mono {lo lo' : Option Nat} (m : Mem) (h : ∀ a, below lo a → below lo' a) (w : Mem.wfFrom lo m = true) :
    Mem.wfFrom lo' m = true := by
  cases m with
  | nil => rfl
  | cons x t =>
    obtain ⟨a, b⟩ := x
    rw [Mem.wfFrom_cons] at w ⊢
    exact ⟨h a w.1, w.2⟩

theorem Mem.wfFrom_erase (lo : Option Nat) (m : Mem) (k : Nat) (w : Mem.wfFrom lo m = true) :
    Mem.wfFrom lo (Tab.erase m k) = true := by
  induction m generalizing lo with
  | nil => rfl
  | cons x t ih =>
    obtain ⟨a, b⟩ := x
    rw [Mem.wfFrom_cons] at w
    simp only [Tab.erase]
    split
    · refine ih lo (Mem.wfFrom_mono t ?_ w.2.2)
      intro y hy
      cases lo with
      | none => trivial
      | some l => exact Nat.lt_trans w.1 hy
    · rw [Mem.wfFrom_cons]
      exact ⟨w.1, w.2.1, ih _ w.2.2⟩

theorem Mem.wfFrom_insert (lo : Option Nat) (m : Mem) (k : Nat) (v : Byte) (hv : v ≠ Mem.unlisted) (hl : below lo k)
    (hk : ∀ x ∈ m, x.1 ≠ k) (w : Mem.wfFrom lo m = true) : Mem.wfFrom lo (Tab.insert m k v) = true := by
  induction m generalizing lo with
  | nil => rw [Tab.insert, Mem.wfFrom_cons]; exact ⟨hl, hv, rfl⟩
  | cons x t ih =>
    obtain ⟨a, b⟩ := x
    rw [Mem.wfFrom_cons] at w
    have ha : a ≠ k := hk (a, b) (by simp)
    simp only [Tab.insert]
    split
    · next h => rw [Mem.wfFrom_cons, Mem.wfFrom_cons]; exact ⟨hl, hv, h, w.2.1, w.2.2⟩
    · next h =>
      rw [Mem.wfFrom_cons]
      exact ⟨w.1, w.2.1, ih (some a) (show a < k by omega) (fun y hy => hk y (by simp [hy])) w.2.2⟩

/-- Writing one byte keeps the canonical form. -/
theorem Mem.wf_write {m : Mem} (a : Nat) (v : Byte) (w : m.wf = true) : (m.write a v).wf = true := by
  unfold Mem.write Mem.wf
  split
  · exact Mem.wfFrom_erase none m a w
  · next h => exact Mem.wfFrom_insert none _ a v h trivial (Tab.mem_erase_ne m a) (Mem.wfFrom_erase none m a w)

/-- Writing a list of bytes keeps the canonical form. -/
theorem Mem.wf_writeList {m : Mem} (a : Nat) (l : List Byte) (w : m.wf = true) : (m.writeList a l).wf = true := by
  induction l generalizing m a with
  | nil => exact w
  | cons x t ih => exact ih (a + 1) (Mem.wf_write a x w)

/-- Writing scattered bytes keeps the canonical form. -/
theorem Mem.wf_foldl (l : List (Nat × Byte)) {m : Mem} (w : m.wf = true) :
    Mem.wf (l.foldl (fun (m : Mem) (x : Nat × Byte) => m.write x.1 x.2) m) = true := by
  induction l generalizing m with
  | nil => exact w
  | cons x t ih => exact ih (Mem.wf_write x.1 x.2 w)

theorem Mem.wfFrom_filter (lo : Option Nat) (m : Mem) (p : Nat × Byte → Bool) (w : Mem.wfFrom lo m = true) :
    Mem.wfFrom lo (m.filter p) = true := by
  induction m generalizing lo with
  | nil => rfl
  | cons x t ih =>
    obtain ⟨a, b⟩ := x
    rw [Mem.wfFrom_cons] at w
    rw [List.filter_cons]
    split
    · rw [Mem.wfFrom_cons]; exact ⟨w.1, w.2.1, ih _ w.2.2⟩
    · refine ih lo (Mem.wfFrom_mono t ?_ w.2.2)
      intro y hy
      cases lo with
      | none => trivial
      | some l => exact Nat.lt_trans w.1 hy

/-- Dropping entries keeps the canonical form. -/
theorem Mem.wf_filter {m : Mem} (p : Nat × Byte → Bool) (w : m.wf = true) : Mem.wf (m.filter p) = true :=
  Mem.wfFrom_filter none m p w

/-! ### Equal contents are equal data -/

theorem Mem.read_of_below (lo : Nat) (m : Mem) (w : Mem.wfFrom (some lo) m = true) {a : Nat} (h : a ≤ lo) :
    m.read a = Mem.unlisted := by
  induction m generalizing lo with
  | nil => rfl
  | cons x t ih =>
    obtain ⟨b, v⟩ := x
    rw [Mem.wfFrom_cons] at w
    have hb : lo < b := w.1
    have : b ≠ a := by omega
    simp only [Mem.read, Tab.get, this, if_false]
    exact ih b w.2.2 (by omega)

theorem Mem.wfFrom_some_of {lo : Option Nat} {a : Nat} {b : Byte} {t : Mem} (w : Mem.wfFrom lo ((a, b) :: t) = true) :
    Mem.wfFrom (some a) t = true ∧ b ≠ Mem.unlisted := by
  rw [Mem.wfFrom_cons] at w; exact ⟨w.2.2, w.2.1⟩

theorem Mem.ext_from (lo lo' : Option Nat) (m n : Mem) (wm : Mem.wfFrom lo m = true) (wn : Mem.wfFrom lo' n = true)
    (h : ∀ a, m.read a = n.read a) : m = n := by
  induction m generalizing lo lo' n with
  | nil =>
    cases n with
    | nil => rfl
    | cons y u =>
      obtain ⟨b, v⟩ := y
      have := h b
      simp only [Mem.read, Tab.get, if_true] at this
      exact absurd this.symm (Mem.wfFrom_some_of wn).2
  | cons x t ih =>
    obtain ⟨a, u⟩ := x
    have hm := Mem.wfFrom_some_of wm
    cases n with
    | nil =>
      have := h a
      simp only [Mem.read, Tab.get, if_true] at this
      exact absurd this hm.2
    | cons y r =>
      obtain ⟨b, v⟩ := y
      have hn := Mem.wfFrom_some_of wn
      have e : a = b := by
        rcases Nat.lt_trichotomy a b with l | l | l
        · exfalso
          have := h a
          simp only [Mem.read, Tab.get, if_true, Nat.ne_of_gt l, if_false] at this
          exact hm.2 (this.trans (Mem.read_of_below b r hn.1 (Nat.le_of_lt l)))
        · exact l
        · exfalso
          have := h b
          simp only [Mem.read, Tab.get, if_true, Nat.ne_of_gt l, if_false] at this
          exact hn.2 (this.symm.trans (Mem.read_of_below a t hm.1 (Nat.le_of_lt l)))
      subst e
      have ev : u = v := by
        have := h a
        simpa only [Mem.read, Tab.get, if_true] using this
      subst ev
      rw [ih (some a) (some a) r hm.1 hn.1 ?_]
      intro c
      by_cases hc : c ≤ a
      · rw [Mem.read_of_below a t hm.1 hc, Mem.read_of_below a r hn.1 hc]
      · have hne : a ≠ c := by omega
        have := h c
        simpa only [Mem.read, Tab.get, hne, if_false] using this

/-- Two canonical memories that read alike are the same list. -/
theorem Mem.ext_of_wf {m n : Mem} (wm : m.wf = true) (wn : n.wf = true) (h : ∀ a, m.read a = n.read a) : m = n :=
  Mem.ext_from none none m n wm wn h

end Sys2Proof.Machine
end

