-- ==== Sys2Proof/Laws/Waits.lean ====
section
/-! SUPPORT. What the operations that wait, post and release leave: an access that must wait only asks, a post and a wait move one
flag, and what has nothing to do does nothing. -/

namespace Sys2Proof.Machine

/-- An operation that nothing holds back happens. -/
@[simp] theorem State.unlessBusy_none (s : State) (d : Nat) (go : State) : s.unlessBusy d none go = go := rfl

/-- One that must wait only asks. -/
@[simp] theorem State.unlessBusy_some (s : State) (d : Nat) (w : Await) (go : State) :
    s.unlessBusy d (some w) go = s.awaitDomain d (some w) := rfl

@[simp] theorem PageRes.unlessBusy_none (s : State) (d : Nat) (go : PageRes) : PageRes.unlessBusy s d none go = go := rfl

@[simp] theorem PageRes.unlessBusy_some (s : State) (d : Nat) (w : Await) (go : PageRes) :
    PageRes.unlessBusy s d (some w) go = .later (s.awaitDomain d (some w)) := rfl

/-- An event changes event queues, host memory, interrupts and free values alone. -/
theorem State.event_frame (s : State) (d code : Nat) (src : Option Nat) (arg det : Option Dword) :
    ∃ h i f x, s.event d code src arg det = { s with hostMem := h, irqs := i, freeCtr := f, dies := x } := by
  simp only [State.event]
  split
  · exact ⟨_, _, _, _, rfl⟩
  · exact ⟨_, _, _, _, rfl⟩

/-- What waits changes event queues, host memory, interrupts, free values, the domain that it asks for and the channel whose
turn it asks for alone. -/
theorem State.awaitDomain_frame (s : State) (d : Nat) (w : Option Await) :
    ∃ h i f x c m, s.awaitDomain d w = { s with hostMem := h, irqs := i, freeCtr := f, dies := x, chansvc := c, domains := m } := by
  unfold State.awaitDomain
  split
  · exact ⟨_, _, _, _, _, _, rfl⟩
  · dsimp only
    split <;> exact ⟨_, _, _, _, _, _, rfl⟩
  · dsimp only
    split
    · exact ⟨_, _, _, _, _, _, rfl⟩
    · obtain ⟨h, i, f, x, e⟩ := State.event_frame (s.setDomain _ { s.domain _ with event9 := true }) d 9 (some (if _ < 32 then _ - 24 else _ - 32)) none none
      exact ⟨h, i, f, x, _, _, e⟩

@[simp] theorem State.awaitDomain_mem (s : State) (d : Nat) (w : Option Await) : (s.awaitDomain d w).mem = s.mem := by
  obtain ⟨_, _, _, _, _, _, e⟩ := s.awaitDomain_frame d w
  rw [e]

@[simp] theorem State.awaitDomain_cores (s : State) (d : Nat) (w : Option Await) : (s.awaitDomain d w).cores = s.cores := by
  obtain ⟨_, _, _, _, _, _, e⟩ := s.awaitDomain_frame d w
  rw [e]

/-- R30, R32: a wait's count joins what the waits of the cycle have taken from that flag, and from no other. -/
theorem State.tookNow_takeFlag (s : State) (k : Nat) (f : BitVec 5) (n : Nat) :
    (s.takeFlag k f n).tookNow k f = s.tookNow k f + n := by
  simp [State.takeFlag, State.tookNow, Tab.get_put_self]

/-- What waited and has nothing left lands nothing. -/
theorem State.landLate_nothing (s : State) (h : s.lateWrites = []) (g : s.lateFrames = []) : s.landLate = s := by
  simp [State.landLate, h, g]

/-- R344: transfers that no test picks keep what they have moved; nothing but cores differs. -/
theorem State.forgetMoved_frame (s : State) (p : Transfer → PendByte → Bool) :
    s.forgetMoved p = { s with cores := (s.forgetMoved p).cores } := rfl

end Sys2Proof.Machine
end

