-- ==== Sys2Proof/Tests/Slice0.lean ====
section
/-! SUPPORT. The model's own tests: ill-formed terms, decoding words, one step on small states with values from the spec, and for
every statement with hypotheses a state and operands that meet them. -/

namespace Sys2Proof.Tests

open Sys2Proof Sys2Proof.Machine Sys2Proof.Claims

set_option maxRecDepth 100000

/-! ### Small states -/

/-- Ring 1: four slots of 64 bytes of the W-buffer, two filled, context 0 on both sides. -/
def ring1 : Ring := { slotsz := 4, slots := 3, tail := 2, fill := 2, valid := true }

/-- A running context of core 0 whose next bundle is all zero, in a page that may be read and written; 4,096 bytes of each
typed buffer in its windows; every feature accepted. -/
def demo : State :=
  let s := State.reset.place 48 0
  let s := { s with mem := s.mem.write 131072 0x73, featAcc := 0x3FF }
  let s := s.modCore 0 fun q => { q with rings := [(1, ring1)], flags := [(2, 5)] }
  s.modCtx 0 0 fun x => { x with wwin := ⟨0, 4096⟩, awin := ⟨0, 4096⟩, cwin := ⟨0, 4096⟩, x := [(5, 7), (6, 0x2000)] }

/-- What the slots of the next bundle of core 0 see. -/
def seen (s : State) : State :=
  match s.boundary 0 0 with
  | .go u => (u.modCtx 0 0 fun x => { x with drain := none }).fetchFill 0 0
  | _ => s

/-- The same context in its handler. -/
def inHandler : State := demo.modCtx 0 0 fun x => { x with st := .trapped, server := .handler, epcb := 0x1060 }

theorem issuing_demo : Issuing demo 0 0 (seen demo) := ⟨rfl, by decide, ⟨_, rfl, by decide, rfl⟩, by decide⟩
theorem issuing_inHandler : Issuing inHandler 0 0 (seen inHandler) := ⟨rfl, by decide, ⟨_, rfl, by decide, rfl⟩, by decide⟩

/-- The guard that always holds, and one that does not hold in `demo`. -/
def always : Guard := ⟨0, false⟩
def never : Guard := ⟨1, false⟩

theorem guard_always : ((seen demo).ctx 0 0).guard always = true := by decide
theorem guard_never : ((seen demo).ctx 0 0).guard never = false := by decide
theorem user_demo : ((seen demo).ctx 0 0).inHandler = false := by decide

/-! ### Ill-formed terms, one for each check of WellFormed -/

theorem test_illformed_guard : (Instr.add ⟨0, true⟩ 1 2 3).ok = false := by decide
theorem test_illformed_loop : (Instr.loop always 6 0 4).ok = false ∧ (Instr.loop always 0 3 4).ok = false := by decide
theorem test_illformed_level : (Instr.lctlRd always 1 7).ok = false ∧ (Instr.lctlBrk always 6).ok = false := by decide
theorem test_illformed_csr : (Instr.csrw always 0 1 .erpop).ok = false := by decide
theorem test_illformed_dlow : (Instr.dlow always false 1 2 3).ok = false ∧ (Instr.hDlow 1 2 2).ok = false := by decide
theorem test_illformed_wset : (Instr.wset always false 15 0 1).ok = false ∧ (Instr.hWset 0 15 1).ok = false := by decide
theorem test_illformed_rv : (Instr.handRvInstruction (.shImm .slliw 1 2 32) .full).ok = false ∧
    (Instr.handRvInstruction (.opImm .addi 1 1 2) (.compressed 0x0085)).ok = false ∧
    (Instr.handEbreak (.compressed 0)).ok = false := by decide
theorem test_illformed_mint_formats : (Instr.mlatch always .triple 0 0).ok = false ∧
    (Instr.mstream always .fp32 .bf16 0 0 1).ok = false ∧ (Instr.mdrain always .int64 .fp32 0).ok = false ∧
    (Instr.mfold always .fp32 .int8 0).ok = false := by decide
theorem test_illformed_mint_registers : (Instr.mlatch always .int8 0 7).ok = false ∧
    (Instr.mlatch always .bf16 1 0).ok = false ∧ (Instr.mstream always .int8 .int8 0 6 1).ok = false := by decide
theorem test_illformed_constant : (Instr.rowLdc 1 6).ok = false := by decide
theorem test_illformed_agents : (Instr.bundleIssue 96).ok = false ∧ (Instr.contextHalt 0 8).ok = false ∧
    (Instr.cardAccept 2).ok = false ∧ (Instr.cardLaunch 0 12).ok = false ∧ (Instr.tillMoveDone 8 0).ok = false ∧
    (Instr.thermalThreshold 56 0).ok = false ∧ (Instr.transferStart 0 16 0).ok = false ∧ (Instr.entryArm 0 256).ok = false := by
  decide

/-- `vadd.f32 v3, v1, v2` of the spec's example (R80). -/
def vaddArgs : VArgs :=
  { v1 := false, idx := 1, vd := 3, va := 1, vb := 2, g := always
    w := { fa := .fp32, fb := .fp32, fd := .fp32, rm := .dyn, fli := .fpcr, flo := .fpcr, sat := false, gmask := 0xFF
           buf := .wb, xb := 0, ring := 0, exsel := 0, emptynan := false, imm0 := 0, imm1 := 0, shuf := 0, sfp := 0 } }

theorem test_wellformed_vadd : (Instr.vadd vaddArgs).ok = true := by decide
theorem test_illformed_vector_index : (Instr.vadd { vaddArgs with idx := 0 }).ok = false := by decide
theorem test_illformed_vector_formats : (Instr.vadd { vaddArgs with w := { vaddArgs.w with fa := .triple } }).ok = false ∧
    (Instr.vand vaddArgs).ok = false ∧ (Instr.qclr vaddArgs).ok = false := by decide
theorem test_illformed_vector_fields : (Instr.vadd { vaddArgs with w := { vaddArgs.w with imm0 := 1 } }).ok = false ∧
    (Instr.vadd { vaddArgs with w := { vaddArgs.w with xb := 1 } }).ok = false ∧
    (Instr.vadd { vaddArgs with w := { vaddArgs.w with shuf := 1 } }).ok = false ∧
    (Instr.vadd { vaddArgs with w := { vaddArgs.w with exsel := 6 } }).ok = false ∧
    (Instr.vadd { vaddArgs with w := { vaddArgs.w with sfp := 0x3F80 } }).ok = false ∧
    (Instr.vrcp { vaddArgs with w := { vaddArgs.w with sfp := 0x0001 } }).ok = false := by decide

/-! ### Decoding words written out from the spec's encodings, one for each format -/

/-- R88, R89: SR, `add x5, x6, x7`; then SI, SU, SB, SM, SA, SC and SL. -/
theorem test_decode_scalar :
    decodeS (0b000001#6 ++ 0b000#3 ++ 0b0#1 ++ 5#5 ++ 6#5 ++ 7#5 ++ 0#11 ++ 0#12) = .ok (.add always 5 6 7) ∧
    decodeS (0b000011#6 ++ 0b011#3 ++ 0b1#1 ++ 5#5 ++ 6#5 ++ 0xFFFFFFF#28) = .ok (.andi ⟨3, true⟩ 5 6 (-1)) ∧
    decodeS (0b000111#6 ++ 0b000#3 ++ 0b0#1 ++ 9#5 ++ 0x12345#33) = .ok (.li always 9 0x12345) ∧
    decodeS (0b011001#6 ++ 0b000#3 ++ 0b0#1 ++ 1#5 ++ 0x1FFFFFFFF#33) = .ok (.call always 1 (-1)) ∧
    decodeS (0b010000#6 ++ 0b000#3 ++ 0b0#1 ++ 8#5 ++ 9#5 ++ 0b11#2 ++ 0b10#2 ++ 0b1#1 ++ 16#23) = .ok (.ldWs always 8 9 .gv 16) ∧
    decodeS (0b010010#6 ++ 0b000#3 ++ 0b0#1 ++ 1#5 ++ 2#5 ++ 3#5 ++ 4#5 ++ 0b010#3 ++ 7#5 ++ 0#10) =
      .ok (.amoCas always 1 2 3 4 .die) ∧
    decodeS (0b100000#6 ++ 0b000#3 ++ 0b0#1 ++ 7#5 ++ 0#5 ++ 0x001#12 ++ 0#5 ++ 0#11) =
      .ok (.csrr always 7 ((Csr.ofCode 0x001).getD .erpop)) ∧
    decodeS (0b011011#6 ++ 0b000#3 ++ 0b0#1 ++ 5#3 ++ 4#5 ++ 0#30) = .ok (.loop always 5 4 0) := ⟨rfl, rfl, rfl, rfl, rfl, rfl, rfl, rfl⟩

/-- R83, R89: unassigned operation codes, and the reserved guard, are refused by name. -/
theorem test_decode_scalar_refuses :
    decodeS (0b001110#6 ++ 0#42) = .error .illegalEncoding ∧ decodeS (0b000000#6 ++ 1#42) = .error .illegalEncoding ∧
    decodeS (0b000001#6 ++ 0b000#3 ++ 0b1#1 ++ 5#5 ++ 6#5 ++ 7#5 ++ 0#11 ++ 0#12) = .error .reservedField :=
  ⟨rfl, rfl, rfl⟩

/-- R90, R91, R92, R161: `qmrg` in the second vector slot: OP, three triple formats, GMASK, and the syllable's index. -/
theorem test_decode_statistics : (decodeV true (7#9 ++ 2#6 ++ 0#6 ++ 1#6 ++ 0#3 ++ 0#1 ++ 0#1) (encVcw .qmrg
    { vaddArgs.w with fa := .triple, fb := .triple, fd := .triple, rm := .rne })).toOption.isSome = true := by decide

/-- R93, R94: `mclear.latch` and `mspill.st`; R95, R96: `tgather`; R97, R98: `dwait` with a register. -/
theorem test_decode_engines :
    (decodeC true (0x0A#6 ++ 2#4 ++ 0#2 ++ 4#5 ++ 5#5 ++ 3#4 ++ 0#3 ++ 0#1 ++ 0#2)).toOption =
      some (.tgather always true 2 3 4 5 .dflt) ∧
    decodeY (0x05#6 ++ 0#3 ++ 0#5 ++ 7#4 ++ 0#1 ++ 2#13) = .ok (.radvC 7 (.imm 2)) ∧
    decodeY (0x09#6 ++ 0#26) = .error .illegalEncoding := by
  refine ⟨?_, rfl, rfl⟩
  rfl

/-- R223: words of RV64IMC with Zba and Zbb, written from the base ISA's formats; R228: custom-0. -/
theorem test_decode_hand :
    decodeH (0x003#12 ++ 2#5 ++ 0#3 ++ 1#5 ++ 0x13#7) = .ok (.handRvInstruction (.opImm .addi 1 2 3) .full) ∧
    decodeH (0#7 ++ 3#5 ++ 2#5 ++ 3#3 ++ 8#5 ++ 0x23#7) = .ok (.handRvInstruction (.store .sd 2 3 8) .full) ∧
    decodeH (0x10#7 ++ 3#5 ++ 2#5 ++ 4#3 ++ 1#5 ++ 0x33#7) = .ok (.handRvInstruction (.op .sh2add 1 2 3) .full) ∧
    decodeH 0x00009002 = .ok (.handEbreak (.compressed 0x9002)) ∧
    decodeH (0x302#12 ++ 0#5 ++ 0#3 ++ 0#5 ++ 0x73#7) = .ok (.handPrivileged .mret) ∧
    decodeH 0x00000000 = .error .illegalEncoding := ⟨rfl, rfl, rfl, rfl, rfl, rfl⟩

/-- R239, R240: `hsum`, `sop.max` and `loop`, field by field. -/
theorem test_decode_row :
    decodeRow (0x18#6 ++ 0#4 ++ 0#3 ++ 2#3 ++ 0#3 ++ 7#4 ++ 0#4 ++ 0#4 ++ 0#1 ++ 0#32) = .ok (.rowHsum 7 2) ∧
    decodeRow (0x03#6 ++ 0#4 ++ 0#3 ++ 0#3 ++ 0#3 ++ 0#4 ++ 5#4 ++ 0#4 ++ 0#1 ++ 9#32) = .ok (.rowLoop 5 9) ∧
    decodeRow (0x05#6 ++ 0#58) = .error .illegalEncoding := ⟨rfl, rfl, rfl⟩

/-! ### Witnesses: the step, the encodings -/

/-- `CoreStepsRunTheDecodedInstruction`: a bundle that is all zero, one with a single slot, one with two, and no context. -/
theorem witness_coreStep : Left demo ∧ demo.focus = .core 0 ∧ (demo.tick 1).issuer 0 = some 0 ∧
    (demo.tick 1).fetch 0 0 (demo.ctx 0 0).pc = .ok 0 ∧ OnlyInstr 0 ((demo.tick 1).ctx 0 0) .nop :=
  ⟨⟨rfl, by decide, rfl, by decide⟩, rfl, by decide, by rfl, rfl, .inl ⟨rfl, fun n => by
    match n with
    | 0 | 1 | 2 | 3 | 4 | 5 | 6 => rfl
    | _ + 7 => rfl⟩⟩

/-- R79: the worked bundle of the spec: its slots decode to the instructions that it lists. -/
theorem test_workedBundle :
    let w : BitVec 256 := (0#64 ++ 0#64 ++ 0x00860840088A5000#64 ++ 0x0040081000010004#64)
    bundleS w = 0x088A50000040 ∧ bundleV0 w = 0x00860840 ∧ bundleY w = 0x08100001 ∧ bundleHead w = 4 ∧ bundleV1 w = 0 ∧
      bundleM w = 0 ∧ bundleC0 w = 0 ∧ bundleC1 w = 0 := by decide

theorem witness_coreIdle : Left { State.reset with siltin := .ready } ∧
    (({ State.reset with siltin := .ready } : State).tick 1).issuer 0 = none := ⟨⟨rfl, by decide, rfl, by decide⟩, rfl⟩

theorem witness_manySlots : ManySlots ((0x08100001#32 ++ 1#16).setWidth 256) {} := by
  intro i h
  exact absurd h.1 (by decide)

theorem witness_coreFetchFault :
    let s : State := demo.modCtx 0 0 fun x => { x with pc := 0x20 }
    Left s ∧ s.issuer 0 = some 0 ∧ s.fetch 0 0 0x20 = .fault .fetchOutsideCode := ⟨⟨rfl, by decide, rfl, by decide⟩, by decide, by rfl⟩

/-- The load hand of core 0 at `h.fwait f1, x5, core`. -/
def handDemo : State :=
  let s := State.reset.place 32 0x0012D02B
  s.modHand 0 .load fun h => { h with x := [(5, 1)], dmem := [] }

theorem witness_handStep : Left handDemo ∧ handDemo.focus = .hand 0 .load ∧ (handDemo.hand 0 .load).running = true ∧
    (handDemo.hand 0 .load).fetch = .ok 0x0012D02B ∧ decodeH 0x0012D02B = .ok (.hFwait 1 5 .core) :=
  ⟨⟨rfl, by decide, rfl, by decide⟩, rfl, rfl, rfl, rfl⟩
theorem witness_handStep_faults :
    (({ (handDemo.hand 0 .load) with imem := [] } : Hand).fetch = .ok 0 ∧ decodeH 0 = .error .illegalEncoding) ∧
    ({ (handDemo.hand 0 .load) with isz := 0 } : Hand).fetch = .error 0 := ⟨⟨rfl, rfl⟩, rfl⟩

theorem witness_schedule :
    ({ State.reset with schedule := [⟨3, .moduleReset⟩] } : State).schedule = ⟨3, .moduleReset⟩ :: [] ∧
    Instr.moduleReset.ok = true ∧ State.reset.tripped = false ∧ State.reset.schedule = [] ∧ State.reset.siltin = .reset ∧
    State.reset.focus.ok = true := by decide

theorem witness_trip : ({ State.reset with tripped := true } : State).tripped = true ∧
    step { State.reset with tripped := true } = .next (State.tick { State.reset with tripped := true } 1) ∧
    step { State.reset with tripped := true, schedule := [⟨0, .moduleReset⟩] } =
      .next { State.reset with siltin := .training } := ⟨rfl, rfl, rfl⟩
/-- What ends training: a cycle. -/
theorem witness_training : ({ State.reset with siltin := .training } : State).siltin = .training ∧ (1 : Nat) ≠ 0 := ⟨rfl, by decide⟩
/-- An event without cycles before it, on core 0: after what comes before it in the cycle, and after what comes later. -/
theorem witness_cycleOrder :
    (∀ p ∈ demo.places (.bundleIssue 0), Tab.get 0 demo.cycleTop p.1 ≤ p.2) ∧
    (∃ p ∈ ({ demo with cycleTop := [(0, 2)] } : State).places (.bundleIssue 0),
      p.2 < Tab.get 0 ({ demo with cycleTop := [(0, 2)] } : State).cycleTop p.1) := by decide

/-- The round trips: one well-formed instruction of each kind, with its words. -/
theorem witness_roundTrips :
    ((Instr.add always 1 2 3).ok = true ∧ (encode (.add always 1 2 3)).isSome = true) ∧
    ((Instr.dwait 3 (.reg 4) .module).ok = true ∧ (encode (.dwait 3 (.reg 4) .module)).isSome = true) ∧
    ((Instr.mstream always .int8 .int8 2 1 9).ok = true ∧ (encode (.mstream always .int8 .int8 2 1 9)).isSome = true) ∧
    ((Instr.dpop ⟨2, true⟩ true 4 1 5 6).ok = true ∧ (encode (.dpop ⟨2, true⟩ true 4 1 5 6)).isSome = true) ∧
    ((Instr.vadd vaddArgs).ok = true ∧ encode (.vadd vaddArgs) = some (.v false 0x00860840 (0x0100080FF0000000#64 ++ 0#192))) ∧
    ((Instr.handRvInstruction (.jal 1 5) .full).ok = true ∧ (encode (.handRvInstruction (.jal 1 5) .full)).isSome = true) ∧
    ((Instr.rowLdc 1 5).ok = true ∧ (encode (.rowLdc 1 5)).isSome = true) ∧ isEvent .moduleReset = true ∧
    encode .moduleReset = none := by decide

theorem witness_canon : Canon demo ∧ ∃ s', step demo = .next s' := ⟨⟨by decide, rfl⟩, _, rfl⟩

/-! ### Witnesses: the scalar slot -/

theorem witness_scalarResult : scalarResult (seen demo) ((seen demo).ctx 0 0) (.addi always 5 5 64) = some (always, 5, 1, 71) ∧
    scalarResult (seen demo) ((seen demo).ctx 0 0) (.div always 0 5 0) = some (always, 0, 20, -1) ∧
    predicateResult ((seen demo).ctx 0 0) (.cmpLt always 1 5 6) = some (always, 1, true) := by decide

/-- R115: −1 · 2 has the upper half −1 signed, and 1 unsigned. -/
theorem test_mulh : scalarResult {} { x := [(1, -1), (2, 2)] } (.mulh always 3 1 2) = some (always, 3, 3, -1) ∧
    scalarResult {} { x := [(1, -1), (2, 2)] } (.mulhu always 3 1 2) = some (always, 3, 3, 1) := by decide

/-- R114: `li` then `lih` leave any 64-bit value: here 0x8000_0000_9ABC_DEF1, by the pair of values that the rule gives. -/
theorem test_li_lih :
    let v : Dword := 0x800000009ABCDEF1
    let hi : BitVec 33 := v.extractLsb' 31 33 - (v.extractLsb' 30 1).setWidth 33
    lihValue hi ((v.extractLsb' 0 33).signExtend 64) = v := by decide

theorem witness_bufferLoad :
    loadForm (.ldD always 10 5 (.buf .ab) (-7)) = some (always, 10, 5, .buf .ab, -7, 8, false) ∧
    Inside (((seen demo).ctx 0 0).window .ab) (ea ((seen demo).ctx 0 0) 5 (-7)) 8 ∧
    Inside (((seen demo).ctx 0 0).window .ab) (ea ((seen demo).ctx 0 0) 5 4081) 8 ∧
    ((seen demo).core 0).poisonedAt .ab (ea ((seen demo).ctx 0 0) 5 (-7)).toNat 8 = none :=
  ⟨rfl, ⟨by decide, by decide⟩, ⟨by decide, by decide⟩, by decide⟩
theorem witness_bufferStore : storeForm (.stB always 6 5 (.buf .cb) 0) = some (always, 6, 5, .buf .cb, 0, 1) ∧
    Inside (((seen demo).ctx 0 0).window .cb) (ea ((seen demo).ctx 0 0) 5 0) 1 := ⟨rfl, by decide, by decide⟩
theorem witness_bufferBounds : loadForm (.ldW always 1 5 (.buf .wb) 4086) = some (always, 1, 5, .buf .wb, 4086, 4, false) ∧
    ¬ Inside (((seen demo).ctx 0 0).window .wb) (ea ((seen demo).ctx 0 0) 5 4086) 4 ∧
    ¬ Inside (((seen demo).ctx 0 0).window .wb) (ea ((seen demo).ctx 0 0) 5 4089) 4 :=
  ⟨rfl, fun h => absurd h.2 (by decide), fun h => absurd h.2 (by decide)⟩

/-- The bytes of the page that 0x2000 on lies in, in frame 3 of HBM stack 0. -/
def place (n : Nat) : List Nat := (List.range n).map fun i => 3 * 65536 + 0x2000 + i

theorem unfenced_demo : Unfenced (seen demo) 0 0 := by
  intro p hp
  simp [show ((seen demo).core 0).stores = [] from by decide] at hp

theorem witness_globalLoad : loadForm (.ldHs always 1 6 .gv 0) = some (always, 1, 6, .gv, 0, 2, true) ∧
    (seen demo).ctxSpan 0 0 .read (ea ((seen demo).ctx 0 0) 6 0) 2 = .ok (place 2) false ∧ (place 2).length = 2 ∧
    Unfenced (seen demo) 0 0 ∧ (seen demo).poisonedAny (.core 0) (place 2) = false :=
  ⟨rfl, by decide +kernel, rfl, unfenced_demo, by decide⟩
theorem witness_globalStore : storeForm (.stD always 5 6 .gv 0) = some (always, 5, 6, .gv, 0, 8) ∧
    (seen demo).ctxSpan 0 0 .write (ea ((seen demo).ctx 0 0) 6 0) 8 = .ok (place 8) false := ⟨rfl, by decide +kernel⟩
theorem witness_globalFault : loadForm (.ldD always 1 6 .gv 0x100000) = some (always, 1, 6, .gv, 0x100000, 8, false) ∧
    (seen demo).ctxSpan 0 0 .read (ea ((seen demo).ctx 0 0) 6 0x100000) 8 = .fault .translationFault 0x102000 :=
  ⟨rfl, by decide +kernel⟩
theorem witness_atomic : (amoForm ((seen demo).ctx 0 0) (.amoAddW always 1 6 5 .die)).isSome = true ∧
    (seen demo).ctxSpan 0 0 .atomic (amoAddr ((seen demo).ctx 0 0) 6 4) 4 = .ok (place 4) false ∧ (place 4).length = 4 ∧
    (place 4).Nodup ∧ (seen demo).poisonedAny (.core 0) (place 4) = false := ⟨rfl, by decide +kernel, rfl, by decide, by decide⟩

theorem witness_branch : transferForm ((seen demo).ctx 0 0) (.call always 1 0) = some (always, 0x1040, 1) ∧
    (0x1040 : Dword).toNat % 32 = 0 ∧ ((seen demo).codeRange 0 0).1 ≤ (0x1040 : Dword).toNat ∧
    (0x1040 : Dword).toNat < ((seen demo).codeRange 0 0).2 := ⟨rfl, rfl, by decide, by decide⟩
theorem witness_branchFaults : transferForm ((seen demo).ctx 0 0) (.jr always 5) = some (always, 7, 0) ∧
    (7 : Dword).toNat % 32 ≠ 0 ∧ transferForm ((seen demo).ctx 0 0) (.br always 1) = some (always, 0x1060, 0) ∧
    ((seen demo).codeRange 0 0).2 ≤ (0x1060 : Dword).toNat ∧
    transferForm ((seen demo).ctx 0 0) (.br always (-1)) = some (always, 0x1020, 0) ∧
    (0x1020 : Dword).toNat < ((seen demo).codeRange 0 0).1 := ⟨rfl, by decide, rfl, by decide, rfl, by decide⟩

/-! ### Witnesses: loops, CSRs, traps, ends -/

/-- `LoopInstructionsWriteTheirLevel`: the next bundle must be in the code range: a kernel of two bundles. -/
def demo2 : State := demo.modCard 0 fun x => { x with hdr := 64 <<< 64, dw := [0, 0x1000, 0, 0, 0, (20 : Dword) <<< 32] }
theorem issuing_demo2 : Issuing demo2 0 0 (seen demo2) := ⟨rfl, by decide, ⟨_, rfl, by decide, rfl⟩, by decide⟩
theorem witness_loop : (seen demo2).badTarget 0 0 (((seen demo2).ctx 0 0).pc + 32) = none ∧
    ((seen demo2).ctx 0 0).guard always = true ∧
    (4 : Word) = (if (0 : Reg) = 0 then (4 : BitVec 30).setWidth 32 else (((seen demo2).ctx 0 0).readX 0).setWidth 32) ∧
    (0 : Word) = (if (7 : Reg) = 0 then (4 : BitVec 30).setWidth 32 else (((seen demo2).ctx 0 0).readX 7).setWidth 32) := by
  decide +kernel

/-- A context that scans for the end of level 2, at a bundle that ends it. -/
def scanning : State :=
  (demo.modCtx 0 0 fun x => { x with phase := .scan 2 0x1040 }).writeModule
    [(3 * 65536 + 0x1040, 0x14)]
theorem witness_scan : scanning.issuer 0 = some 0 ∧ (scanning.ctx 0 0).phase = .scan 2 0x1040 ∧ (scanning.ctx 0 0).start = 0 ∧
    (scanning.ctx 0 0).haltReq = false ∧ scanning.fetch 0 0 (scanning.ctx 0 0).pc = .ok 0x14 ∧
    demo.fetch 0 0 (demo.ctx 0 0).pc = .ok 0 := by decide +kernel

theorem witness_csrRead : ((seen demo).ctx 0 0).inHandler = false ∧ (Csr.ctxid.code.toNat < 0x100) ∧
    ((seen inHandler).ctx 0 0).inHandler = true ∧ 0x100 ≤ Csr.epcb.code.toNat ∧ (0 : Nat) < 96 ∧
    csrRead (seen inHandler) 0 0 .epcb = 0x1060 := by decide
theorem witness_csrWrite : csrForm (.csrw always 1 5 .hscr0) = some (.write, always, 1, 5, .hscr0) ∧
    csrAllowed ((seen inHandler).ctx 0 0) .write 5 .hscr0 ∧ csrAllowed ((seen demo).ctx 0 0) .write 0 .cstat ∧
    csrForm (.erpop always .set 1 5) = some (.set, always, 1, 5, .erpop) := by
  refine ⟨rfl, .inl (by decide), .inr ⟨by decide, fun _ => by decide⟩, rfl⟩
theorem witness_privilege : ((seen demo).ctx 0 0).readX 5 &&& ~~~0x10000 ≠ 0 ∧ ((seen demo).ctx 0 0).readX 5 ≠ 0 ∧
    0x100 ≤ Csr.hscr0.code.toNat := by decide

/-- A context whose `drain` at die scope waits for a store that has performed nowhere. -/
def draining : State :=
  (demo.modCtx 0 0 fun x => { x with drain := some .die }).modCore 0 fun q =>
    { q with stores := [{ c := 0, card := 0, bytes := [(9, 1)], va := 9, level := .core, need := none, ord := 0, direct := false }]
             storeCtr := 1 }
theorem witness_drain : ∃ u p, draining.issuer 0 = some 0 ∧ draining.boundary 0 0 = .go u ∧ (u.ctx 0 0).drain = some .die ∧
    p ∈ (u.core 0).stores ∧ p.c = 0 ∧ p.performedAt .die = false :=
  ⟨_, _, by decide, rfl, by decide, .head _, rfl, rfl⟩

theorem witness_trap : ((seen demo).cardOf 0 0).brken = false ∧
    ((demo.modCard 0 fun x => { x with hdr := x.hdr ||| (1 <<< 288) }).cardOf 0 0).brken = true := by decide
theorem witness_eret : ((seen inHandler).ctx 0 0).inHandler = true ∧ ((seen inHandler).ctx 0 0).guard always = true ∧
    ((seen inHandler).ctx 0 0).pend = false ∧ ((seen inHandler).ctx 0 0).flights = [] ∧
    ((seen { demo2 with cores := inHandler.cores }).ctx 0 0).epcb = 0x1060 ∧ (0x1060 : Dword).toNat % 32 = 0 ∧
    ((seen demo2).userRange 0 0).1 ≤ (0x1060 : Dword).toNat ∧ (0x1060 : Dword).toNat < ((seen demo2).userRange 0 0).2 := by
  decide
theorem witness_exitFill :
    let v := demo.modCtx 0 0 fun x => { x with phase := .exitFill, exitStatus := 3 }
    v.issuer 0 = some 0 ∧ (v.ctx 0 0).phase = .exitFill ∧ (v.ctx 0 0).start = 0 ∧ (v.ctx 0 0).haltReq = false ∧
      ∀ x ∈ (v.core 0).ctxs, x.2.flights = [] := by decide
theorem witness_falseGuard : ((seen demo).ctx 0 0).guard never = false ∧
    (∃ imm, Instr.trap never 7 = .trap never imm) ∧ loadForm (.ldB never 1 2 .gv 0) = some (never, 1, 2, .gv, 0, 1, false) :=
  ⟨by decide, ⟨_, rfl⟩, rfl⟩

/-! ### Witnesses: the vector slots -/

/-- `vadd` on integers, `vld` and `qupd` of the same syllable. -/
def intArgs : VArgs := { vaddArgs with w := { vaddArgs.w with fa := .int32, fb := .int32, fd := .int32 } }
def ringArgs : VArgs := { vaddArgs with w := { vaddArgs.w with ring := 1, fd := .int8, imm0 := 0 } }

theorem formats_vadd : formatsAccepted (seen demo) vaddArgs := fun h => absurd h (by decide)
theorem witness_vectorResult : (vectorResult (seen demo) 0 0 (.vadd vaddArgs)).isSome = true ∧
    (vectorResult (seen demo) 0 0 (.qext vaddArgs)).isSome = true ∧ (seen demo).accepted 2 = true ∧
    ((seen demo).ctx 0 0).guard vaddArgs.g = true ∧ (gredForm (seen demo) 0 0 (.vgredAdd vaddArgs)).isSome = true ∧
    (statisticsResult (seen demo) 0 0 (.qupd vaddArgs)).isSome = true := ⟨rfl, rfl, by decide, by decide, rfl, rfl⟩

/-- R150: 1.5 + 2.25 = 3.75 in FP32; R151: the shifts of `vsra` and `vshr`. -/
theorem test_vadd_lane :
    (roundedLane vaddArgs { a := fun _ => 0x3FC00000, b := fun _ => 0x40100000, d := fun _ => 0, rm := .rne, fi := false, fo := false }
      (fun a b _ => a + b) (fun a b _ => Ex.add .rne a b) 5) = (0x40700000, 0) := by decide +kernel
theorem test_vadd_lane_integers :
    (roundedLane intArgs { a := fun _ => 0x7FFFFFFF, b := fun _ => 1, d := fun _ => 0, rm := .rne, fi := false, fo := false }
      (fun a b _ => a + b) (fun a b _ => Ex.add .rne a b) 5) = (0x80000000, 0) := by decide +kernel

theorem witness_vectorAccess : (vectorAccess (seen demo) 0 0 (.vld vaddArgs)).isSome = true ∧
    LanesInside (seen demo) 0 0 vaddArgs 4 (fun l => 4 * l) true ∧ LanesInside (seen demo) 0 0 vaddArgs 4 (fun l => 4 * l) false ∧
    LanesInside (seen demo) 0 0 vaddArgs 12 (qAddr vaddArgs ((seen demo).slotView 0 0 1)) true ∧
    LanesInside (seen demo) 0 0 vaddArgs 12 (qAddr vaddArgs ((seen demo).slotView 0 0 1)) false := by
  unfold LanesInside
  refine ⟨rfl, by decide +kernel, by decide +kernel, by decide +kernel, by decide +kernel⟩

/-- Ring 1 has four slots of 64 bytes; an INT8 slot of the lanes would need 128, so the witness takes slots of 128 bytes. -/
def ringDemo : State := demo.modCore 0 fun q => { q with rings := [(1, { ring1 with slotsz := 8 })] }
theorem issuing_ringDemo : Issuing ringDemo 0 0 (seen ringDemo) := ⟨rfl, by decide, ⟨_, rfl, by decide, rfl⟩, by decide⟩
theorem witness_vectorRing : ((seen ringDemo).core 0).poison = [] ∧
    ringFault ringArgs ((seen ringDemo).slotView 0 0 1) (((seen ringDemo).core 0).ring 1) true = none ∧
    ringFault ringArgs ((seen ringDemo).slotView 0 0 1) (((seen ringDemo).core 0).ring 1) false = none ∧
    ringArgs.w.imm1.toNat + 1 ≤ (((seen ringDemo).core 0).ring 1).fill.toNat ∧
    ringArgs.w.imm1.toNat + 1 + (((seen ringDemo).core 0).ring 1).fill.toNat ≤ (((seen ringDemo).core 0).ring 1).count ∧
    (((seen ringDemo).core 0).ring 1).fill.toNat < (2 : Word).toNat + 1 := by decide +kernel

theorem witness_vectorChecks : (Instr.vadd vaddArgs).vop? = some (.vadd, vaddArgs) ∧
    ((seen inHandler).ctx 0 0).inHandler = true ∧
    ({ vaddArgs with w := { vaddArgs.w with fa := .lns6 } } : VArgs).w.fa = .lns6 ∧
    ({ seen demo with featAcc := 1 }).accepted 3 = false ∧ ({ seen demo with featAcc := 1 }).accepted 2 = false ∧
    (Instr.qupd vaddArgs).vop? = some (.qupd, vaddArgs) ∧ 0x70 ≤ VOp.qupd.code.toNat ∧ VOp.qupd.code.toNat ≤ 0x7C := by decide

/-- R78: the spec's worked example of R76: 1.0, 2.0 and 4.0 into an EMPTY triple. -/
theorem test_qupdate_example : qupdate ⟨0x40000000, 0x3FC00000, 0x3F000000⟩ 0x40800000 0x3F800000 =
    (⟨0x40400000, 0x40155556, 0x40955554⟩, 0) ∧
    qupdate Triple.empty 0x3F800000 0x3F800000 = (⟨0x3F800000, 0x3F800000, 0⟩, 0) := by decide +kernel
theorem test_qmerge_invalid : qmerge Triple.invalid Triple.empty = (Triple.invalid, 0) ∧
    qmerge Triple.empty ⟨0x3F800000, 5, 7⟩ = (⟨0x3F800000, 5, 7⟩, 0) ∧
    qmerge ⟨0x7F7FFFFF, 0, 0⟩ ⟨0x7F7FFFFF, 0, 0⟩ = (Triple.invalid, 1) := by decide +kernel
/-- `TriplesFollowTheirRules`: a triple of each class, and the boundary words of W. -/
theorem witness_triples : qclass ⟨0x00000001, 0, 0⟩ = .normal ∧ qclass ⟨0x7F7FFFFF, 0, 0⟩ = .normal ∧
    qclass ⟨0x7F800000, 0, 0⟩ = .invalid ∧ qclass ⟨0x80000001, 0, 0⟩ = .invalid ∧ qclass ⟨0xFFFFFFFF, 0, 0⟩ = .invalid ∧
    qclass ⟨0, 9, 9⟩ = .empty ∧ qclass ⟨0x80000000, 9, 9⟩ = .empty := by decide +kernel

/-! ### Witnesses: Mint -/

def clearLatchCmd : MintCmd :=
  { id := 4, op := { kind := .clearLatch, l := 2 }, params := [], c := 0, card := 0, baddr := 0x1040, started := true }
def streamCmd : MintCmd :=
  { id := 5, op := { kind := .stream, fa := .int8, fb := .int8 }, params := [0, 0, 0], c := 0, card := 0, baddr := 0x1040 }

/-- A started command of a kind, with every parameter 0 but those given. -/
def begunCmd (op : MintOp) (p : List Dword := []) : MintCmd :=
  { id := 5, op, params := p, c := 0, card := 0, baddr := 0x1040, started := true }

/-- Core 0 halted for card 0, whose kernel has still to claim the Mint. -/
def unclaimed : State :=
  (demo.modCard 0 fun x => { x with dw := (1 <<< 63) :: x.dw.tail }).modCore 0 fun q =>
    { q with claims := [{ c := 1, v := [], q := [], flags := [], rings := [] }] }

theorem witness_mintQueue :
    mintForm (.mclearLatch always 2) = some (always, { kind := .clearLatch, l := 2 }, 0) ∧
    mintFeatures (seen demo) { kind := .clearLatch, l := 2 } ∧
    MintOp.check { kind := .clearLatch, l := 2 } ((seen demo).core 0) ((seen demo).ctx 0 0) [] true = none ∧
    (seen demo).mintUnclaimed 0 0 = false ∧ (seen unclaimed).mintUnclaimed 0 0 = true ∧ ((seen demo).core 0).mint.queue.length < 32 ∧
    32 ≤ (List.replicate 32 clearLatchCmd).length :=
  ⟨rfl, ⟨fun h => absurd h (by decide), fun _ => by decide⟩, by decide, by decide, by decide, by decide⟩
theorem witness_mintChecks :
    MintOp.check { kind := .clearAcc } ((seen demo).core 0) ((seen demo).ctx 0 0) [] true = some (.latchMode, 0) ∧
    ({ kind := .sig false } : MintOp).usesSig = true ∧ ({ seen demo with featAcc := 1 }).accepted 1 = false ∧
    ({ kind := .latch false, fb := .lns6 } : MintOp).usesSig = false := by decide
theorem witness_mscale : mscaleAt ((seen demo).ctx 0 0) 511 + 8 ≤ (((seen demo).ctx 0 0).window .wb).limit ∧
    ((seen demo).core 0).poisonedAt .wb (mscaleAt ((seen demo).ctx 0 0) 511) 8 = none ∧
    (((seen demo).ctx 0 0).window .wb).limit < mscaleAt ((seen demo).ctx 0 0) 512 + 8 := by decide

/-- `MintCommandsRetire`: a command of each kind has its operands; two 1 × 1 tiles of a drain do not lie over each other; a
ring that has ended gives none. -/
theorem witness_mintResult :
    (∀ k ∈ [MintKind.mode true, .latch false, .latch true, .stream, .outer, .sig false, .sig true, .drain false, .drain true, .fold,
        .spill false, .spill true, .clearAcc, .clearLatch],
      ({ kind := k } : MintOp).take (demo.core 0) = .slot ∧
        (begunCmd { kind := k } [0, 0, 0, 0, 0, 0, 0]).readsPoison (demo.core 0) = false) ∧
    ({ kind := .drain false } : MintOp).drainEnded (demo.core 0) [] = false ∧
    ({ kind := .stream, ring := some 1 } : MintOp).take
      ((demo.modCore 0 fun q => { q with rings := [(1, { ring1 with valid := false })] }).core 0) ≠ .slot := by
  decide +kernel

/-- `MintCommandsRetire`, of a drain with every output: a 1 × 1 tile at AB 0, its transposed copy at 64, its triple at 128, and
COLSTAT at CB 4,096. -/
def drainParams : List Dword := [0x6300000000, 0, 0x10000, 0x0002000000400000]
theorem witness_drained :
    let op : MintOp := { kind := .drain false, fa := .bf16, fb := .fp32 }
    let d := drainRec drainParams
    let out := plainAreas op d 0 ++ transAreas op d ++ drainWrites d
    out.length = 4 ∧ op.drainEnded (demo.core 0) drainParams = false ∧ d.ring = none ∧
      out.Pairwise (fun a b => a.meets b = false) ∧
      (∀ a ∈ drainWrites d, ∀ b ∈ drainReads op drainParams d, a.meets b = false) ∧
      ∀ n, n < d.nlen → (demo.core 0).poisonedAt .cb (d.qaddr + 12 * n) 12 = none := by decide +kernel

/-- `MintCommandsRetire`, of `msig` and `mfold`: outputs apart. -/
theorem witness_sigFold :
    (begunCmd { kind := .sig false, fa := .int8 }).progress < (streamRec (param [] 2)).mrows ∧
    (⟨.wb, 0, 1⟩ : Area).meets ⟨.wb, 64, 16⟩ = false := by decide

def mintDemo (l : List MintCmd) : State := demo.modCore 0 fun q => { q with mint := { q.mint with queue := l } }
theorem witness_mintStart : ((mintDemo [clearLatchCmd, streamCmd]).core 0).mint.queue = [clearLatchCmd] ++ streamCmd :: [] ∧
    (∀ x ∈ [clearLatchCmd], x.id ≠ streamCmd.id) ∧ streamCmd.started = false ∧
    (∀ x ∈ [clearLatchCmd], x.op.unit ≠ streamCmd.op.unit) ∧ streamCmd.ringReady ((mintDemo []).core 0) = true ∧
    ((mintDemo [{ streamCmd with id := 1 }, streamCmd]).core 0).mint.queue = [{ streamCmd with id := 1 }] ++ streamCmd :: [] ∧
    ({ kind := .mode true } : MintOp).kind = .mode true := by decide
theorem witness_mintRetire : ((mintDemo [clearLatchCmd]).core 0).mint.queue = [] ++ clearLatchCmd :: [] ∧
    (∀ x ∈ ([] : List MintCmd) ++ [], x.id ≠ clearLatchCmd.id) ∧ clearLatchCmd.started = true ∧ clearLatchCmd.op.ring = none ∧
    clearLatchCmd.readsPoison ((mintDemo [clearLatchCmd]).core 0) = false ∧ clearLatchCmd.op.kind = .clearLatch := by
  decide
theorem witness_streamRetire : ((mintDemo [{ streamCmd with started := true }]).core 0).mint.queue =
      [] ++ { streamCmd with started := true } :: [] ∧
    ({ streamCmd with started := true } : MintCmd).op.kind = .stream ∧
    ({ streamCmd with started := true } : MintCmd).readsPoison ((mintDemo []).core 0) = false := by decide +kernel

/-! ### Witnesses: the copy and sync slots -/

/-- `dcopy.rd` with the all-zero window record passes its checks, and there is room for it. -/
def copyJob : Issue := { kind := .copy false, ch := 3, xa := 7 }
theorem witness_copyCommand : ∃ j, commandForm ((seen demo).ctx 0 0) (.dcopyRd always false 3 0 0) = some (4, always, j, none) ∧
    CommandPasses (seen demo) (partyOfCtx (seen demo) 0 0) j [] ∧ HasRoom ((seen demo).core 0) j := by
  refine ⟨_, rfl, ⟨fun _ => by decide +kernel, by decide +kernel, by decide +kernel, by decide +kernel, fun _ => by decide +kernel, rfl⟩,
    by decide, fun wr h => by cases h⟩
theorem witness_noRoom : ¬ HasRoom
    { (seen demo).core 0 with
      transfers := List.replicate 512
        { ch := 0, id := 0, kind := .push, by_ := .ctx 0 0, baddr := 0, card := 0, notify := 0, order := 0 } } copyJob :=
  fun h => absurd h.1 (by decide)
theorem witness_commandFaults : (∃ j, commandForm ((seen demo).ctx 0 0) (.dtcopyWr always true 3 0 5 6) = some (5, always, j, some 4)) ∧
    recFault (((seen demo).ctx 0 0).wrec 0 ||| 1 <<< 767) (.copy false) true ≠ none ∧
    ({ copyJob with xa := -1 } : Issue).wordsBad = true ∧
    ({ copyJob with xa := 0x2000 } : Issue).outside (seen demo) (partyOfCtx (seen demo) 0 0) ≠ none ∧
    ({ kind := .push, ch := 0, h := 0 } : Issue).ringBad (seen demo) (partyOfCtx (seen demo) 0 0) = true :=
  ⟨⟨_, rfl⟩, by decide +kernel, by decide +kernel, by decide +kernel, by decide +kernel⟩

theorem witness_wset : wsetBits 0 = (0, 64) ∧ wsetBits 3 = (192, 56) ∧ wsetBits 4 = (248, 40) ∧ wsetBits 14 = (728, 40) := by decide

/-- `rdesc`: a legal descriptor (the one of ring 1), an illegal one, and one whose region leaves its window. -/
theorem witness_rdesc : ringUnpack ring1.pack (((seen demo).core 0).ring 1) = some ring1 ∧
    ringUnpack (-1) (((seen demo).core 0).ring 1) = none ∧ ring1.valid = true ∧ ring1.regionOut ((seen demo).ctx 0 0) = none ∧
    ({ ring1 with base := 4032 } : Ring).regionOut ((seen demo).ctx 0 0) ≠ none := by decide +kernel

theorem witness_fwait : ((seen demo).ctx 0 0).taken = none ∧ ((seen demo).ctx 0 0).timedOut = false ∧
    countOf ((seen demo).ctx 0 0) (.imm 5) ≤ ((seen demo).core 0).flag 2 ∧
    ((seen demo).core 0).flag 2 < countOf ((seen demo).ctx 0 0) (.reg 5) := by decide
theorem witness_fpost : (∀ p ∈ ((seen demo).core 0).stores, p.c ≠ 0) ∧
    ∃ p ∈ ((seen draining).core 0).stores, p.c = 0 ∧ p.ord < ((seen draining).core 0).storeCtr ∧ p.performedAt .die = false := by
  decide

/-- Ring 1 of `demo` holds two slots of four: both parties are context 0. -/
theorem witness_rings : MayConsume (((seen demo).core 0).ring 1) 0 ∧ MayProduce (((seen demo).core 0).ring 1) 0 ∧
    consumerReady (((seen demo).core 0).ring 1) 2 ∧ ¬ consumerReady (((seen demo).core 0).ring 1) 3 ∧
    (((seen demo).core 0).ring 1).slots.toNat + 1 = 4 ∧ (((seen demo).core 0).ring 1).fill.toNat = 2 ∧
    ¬ MayConsume (((seen demo).core 0).ring 0) 0 ∧ ¬ MayProduce (((seen demo).core 0).ring 1) 1 := by
  unfold MayConsume MayProduce consumerReady
  decide

/-- R26: two filled slots, the second of them the end-of-stream slot: a wait for four completes, reports one data slot and
the end. -/
theorem test_consumerReport : consumerReport { ring1 with eosp := true, eosSlot := some 1 } 4 = 0x100000001 := by decide

theorem witness_dwait :
    (((seen demo).core 0).chan 3).next - (((seen demo).core 0).chan 3).low = 0 ∧
    ¬ (((seen demo).ctx 0 0).readX 5).toNat < (((seen demo).core 0).chan 3).low.toNat ∧
    (((seen demo).ctx 0 0).readX 0).toNat < ({ next := 4, low := 1 } : Chan).low.toNat ∧
    ¬ (({ next := 4, low := 1 } : Chan).next - ({ next := 4, low := 1 } : Chan).low).toNat ≤ (2 : BitVec 13).toNat := by decide

/-! ### Witnesses: traps, landing, issue, selection -/

theorem witness_raise : (demo.ctx 0 0).inHandler = false ∧ hvalid (demo.handler 0 0) = false ∧
    (inHandler.ctx 0 0).inHandler = true := by decide

def flight5 (r : Nat) (fl tr : BitVec 5) : Flight :=
  { dest := .x 5, val := .dword 9, r, flags := fl, traps := tr, baddr := 0x1040, slot := 0, seq := 1 }
def landing (fl tr : BitVec 5) : State :=
  demo.modCtx 0 0 fun x => { x with flights := [flight5 4 0 0, flight5 1 fl tr, flight5 2 0 0] }
theorem witness_landing : AtBoundary (landing 16 0) 0 0 ∧
    OneDue (landing 16 0) 0 0 [flight5 4 0 0] (flight5 1 16 0) [flight5 2 0 0] ∧
    OneDue (landing 1 1) 0 0 [flight5 4 0 0] (flight5 1 1 1) [flight5 2 0 0] ∧ (flight5 1 16 0).flags &&& (flight5 1 16 0).traps = 0 ∧
    (flight5 1 1 1).flags &&& (flight5 1 1 1).traps ≠ 0 ∧ ((landing 1 1).ctx 0 0).fpPend = none :=
  ⟨⟨by decide, rfl, rfl, by decide, rfl, rfl⟩, ⟨by decide, rfl, by decide, by decide, by decide, rfl⟩,
    ⟨by decide, rfl, by decide, by decide, by decide, rfl⟩, by decide, by decide, rfl⟩

theorem witness_oneSlot : ∃ u, demo.focus = .core 0 ∧ demo.issuer 0 = some 0 ∧ demo.boundary 0 0 = .go u ∧
    u.fetch 0 0 (u.ctx 0 0).pc = .ok 0 ∧ soleInstr 0 (u.ctx 0 0) = some .nop :=
  ⟨_, rfl, by decide, rfl, by decide +kernel, rfl⟩
/-- An all-zero bundle that ends level 1, whose loop is active. -/
theorem witness_loopEnd : BitVec.ofNat 256 (4 + 8 * (1 : BitVec 3).toNat) = 0xC ∧ (1 : BitVec 3).toNat < 6 ∧
    (((demo.modCtx 0 0 fun x => x.setLoop 1 { act := true, start := 0x82, bound := 3, count := 1 }).ctx 0 0).loop 1).act = true := by
  decide
theorem witness_yield : ∃ u, demo.boundary 0 0 = .go u ∧ (u.ctx 0 0).drain = none ∧ (u.ctx 0 0).start = 0 ∧
    (u.ctx 0 0).parked = false ∧ (u.ctx 0 0).taken = none ∧ (u.ctx 0 0).timedOut = false ∧ (u.ctx 0 0).inHandler = false ∧
    (u.ctx 0 0).flights = [] ∧
    slotWord (((0x04080007#32 : BitVec 32) ++ (1#16 : BitVec 16)).setWidth 256) (u.ctx 0 0) 6 = some (.ok (.fwait 2 (.imm 7) .core)) ∧
    (u.core 0).flag 2 < countOf (u.ctx 0 0) (.imm 7) :=
  ⟨_, rfl, rfl, rfl, rfl, rfl, rfl, by decide, rfl, rfl, by decide⟩

/-- Contexts 2 and 5 of core 0 are READY, with equal priority; context 3 issued last. -/
def choosing : State :=
  { State.reset with
    cores := [(0, { ctxs := [(2, { st := .ready }), (5, { st := .ready })], lastIssued := some 3 })] }
theorem witness_select : (choosing.core 0).run = none ∧ (∀ c, c < 8 → (choosing.ctx 0 c).timedOut = false) ∧
    (choosing.ctx 0 5).st = .ready ∧ (choosing.ctx 0 5).declined = none ∧ (choosing.ctx 0 5).pend = false ∧
    turnOf (choosing.core 0) 5 < turnOf (choosing.core 0) 2 ∧
    choosing.timebase.toNat - (choosing.ctx 0 5).readyAt ≤ Tab.get 0x1000 (choosing.die 0).disp.yage 0 := by
  refine ⟨rfl, ?_, rfl, rfl, rfl, by decide, by decide⟩
  intro c hc
  match c, hc with
  | 0, _ | 1, _ | 2, _ | 3, _ | 4, _ | 5, _ | 6, _ | 7, _ => rfl
/-- R37: round-robin: after context 3 comes context 5, then context 2. -/
theorem test_select : ∃ u, exec (.contextSelect 0) choosing = .next u ∧ (u.core 0).run = some 5 := ⟨_, rfl, by decide⟩

/-- A handler that may be entered, and a wait whose count is taken. -/
theorem witness_raise_enters : hvalid ((demo.modCard 0 fun x => x).handler 0 0) = false ∧
    hvalid 0x1061 = true ∧
    ((demo.modCtx 0 0 fun x => { x with taken := some (2, 5) }).ctx 0 0).taken = some (2, 5) := by decide

/-- A single instruction stalls at core 0: a flag wait, a ring read, a global load, a Mint command, a copy command. -/
def stalled (w : BitVec 256) (h : Hold) (s : State := demo) : State :=
  (s.writeModule ((List.range 32).zip (leBytes 32 w.toNat) |>.map fun x => (3 * 65536 + 0x1040 + x.1, x.2))).modCore 0 fun q =>
    { q with hold := some h }
/-- `mmode.ws` in the `m` slot. -/
def mmodeWord : BitVec 256 := 0x04000000#256 <<< 160
def fwaitWord : BitVec 256 := (0x04080005#32 ++ 0#16).setWidth 256
theorem witness_retries :
    (∃ u, (stalled fwaitWord .sync).issuer 0 = some 0 ∧ (stalled fwaitWord .sync).boundary 0 0 = .go u ∧
      u.fetch 0 0 (u.ctx 0 0).pc = .ok fwaitWord ∧ soleInstr fwaitWord (u.ctx 0 0) = some (.fwait 2 (.imm 5) .core) ∧
      (u.core 0).flag 2 = 5) ∧
    (∃ u, (stalled mmodeWord .mintQueue).boundary 0 0 = .go u ∧
      (soleInstr mmodeWord (u.ctx 0 0)).isSome = true) := by
  refine ⟨⟨_, by decide, rfl, by decide +kernel, ?_, by decide⟩, ⟨_, rfl, ?_⟩⟩ <;> decide +kernel

/-- A core that fills for an exit stalls for nothing. -/
theorem witness_retryFill :
    let v := demo.modCtx 0 0 fun x => { x with phase := .exitFill, exitStatus := 3 }
    v.issuer 0 = some 0 ∧ (v.core 0).hold = none ∧ (v.ctx 0 0).phase = .exitFill ∧ (v.ctx 0 0).haltReq = false ∧
      ∀ x ∈ (v.core 0).ctxs, x.2.flights = [] := by decide

theorem witness_stall : RetryOf 0 .pool (.transferPoolFree (.core 0)) ∧ RetryOf 0 (.ring 1) (.ringAccessResume 0) :=
  ⟨rfl, rfl⟩

/-- Context 1 of core 0, which does not run, is parked at `fwait f2, 5`. -/
def parkedDemo : State :=
  let s := (demo.writeModule ((List.range 8).zip (leBytes 8 0x040800050001) |>.map fun x => (3 * 65536 + 0x1040 + x.1, x.2)))
  s.modCtx 0 0 fun x => { x with st := .waiting, parked := true }
theorem witness_parked : (parkedDemo.ctx 0 0).st = .waiting ∧ (parkedDemo.ctx 0 0).parked = true ∧
    parkedDemo.yInstr 0 0 = some (.fwait 2 (.imm 5) .core) ∧
    countOf (parkedDemo.ctx 0 0) (.imm 5) ≤ (parkedDemo.core 0).flag 2 ∧
    rankedFirst (parkedDemo.core 0) 2 (parkedDemo.beforeParked 0 0) = false ∧ (parkedDemo.ctx 0 0).timedOut = false ∧
    (parkedDemo.ctx 0 0).taken = none := by decide +kernel

/-- `WaitsTimeOut`: a hand that has waited, and a stalled `fwait` short of its count. -/
theorem witness_timeoutHand :
    ({ (handDemo.hand 0 .load) with waitAt := some 0 } : Hand).waitAt = some 0 ∧ (handDemo.hand 0 .load).running = true ∧
    (∃ u, (stalled ((0x04080006#32 ++ 0#16).setWidth 256) .sync demo2).boundary 0 0 = .go u ∧
      soleInstr ((0x04080006#32 ++ 0#16).setWidth 256) (u.ctx 0 0) = some (.fwait 2 (.imm 6) .core) ∧
      (u.core 0).flag 2 < 6 ∧ (u.ctx 0 0).taken = none) := ⟨rfl, rfl, _, rfl, rfl, by decide, rfl⟩

theorem witness_timeouts : (demo2.cardOf 0 0).wdwait = some 20480 ∧ 20480 < (20481 : Dword).toNat - 0 ∧ (demo.cardOf 0 0).wdwait = none := by
  decide
theorem witness_performs : (draining.core 0).stores[0]? =
      some { c := 0, card := 0, bytes := [(9, 1)], va := 9, level := .core, need := none, ord := 0, direct := false } ∧
    draining.poison = [] ∧ (draining.core 0).stores.Nodup ∧ draining.rowHeld [9] = none ∧
    ({ draining with
      units := [(0, { holds := [.vault 1 2] })] } : State).rowHeld [2 ^ 39 + 2 ^ 38 + 2 * 4096] = some (.vault 1 2) ∧
    ((draining.modDie 1 fun d => { d with l2 := [(9, 4)] }).die 1).l2 = [(9, 4)] :=
  ⟨rfl, rfl, by decide, by decide +kernel, by decide +kernel, rfl⟩
theorem witness_records : ({ demo with recQueue := [(0, 0, 0, { cause := .remoteError, trap := true, src := 0, ch := 0, id := 1, baddr := 0, pay := [] })] }
    : State).recQueue[0]?.isSome = true ∧ (demo.ctx 0 0).st ≠ .idle ∧ (demo.ctx 0 0).card = some 0 ∧ (demo.ctx 0 1).st = .idle := by
  decide

/-! ### Witnesses: hands -/

theorem witness_hand : HandRuns handDemo 0 .load ∧
    rvValue handDemo 0 .load (handDemo.hand 0 .load) 4 (.opImm .addi 6 5 3) = some (6, 4, 4) ∧
    (handDemo.hand 0 .load).readX 5 + (0xFFF : BitVec 12).signExtend 64 = 0 := ⟨⟨rfl, rfl⟩, rfl, rfl⟩
theorem witness_handMemory : inInstrs 0xFFF8 8 ∧ ¬ inInstrs 0xFFF9 8 ∧ inScratch 0x10000 1 ∧ inScratch 0x17FF8 8 ∧
    ¬ inScratch 0x17FF9 8 ∧ ¬ inScratch 0xFFFF 1 := by
  unfold inInstrs inScratch
  decide
theorem witness_handWaits : HandConsumes { ring1 with cons := roleRing .load } .load ∧
    HandProduces { ring1 with prod := roleRing .load } .load ∧ ¬ HandConsumes ring1 .load ∧
    (handDemo.core 0).flag 1 < ((handDemo.hand 0 .load).readX 5).toNat ∧
    rankedFirst (handDemo.core 0) 0 (handDemo.beforeHand 0 .load) = false ∧
    (∀ x ∈ (handDemo.hand 0 .load).issued, (handDemo.core 0).findTransfer x.1 x.2 = none) := by
  unfold HandConsumes HandProduces
  decide
/-- `HandCommandsEnterTheTransferPool`: a `dwait` syllable is outside both ranges; `dcopy` (OP 3) and `tgather` (OP 10) are
the lowest of theirs. -/
theorem witness_handCommands : ((0x20000000 : Dword).extractLsb' 26 6).toNat = 8 ∧ ((0x0C000000 : Dword).extractLsb' 26 6).toNat = 3 ∧
    ((0x28000000 : Dword).extractLsb' 26 6).toNat = 10 ∧
    decodeC false ((0x0CC48000 : Dword).extractLsb' 0 32) = .ok (.dcopyRd always false 3 0 9) := ⟨rfl, rfl, rfl, rfl⟩
theorem witness_handRetry : ∃ u, decodeH 0x0003848B = .ok (.hDcmd 9 7) ∧
    exec (.hDcmd 9 7) { State.reset.place 32 0x0003848B with focus := .hand 0 .load } = .next u ∧
    ((State.reset.place 32 0x0003848B).hand 0 .load).fetch = .ok 0x0003848B := ⟨_, rfl, rfl, rfl⟩


/-! ### Witnesses: row units, tables, channels, the Till -/

/-- A table of 16 rows of two FP32 columns, its home in page 0, one state row and one state scalar in page 1. -/
def tabDesc : BitVec 256 := BitVec.ofNat 256 (1 + 2 ^ 10 + 2 ^ 15 + 2 ^ 17 + 16 * 2 ^ 128 + 65536 * 2 ^ 192)
def pooledItem : Item := { kind := .gatherRow, bag := 0, poss := [⟨0, 3, 0x3F800000⟩, ⟨1, 5, 0x40000000⟩], grad := [], unit := .vault 0 0 }
def coalesced : Item := { kind := .update, bag := 0, poss := [⟨0, 3, 0x3F800000⟩], grad := [1, 2], unit := .vault 0 0 }
def tableCmd : TblCmd :=
  { src := .transfer 0 2 7, kind := 0, table := 0, prog := 0x10, mode := .sum, seqm := false, wen := false, eos := true
    fence := true, nidx := 2, nbags := 1, consts := [10, 11, 12, 13, 14, 15], trap := false, by_ := .ctx 0 0, baddr := 0, card := 0
    ch := 2, id := 7, ring := some (0, 3), idxs := [3, 5], wts := [], offs := [0, 2], grads := [], order := 4 }
/-- Page 1 in frame 4, as page 0 readable and writable; Vault 0 holds these commands, and unit 0 of it runs an item. -/
def tables (cmds : List TblCmd) (u : RowUnit) : State :=
  let s := demo.writeModule ((List.range 8).zip (leBytes 8 (4 * 65536 + 0x33)) |>.map fun x => (131080 + x.1, x.2))
  { s with
    vaults := [(0, { registry := [(0, tabDesc)], cmds, arrivals := 9 })]
    units := [((UnitId.vault 0 0).key, u)]
    focus := .unit (.vault 0 0) }
def gathering : State := tables [{ tableCmd with started := true, items := [pooledItem] }] { item := some (0, 4, 0), s := [(5, 1), (6, 7)] }
def gatherEnv : RowEnv :=
  { u := .vault 0 0, v := 0, cmd := { tableCmd with started := true, items := [pooledItem] }, it := 0, item := pooledItem, slot := 0
    desc := tabDesc }
def updating : State :=
  tables [{ tableCmd with kind := 1, started := true, items := [coalesced] }]
    { item := some (0, 4, 0), pos := some 0 }
def updateEnv : RowEnv := { gatherEnv with cmd := { tableCmd with kind := 1, started := true, items := [coalesced] }, item := coalesced }

theorem unit_gathering : UnitRuns gathering (.vault 0 0) gatherEnv := ⟨rfl, by decide +kernel, rfl, by decide, by decide⟩
theorem unit_updating : UnitRuns updating (.vault 0 0) updateEnv := ⟨rfl, by decide +kernel, rfl, by decide, by decide⟩

theorem witness_rowOps : (rowLanesOf gatherEnv (gathering.unit (.vault 0 0)) (.rowAdd 1 2 3)).isSome = true ∧
    (rowScalarOf gatherEnv (gathering.unit (.vault 0 0)) (.rowMovi 0 5)) = some (0, 5) ∧
    (rowScalarOf gatherEnv (gathering.unit (.vault 0 0)) (.rowLdc 1 5)) = some (1, 15) ∧
    (rowTriplesOf gatherEnv (gathering.unit (.vault 0 0)) (.rowQnew true)).isSome = true := by
  exact ⟨rfl, rfl, rfl, rfl⟩

/-- `next`: the first position of the gather item, no position after the only one of the update, a channel that waits, and one
that another unit reads. -/
theorem witness_rowControl : gatherEnv.item.poss[nextPos (gathering.unit (.vault 0 0))]? = some ⟨0, 3, 0x3F800000⟩ ∧
    gathering.rowChans 0 0 3 ≠ [] ∧
    (∀ ch ∈ gathering.rowChans 0 0 3, gathering.turnPending ch = false ∧ gathering.readBusy (.vault 0 0) ch = false) ∧
    (∃ ch ∈ (gathering.setChan (.stack 0 5) { pending := [0] }).rowChans 0 0 3,
      (gathering.setChan (.stack 0 5) { pending := [0] }).turnPending ch = true) ∧
    (∃ ch ∈ (gathering.setChan (.stack 0 5) { reader := some (.vault 0 1, 1000000) }).rowChans 0 0 3,
      (gathering.setChan (.stack 0 5) { reader := some (.vault 0 1, 1000000) }).readBusy (.vault 0 0) ch = true) ∧
    updateEnv.item.poss[nextPos (updating.unit (.vault 0 0))]? = none ∧
    (gathering.unit (.vault 0 0)).readS 5 = 1 ∧ (gathering.unit (.vault 0 0)).readS 6 ≠ 1 := by
  decide +kernel

/-- `HaltEndsTheItem`: of an update and of a gather, with no poison and with a poisoned sector read. -/
theorem witness_rowHalt : (updating.unit (.vault 0 0)).poison = none ∧
    ({ updating.unit (.vault 0 0) with poison := some 9 } : RowUnit).poison = some 9 ∧ updateEnv.upd = true ∧
    gatherEnv.upd = false := by decide +kernel

/-- Loads: before the first `next`; waiting for sectors; and the row, the one state row and the one state scalar. -/
theorem witness_rowLoads : gatherEnv.row (gathering.unit (.vault 0 0)) = none ∧
    updateEnv.row (updating.unit (.vault 0 0)) = some 3 ∧ (updating.unit (.vault 0 0)).rowDue = none ∧
    (updating.unit (.vault 0 0)).stateDue = none ∧ ({ rowDue := some 3, stateDue := some 4 } : RowUnit).rowDue.isSome = true ∧
    ({ rowDue := some 3, stateDue := some 4 } : RowUnit).stateDue.isSome = true ∧
    updating.readLanes 0 0 3 (seenStores updating updateEnv) = .ok ([0, 0], none) ∧ descNsr tabDesc = 1 ∧ descNss tabDesc = 1 ∧
    updating.stateWords updateEnv 3 0 2 = .ok ([0, 0], none) ∧ updating.stateWords updateEnv 3 8 1 = .ok ([0], none) := by
  decide +kernel
theorem witness_rowStores :
    (rowStored updating updateEnv (updating.unit (.vault 0 0)) 3 (.rowStss 0 1)).map
      (fun x => match x with | .ok l => l.length | _ => 1) = some 0 ∧
    (rowStored updating updateEnv (updating.unit (.vault 0 0)) 3 (.rowStss 0 0)).map (fun x => match x with | .ok l => l.length | _ => 0) =
      some 56 ∧
    (rowStored updating updateEnv (updating.unit (.vault 0 0)) 3 (.rowStq 2)).map (fun x => match x with | .ok l => l.length | _ => 0) =
      some 64 := by decide +kernel

/-- R242: 1.5 + 2.25 in a lane; R244: a loop that counts 7 down branches. -/
theorem test_rowLoop : ∃ r, exec (.rowLoop 6 9) gathering = .next (gathering.setUnit (.vault 0 0) r) ∧ r.pc = 9 ∧ r.readS 6 = 6 :=
  ⟨_, rfl, by decide, by decide⟩

/-- The transfer of a `tgather` on channel 2 of core 0: two indices at 0 of the W-buffer, offsets at 64. -/
def tableTransfer : Transfer :=
  { ch := 2, id := 7, kind := .tgather, by_ := .ctx 0 0, baddr := 0, card := 0, notify := 0, order := 3, started := true
    recd := [0, 0x0000000100000002, 0, 64, 0, 0, 0, 0] }
def withTransfers (s : State) (l : List Transfer) : State := s.modCore 0 fun q => { q with transfers := l }
theorem witness_tableArrival :
    ((withTransfers (tables [] {}) [tableTransfer]).core 0).findTransfer 2 (BitVec.ofNat 64 7) = some tableTransfer ∧
    tableTransfer.kind.isTable = true ∧ tableTransfer.sent = false ∧ 0 = (tcTable tableTransfer.recd).toNat / 8192 ∧
    ((withTransfers (tables [] {}) [tableTransfer]).core 0).transfers.find?
      (fun x => decide (x.ch = 2) && x.kind.isTable && !x.sent) = some tableTransfer ∧
    ((withTransfers (tables [] {}) [{ tableTransfer with id := 6 }, tableTransfer]).core 0).transfers.find?
      (fun x => decide (x.ch = 2) && x.kind.isTable && !x.sent) ≠ some tableTransfer := by decide +kernel

/-- Ring 3: a Vault fills it, context 0 empties it; slots of 128 bytes. -/
def vaultRing : Ring := { slotsz := 1, slots := 3, prod := .vault, valid := true }
def starting (c : TblCmd) (before : List TblCmd) : State :=
  (withTransfers (tables (before ++ [c]) {}) [{ tableTransfer with sent := true }]).modCore 0 fun q => { q with rings := [(3, vaultRing)] }
theorem witness_heldBack : ¬ HeldBack ((starting tableCmd []).vault 0) tableCmd ∧
    HeldBack ((starting tableCmd [{ tableCmd with kind := 1, order := 1, started := true }]).vault 0) tableCmd := by
  refine ⟨?_, .inl ⟨{ tableCmd with kind := 1, order := 1, started := true }, .head _, by decide, .inr ⟨rfl, rfl, rfl⟩⟩⟩
  rintro (⟨y, hy, ho, -⟩ | ⟨-, w, hw, -⟩)
  · cases hy with
    | head => exact absurd ho (by decide)
    | tail _ h => cases h
  · cases hw
/-- An update whose row 3 moves, and one that looks it up. -/
theorem witness_updateLookups :
    inTable { tableCmd with idxs := [3, 16, -1] } 16 = [0] ∧ outOfTable { tableCmd with idxs := [3, 16, -1] } 16 = [1, 2] ∧
    ({ moves := [{ table := 0, row := 3, way := 0, promote := true }] } : Vault).moving 0 3 = true ∧
    ((starting tableCmd []).vault 0).moving 0 3 = false := by decide
theorem witness_tableStart :
    ((starting tableCmd []).vault 0).cmds[0]? = some tableCmd ∧
    (starting tableCmd []).cmdBad 0 tableCmd none = false ∧
    (starting { tableCmd with table := 1 } []).cmdBad 0 { tableCmd with table := 1 } none = true ∧
    ((starting tableCmd []).core 0).findTransfer 2 7 = some { tableTransfer with sent := true } ∧
    (starting tableCmd []).readLists 0 tableCmd tableTransfer.recd =
      .ok { tableCmd with idxs := [0, 0], offs := [0, 0], wts := [], grads := [] } := by decide +kernel

theorem witness_itemStart :
    ((tables [{ tableCmd with started := true, items := [pooledItem] }] {}).unit pooledItem.unit).item = none ∧
    ({ tableCmd with started := true, items := [pooledItem] } : TblCmd).items[0]? = some pooledItem ∧ pooledItem.started = false ∧
    pooledItem.kind ≠ .update ∧ tableCmd.prog = 0x10 ∧
    unitOfItem (tables [] {}) 0 tableCmd pooledItem = .ok (.vault 0 0) ∧
    ((tables [{ tableCmd with kind := 1, order := 1, started := true, items := [coalesced] }] {}).vault 0).rowFree tableCmd 0 3 = false ∧
    RowIsFree (tables [] {}) 0 tableCmd 0 pooledItem ∧ RowIsFree (tables [] {}) 0 { tableCmd with kind := 1 } 0 coalesced := by
  refine ⟨by decide +kernel, by decide +kernel, by decide, by decide, rfl, by decide +kernel, by decide +kernel, ?_, ?_⟩
  · exact fun h => absurd h (by decide)
  · exact fun _ => by decide +kernel

/-- `ShippedProgramsServeTheirRows`: a row of a pooled item that is there and one that is not; the last position of it and one
before; an update's row and its bytes. -/
def shippedDemo (c : TblCmd) (p due : Nat) : State :=
  tables [c] { item := some (0, 4, 0), pos := some p, rowDue := some due, prog := some (c.prog.toNat, []) }
def shippedGather : TblCmd := { tableCmd with prog := 0, started := true, items := [{ pooledItem with kind := .gatherV }] }
def shippedUpdate : TblCmd := { tableCmd with kind := 1, prog := 1, started := true, items := [coalesced] }
theorem witness_shipped :
    (∃ e, (shippedDemo shippedGather 0 0).rowEnv (.vault 0 0) = some e ∧ e.upd = false ∧ e.item.poss.length = 2 ∧
      e.item.poss[1]? = some ⟨1, 5, 0x40000000⟩ ∧ e.item.poss[2]? = none ∧
      (shippedDemo shippedGather 0 0).readLanes e.v e.slot 3 [] = .ok ([0, 0], none)) ∧
    ((shippedDemo shippedGather 0 0).unit (.vault 0 0)).shipped = true ∧
    (∀ ch ∈ (shippedDemo shippedGather 0 0).rowChans 0 0 5, (shippedDemo shippedGather 0 0).turnPending ch = false ∧
      (shippedDemo shippedGather 0 0).readBusy (.vault 0 0) ch = false) ∧
    (∃ e ra sa, (shippedDemo shippedUpdate 0 0).rowEnv (.vault 0 0) = some e ∧ e.upd = true ∧
      (shippedDemo shippedUpdate 0 0).rowAddrs e.v e.slot 3 false .write = .ok ra ∧
      (shippedDemo shippedUpdate 0 0).rowAddrs e.v e.slot 3 true .write = .ok sa ∧ ra.length = 64 ∧ sa.length = 64 ∧
      ((shippedDemo shippedUpdate 0 0).vault e.v).writes = []) ∧
    Arrived (shippedDemo shippedGather 0 0) ((shippedDemo shippedGather 0 0).unit (.vault 0 0)) ∧
    ¬ Arrived (shippedDemo shippedGather 0 9) ((shippedDemo shippedGather 0 9).unit (.vault 0 0)) := by
  refine ⟨⟨_, rfl, by decide +kernel⟩, by decide +kernel, by decide +kernel, ⟨_, _, _, rfl, by decide, rfl, rfl, by decide +kernel⟩, ?_, ?_⟩
  · exact ⟨fun t h => by cases h; decide, fun t h => by cases h⟩
  · exact fun h => absurd (h.1 9 rfl) (by decide)
theorem witness_itemLimit :
    (tables [{ tableCmd with started := true, items := [pooledItem] }] { item := some (0, 4, 0), words := 65536 }).rowEnv
      (.vault 0 0) = some gatherEnv ∧
    65536 ≤ ((tables [] { words := 65536 }).unit (.vault 0 0)).words := by decide +kernel

def bag1 : Bag :=
  { mem := [⟨0, 3, 0x3F800000⟩], nmem := 1, poison := none, empty := false, split := false, looked := true, out := none, nanIn := false }
def bagCmd : TblCmd := { tableCmd with started := true, bags := [bag1], items := [{ pooledItem with done := true, out := some ([1, 2], false) }] }
theorem witness_bags :
    ((starting bagCmd []).vault 0).cmds[0]? = some bagCmd ∧ bagCmd.bags[0]? = some bag1 ∧ (∀ i ∈ bagCmd.items, i.bag = 0 → i.done = true) ∧
    (starting bagCmd []).slotShort bagCmd 2 false = false ∧ vaultRing.fill.toNat ≤ vaultRing.slots.toNat ∧
    ({ bagCmd with bags := [{ bag1 with out := some ([1, 2], false) }] } : TblCmd).bags[bagCmd.written]? =
      some { bag1 with out := some ([1, 2], false) } ∧
    ({ bagCmd with written := 1 } : TblCmd).bags.length = 1 ∧ bagCmd.eos = true ∧ bagCmd.nbags = 1 ∧
    (starting bagCmd []).cmdSpoilt bagCmd vaultRing = false ∧
    (starting bagCmd []).cmdSpoilt bagCmd { vaultRing with stampT := 1000 } = true ∧
    ({ bagCmd with bags := [{ bag1 with out := some ([1, 2], false), poison := some (0, 3) }] } : TblCmd).bags[bagCmd.written]?.map
      (·.poison.isSome) = some true ∧
    bagCmd.by_.ctx? = some (0, 0) ∧ ({ bagCmd with trap := true } : TblCmd).trap = true := by decide +kernel
theorem witness_fill : VaultMayFill vaultRing := ⟨rfl, rfl, rfl, by decide⟩
theorem witness_tableComplete : ({ bagCmd with written := 2 } : TblCmd).complete = true ∧ bagCmd.complete = false ∧
    ((starting { bagCmd with written := 2 } []).core 0).findTransfer 2 7 = some { tableTransfer with sent := true } := by decide +kernel

/-- R323, R324: a channel in each of its services, at cycle 1,000; a unit that holds it; a recent and no row write. -/
def chanDemo (x : ChanSvc) : State := { (State.reset.setChan (.vault 1 2) x) with timebase := 1000 }
theorem witness_channels :
    (chanDemo { pending := [7] }).chan (.vault 1 2) = { svc := .row, pending := [7] } ∧
    (∀ u ∈ (chanDemo { pending := [7] }).units, ChanId.vault 1 2 ∉ u.2.holds) ∧
    (∃ u ∈ ({ chanDemo {} with units := [(0, { holds := [.vault 1 2] })] } : State).units, ChanId.vault 1 2 ∈ u.2.holds) ∧
    ((chanDemo { svc := .switching, since := 920 }).chan (.vault 1 2)).svc = .switching ∧ 40 ≤ (1000 - 920) / 2 ∧ (1000 - 922) / 2 < 40 ∧
    256 ≤ (1000 - 488) / 2 ∧ (1000 - 489) / 2 < 256 ∧ ((chanDemo { due := true }).chan (.vault 1 2)).due = true ∧
    (chanDemo { svc := .switching, since := 920 }).emptied (.vault 1 2) = true ∧ 64 ≤ (1000 - 872) / 2 ∧ (1000 - 874) / 2 < 64 ∧
    920 - 860 ≤ 60 ∧ 60 < 920 - 859 ∧
    max (max 920 900) 0 + 76 ≤ 1000 ∧ 1000 < max (max 920 900) (921 + 4) + 76 ∧ 968 + 32 ≤ 1000 ∧ 1000 < 969 + 32 := by
  decide

/-- A Till of one set for table 0 of Vault 0; row 3 queued; row 2 resident where asked. -/
def tillWord : BitVec 192 := BitVec.ofNat 192 (1 + 2 ^ 72)
def tillDemo (full : Bool) : State :=
  let s := tables [] {}
  { s with
    vaults := [(0, { registry := [(0, tabDesc)], till := [(0, tillWord)], promo := [(0, 3)]
                     ways := if full then (List.range 8).map fun w => (wayKey 0 0 w, some (w + 4)) else [(wayKey 0 0 0, some 2)] })] }
theorem witness_till :
    (((tillDemo false).vault 0).promo[0]? = some (0, 3) ∧ tillEn (((tillDemo false).vault 0).tillEntry 0) = true ∧
      tillSets (((tillDemo false).vault 0).tillEntry 0) = 1 ∧ ((tillDemo false).vault 0).residentWay 0 3 = none ∧
      ((tillDemo false).vault 0).freeWay 0 3 = some 1 ∧
      (tillDemo false).homeAll 0 0 3 .read =
        .ok ((List.range 64).map (3 * 65536 + 192 + ·) ++ (List.range 64).map (4 * 65536 + 192 + ·)) ∧
      (tillDemo false).rowBusy 0 0 3 ((List.range 64).map (3 * 65536 + 192 + ·) ++ (List.range 64).map (4 * 65536 + 192 + ·) ++
        (tillDemo false).tillAddrs 0 0 3 1) = false ∧ ((tillDemo false).vault 0).moving 0 3 = false) ∧
    (((tillDemo true).vault 0).freeWay 0 3 = none ∧ ((tillDemo true).vault 0).victim 0 3 = some (0, 4)) := by decide +kernel
theorem witness_tillDone :
    ∃ home s2, (tillDemo false).homeAll 0 0 3 .write = .ok home ∧
      State.setResident ((tillDemo false).copyBytes home ((tillDemo false).tillAddrs 0 0 3 1)) 0 0 3 true = .ok s2 := ⟨_, _, rfl, rfl⟩
/-- No flush is pending of the Till's tables. -/
theorem witness_noFlush : ((tillDemo false).vault 0).flushes = [] ∧
    ({ table := 0, row := 3, way := 1, promote := true } : TillMove).table ∉ ((tillDemo false).vault 0).flushes := by decide
/-- `FlushAndScrub`: a sector of a stack and one of a Vault's channel; the period of reset; a channel in either service. -/
theorem witness_scrub : physDomain (64 * 3) = some 32 ∧ physDomain (64 * 2 ^ 33) = some 24 ∧ State.reset.scrubPeriod 24 = 1 ∧
    Tab.get 0 State.reset.scrubbed (2 ^ 33) = 0 ∧ State.reset.channelOf (64 * 2 ^ 33) = some (.vault 0 0) ∧
    (State.reset.chan (.vault 0 0)).svc ≠ .ordinary ∧
    ((State.reset.setChan (.vault 0 0) { svc := .ordinary }).chan (.vault 0 0)).svc = .ordinary := by decide +kernel
/-- A sector that a finished item has handed to its channel. -/
def handedWrite : RowWrite := { order := 4, it := 0, table := 0, row := 3, sector := 3076, bytes := [(3 * 65536 + 256, 1)] }
theorem witness_handedWrite :
    ({ (starting tableCmd []).vault 0 with writes := [handedWrite] } : Vault).readyWrite handedWrite = true ∧
    (handedWrite.bytes.map Prod.fst).Nodup ∧ NothingToRelease (starting bagCmd []) 0 { tableTransfer with sent := true } :=
  ⟨by decide +kernel, by decide, .inl (by decide)⟩

/-! ### Witnesses: the Dray -/

def copyIn : Transfer := { ch := 1, id := 5, kind := .copy true, by_ := .ctx 0 0, baddr := 0, card := 0, notify := 0, order := 1, xa := 64 }
def otherCopy : Transfer := { copyIn with id := 4, started := true }
theorem witness_flight : InFlight (withTransfers demo [otherCopy, copyIn]) 0 [otherCopy] copyIn [] ∧ NextOfChannel [otherCopy] copyIn :=
  ⟨⟨by decide, by decide⟩, ⟨by decide, by decide, by decide⟩⟩
theorem witness_starts : (((withTransfers demo [copyIn]).core 0).fenceMet copyIn = true ∧
      (withTransfers demo [copyIn]).timeReached copyIn = true) ∧
    (withTransfers demo []).timeReached { copyIn with kind := .tcopy false, xb := 5 } = false ∧
    (withTransfers demo []).timebase < ({ copyIn with kind := .tcopy false, xb := 5 } : Transfer).xb ∧
    ((demo.modCore 0 fun q =>
      { q with stores := [{ c := 0, card := 0, bytes := [(9, 1)], va := 9, level := .core, need := some .die, ord := 0, direct := false }] }).core
        0).fenceMet { copyIn with fenceOrd := 1 } = false ∧
    copyIn.kind.usesRing = false ∧ copyIn.kind ≠ .stage ∧ copyIn.kind ≠ .scatter true := by decide
/-- A push and a pop on ring 1 of `demo`, which holds two of four slots; the token at HEAD; an empty ring and a full one. -/
def pushOn1 : Transfer := { copyIn with kind := .push, ring := some (0, 1) }
def popOn1 : Transfer := { copyIn with kind := .pop, ring := some (0, 1) }
theorem witness_ringStarts : InFlight (withTransfers demo [pushOn1]) 0 [] pushOn1 [] ∧ NextOfChannel [] pushOn1 ∧
    pushOn1.ring = some (0, (1 : BitVec 4).toNat) ∧ pushOn1.kind.usesRing = true ∧ popOn1.kind.usesRing = true ∧
    (withTransfers demo [pushOn1]).ringFirst 0 pushOn1 = true ∧
    (withTransfers demo [{ pushOn1 with ch := 2, order := 0 }, pushOn1]).ringFirst 0 pushOn1 = false ∧
    ring1.eosc = false ∧ ring1.eosp = false ∧ ring1.fill ≠ 0 ∧ eosAt ring1 ≠ 0 ∧ eosAt { ring1 with eosSlot := some 0, eosp := true } = 0 ∧
    ring1.fill.toNat < ring1.slots.toNat + 1 ∧ ring1.slots.toNat + 1 ≤ ({ ring1 with fill := 4 } : Ring).fill.toNat := by
  refine ⟨⟨by decide, by decide⟩, ⟨by decide, by decide, by decide⟩, ?_⟩
  decide

/-- The window is one FP32 element at 0 of the W-buffer; the packed side at 64. One element outside the tensor, with and
without CLIP. -/
def outside (clip : Bool) : BitVec 768 := (0xFFFFF#768 <<< 212) ||| (if clip then 1 <<< 76 else 0)
def copyGo (wr : Bool) (w : BitVec 768) : Transfer := { copyIn with kind := .copy wr, wrec := w, started := true, xa := 64 }
theorem witness_moves : InFlight (withTransfers demo [copyGo true 0]) 0 [] (copyGo true 0) [] ∧ oneElement 0 ∧ oneElement (outside false) ∧
    recSpace 0 = .buf .wb ∧ recWa 0 none 0 = 0 ∧ recWa (outside true) none 0 = 0 ∧ recIn 0 none 0 = true ∧
    recIn (outside false) none 0 = false ∧ recClip (outside false) = false ∧ recIn (outside true) none 0 = false ∧
    recClip (outside true) = true ∧ recElem 0 = 4 ∧
    (withTransfers demo []).readPlace (.core 0) (dieOf 0) ((withTransfers demo []).card 0).asid (wordPlace 0 64) 4 = .ok [0, 0, 0, 0] ∧
    (withTransfers demo []).readPlace (.core 0) (dieOf 0) ((withTransfers demo []).card 0).asid (.buf 0 .wb 0) 4 = .ok [0, 0, 0, 0] ∧
    wordSp 64 = .buf .wb ∧ wordNbr 64 = false ∧ (withTransfers demo [copyGo true 0]).overlap 0 (copyGo true 0) = [] ∧
    (withTransfers demo [copyGo false 0]).overlap 0 (copyGo false 0) = [] ∧
    (withTransfers demo [{ copyGo true 0 with xa := 0 }]).overlap 0 { copyGo true 0 with xa := 0 } ≠ [] := by
  unfold oneElement
  refine ⟨⟨by decide, by decide⟩, ?_⟩
  decide +kernel
theorem witness_completes : ({ copyGo true 0 with moved := 1 } : Transfer).count ≤ 1 ∧ (copyGo true 0).kind.isData = true ∧
    ({ popOn1 with started := true, moved := 1 } : Transfer).count ≤ 1 ∧ popOn1.kind.isData = true ∧
    noteRemote (0x1F * 2 ^ 10 + 2 ^ 9 + 1) = true ∧ noteEn (0x1F * 2 ^ 10 + 2 ^ 9 + 1) = true ∧ noteRemote 3 = false ∧ noteEn 3 = true := by
  decide
/-- Two elements of the W-buffer's window at 0, the packed side at 64. -/
def copyTwo : Transfer := copyGo true (1 <<< 232 ||| 1 <<< 192 ||| 4 <<< 248)
theorem witness_movesMore : InFlight (withTransfers demo [copyTwo]) 0 [] copyTwo [] ∧
    ReadyToMove (withTransfers demo [copyTwo]) 0 copyTwo ∧ copyTwo.kind ≠ .scatter true ∧ recCount copyTwo.wrec = 2 ∧
    ∀ n, n < recCount copyTwo.wrec → Movable (withTransfers demo [copyTwo]) 0 copyTwo n := by
  have list n idx : ListEntry (withTransfers demo [copyTwo]) 0 copyTwo n idx → idx = none := by
    unfold ListEntry
    rw [if_neg (by decide)]
    exact id
  have none n : ListEntry (withTransfers demo [copyTwo]) 0 copyTwo n none := by
    unfold ListEntry
    rw [if_neg (by decide)]
  have toW : copyTwo.kind.toWindow = true := by decide
  have two : recCount copyTwo.wrec = 2 := by decide
  have place n (p : Place) l (hn : n < 2) (w : Writes (withTransfers demo [copyTwo]) 0 copyTwo n p l) :
      p = .buf 0 .wb (4 * n) ∧ l = [0, 0, 0, 0] := by
    obtain ⟨idx, e, w⟩ := w
    cases list n idx e
    rw [if_pos toW] at w
    obtain ⟨-, rfl, w⟩ := w
    obtain rfl | rfl : n = 0 ∨ n = 1 := by omega
    · exact ⟨by decide, (Acc.ok.inj ((by decide +kernel : reads (withTransfers demo [copyTwo]) 0 copyTwo
        (packedSide 0 copyTwo 0) (recElem copyTwo.wrec) = .ok [0, 0, 0, 0]).symm.trans w)).symm⟩
    · exact ⟨by decide, (Acc.ok.inj ((by decide +kernel : reads (withTransfers demo [copyTwo]) 0 copyTwo
        (packedSide 0 copyTwo 1) (recElem copyTwo.wrec) = .ok [0, 0, 0, 0]).symm.trans w)).symm⟩
  refine ⟨⟨rfl, by decide⟩, ⟨rfl, by decide, by decide, by decide, ⟨rfl, by decide +kernel⟩, fun _ _ h => by cases h⟩, by decide,
    two, fun n hn => ⟨⟨_, none n⟩, fun idx e _ => ?_, fun p l w => ?_, fun m p l hm w => ⟨fun _ _ _ => ?_, fun h => ?_⟩⟩⟩
  · rw [if_pos toW]
    obtain rfl | rfl : n = 0 ∨ n = 1 := by omega
    · exact ⟨[0, 0, 0, 0], by decide +kernel, by decide⟩
    · exact ⟨[0, 0, 0, 0], by decide +kernel, by decide⟩
  · obtain ⟨rfl, rfl⟩ := place n p l (two ▸ hn) w
    exact Int.mul_nonneg (by decide) (Int.natCast_nonneg n)
  · obtain ⟨rfl, rfl⟩ := place m p l (two ▸ hm) w
    rw [if_pos toW]
    intro _ _
    obtain rfl | rfl : n = 0 ∨ n = 1 := by omega
    · exact .inl (by have : m < 2 := hm; show (4 * (m : Int)).toNat + 4 ≤ 64; omega)
    · exact .inl (by have : m < 2 := hm; show (4 * (m : Int)).toNat + 4 ≤ 68; omega)
  · exact absurd h (by decide)
/-- Two list positions with one index: a combining scatter's row of one FP32 element; the list at 128, the packed side at 64. -/
def combTwo : Transfer :=
  { copyGo true (1 <<< 70 ||| 1 <<< 328) with kind := .scatter true, xb := 128 }
theorem witness_combines : InFlight (withTransfers demo [combTwo]) 0 [] combTwo [] ∧
    ReadyToMove (withTransfers demo [combTwo]) 0 combTwo ∧ recExt combTwo.wrec 1 = 2 ∧ recCount combTwo.wrec / 2 = 1 ∧
    recSpace combTwo.wrec = .buf .wb ∧ Fmt.ofCode (recFmt combTwo.wrec) = some .fp32 ∧
    (∀ j, j < 2 → ∃ l, reads (withTransfers demo [combTwo]) 0 combTwo ((wordPlace 0 combTwo.xb).plus (4 * j : Nat)) 4 = .ok l ∧
      (0 : Int) = (leWord l).toInt) ∧
    (∀ j r, j < 2 → r < 1 → reads (withTransfers demo [combTwo]) 0 combTwo
      (packedSide 0 combTwo (rowElement combTwo.wrec j r)) (recElem combTwo.wrec) = .ok [0, 0, 0, 0]) ∧
    FirstOfRow (fun _ => 0) 2 0 [0, 1] ∧ InTensor combTwo.wrec (some 0) (rowElement combTwo.wrec 0 0) ∧
    windowByte combTwo.wrec (some 0) (rowElement combTwo.wrec 0 0) = 0 := by
  refine ⟨⟨rfl, by decide⟩, ⟨rfl, by decide, by decide, by decide, ⟨rfl, by decide +kernel⟩, fun _ _ h => by cases h⟩, by decide,
    by decide, by decide, by decide, fun j hj => ⟨[0, 0, 0, 0], ?_⟩, fun j r hj hr => ?_, ⟨by simp, by decide⟩, ?_, by decide⟩
  · obtain rfl | rfl : j = 0 ∨ j = 1 := by omega
    · decide +kernel
    · decide +kernel
  · obtain rfl : r = 0 := by omega
    obtain rfl | rfl : j = 0 ∨ j = 1 := by omega
    · decide +kernel
    · decide +kernel
  · unfold InTensor
    decide
/-- Behind another command of the ring, one of position 1: the second filled slot, the second free one. -/
def laterOn1 (t : Transfer) : Transfer := { t with ch := 2, order := 4 }
theorem witness_ringPlaces : ringPlace (withTransfers demo [popOn1, laterOn1 popOn1]) 0 (laterOn1 popOn1) = 1 ∧
    ringPlace (withTransfers demo [pushOn1, laterOn1 pushOn1]) 0 (laterOn1 pushOn1) = 1 ∧ 1 < ring1.fill.toNat ∧
    ring1.fill.toNat + 1 < ring1.slots.toNat + 1 ∧ (∀ x ∈ (withTransfers demo [pushOn1, laterOn1 pushOn1]).ringAhead 0 (laterOn1 pushOn1),
      x.kind ≠ .pushEos) ∧ ring1.valid = true ∧ eosAt { ring1 with eosSlot := some 1, eosp := true } = 1 := by decide
/-- Rings of the Dray that let a pop and a push advance them: one filled slot, one free one. -/
theorem witness_ringAllows : RingAllows { ring1 with cons := .dray, fill := 1 } popOn1 ∧
    RingAllows { ring1 with prod := .dray, fill := 3 } pushOn1 :=
  ⟨⟨rfl, fun _ => ⟨.inl rfl, rfl, by decide⟩, fun h => absurd h (by decide)⟩,
    ⟨rfl, fun h => absurd h (by decide), fun _ => ⟨.inl rfl, rfl, by decide⟩⟩⟩
/-- A copy from a page that is not mapped takes its fault when it reads. -/
theorem witness_faultEnd :
    (withTransfers demo [{ copyGo true 0 with xa := 0xC000000000100000 }]).moveElem 0 { copyGo true 0 with xa := 0xC000000000100000 } [] 0 =
      .fault .translationFault 0x100000 ∧ (copyGo true 0).moved < (copyGo true 0).count ∧
    (withTransfers demo [{ copyGo true 0 with xa := 0xC000000000100000 }]).overlap 0 { copyGo true 0 with xa := 0xC000000000100000 } = [] := by
  decide +kernel

/-- A card in ASID 0 whose kernel names flag 3, and not flag 4. -/
def flagged : State := (demo.modCard 0 fun x => { x with hdr := x.hdr ||| 1 <<< (256 + 3) })
theorem witness_remote (amt k c ch id src card : Nat) :
    ({ flagged with inbox := [.notify 0 3 amt 0 k c (BitVec.ofNat 4 ch) (BitVec.ofNat 64 id) src card 0] } : State).inbox[0]? =
      some (.notify 0 3 amt 0 k c (BitVec.ofNat 4 ch) (BitVec.ofNat 64 id) src card 0) ∧
    (∃ x ∈ (flagged.core 0).ctxs, ∃ m, x.2.card = some m ∧ (flagged.card m).asid = 0 ∧
      (flagged.card m).hdr.getLsbD (256 + (3 : BitVec 5).toNat) = true) ∧
    ¬ ∃ x ∈ (flagged.core 0).ctxs, ∃ m, x.2.card = some m ∧ (flagged.card m).asid = 0 ∧
      (flagged.card m).hdr.getLsbD (256 + (4 : BitVec 5).toNat) = true := by
  refine ⟨rfl, ?_, ?_⟩
  · exact ⟨_, .head _, 0, rfl, by decide, by decide⟩
  · rintro ⟨x, hx, m, hm, -, h⟩
    have e : (flagged.core 0).ctxs = [((flagged.core 0).ctxs.headD (0, {}))] := by decide
    rw [e, List.mem_singleton] at hx
    subst hx
    have : m = 0 := by
      have h0 : ((flagged.core 0).ctxs.headD (0, {})).2.card = some 0 := by decide
      rw [h0] at hm
      exact (Option.some.inj hm).symm
    subst this
    revert h
    decide

/-! ### Witnesses: halting, claims, eviction, saving, teardown -/

def haltAsked : State := demo.modCtx 0 0 fun x => { x with haltReq := true }
theorem witness_halts : (haltAsked.ctx 0 0).haltReq = true ∧ (haltAsked.ctx 0 0).st = .running ∧ (haltAsked.ctx 0 0).inHandler = false ∧
    (inHandler.ctx 0 0).inHandler = true ∧ ((haltAsked.modCtx 0 0 fun x => { x with st := .waiting }).ctx 0 0).st = .waiting := by decide
def heldClaim : Claim := { c := 0, v := [(1, [5])], q := [], flags := [(2, 9)], rings := [] }
def halted : State :=
  (demo.modCore 0 fun q => { q with run := none, claims := [heldClaim] }).modCtx 0 0 fun x => { x with st := .halted }
/-- Context 1 of core 0 belongs to a card that is urgent. -/
def outranked (st : CState) : State :=
  (halted.modCard 1 fun x => { x with dw := [2 ^ 63, 0x1000] }).modCtx 0 1 fun x => { x with st, card := some 1 }
theorem noneOutranks_halted : NoneOutranks halted 0 0 := by
  refine ⟨?_, by decide⟩
  intro x hx m hm hr
  have e : (halted.core 0).ctxs = [((halted.core 0).ctxs.headD (0, {}))] := by decide
  rw [e, List.mem_singleton] at hx
  subst hx
  have h0 : ((halted.core 0).ctxs.headD (0, {})).2.card = some 0 := by decide
  rw [h0] at hm
  cases hm
  exact absurd hr (by decide)
/-- R364: the urgent context keeps its core while it is halted itself. -/
theorem witness_resumes : (halted.ctx 0 0).st = .halted ∧ (halted.ctx 0 0).card = some 0 ∧ (halted.ctx 0 0).owed = false ∧
    (halted.ctx 0 0).evicted = false ∧ (halted.ctx 0 0).restoring = false ∧
    (halted.core 0).claims.filter (ClaimOf halted 0 0) = [heldClaim] ∧
    ((halted.modCore 0 fun q => { q with claims := [] }).core 0).claims.filter (ClaimOf halted 0 0) = [] ∧
    (∀ st ∈ [CState.ready, .halted], ∃ x ∈ ((outranked st).core 0).ctxs, x.2.card = some 1 ∧
      ((outranked st).card 0).rank < ((outranked st).card 1).rank ∧ x.2.st ≠ .idle) := by decide
def claiming (m : Option MintHeld) : State :=
  (unclaimed.modCard 0 fun x => { x with hdr := x.hdr ||| 1 <<< 120 }).modCore 0 fun q =>
    { q with hold := some .claim, claims := [{ c := 1, v := [], q := [], flags := [], rings := [], mint := m }] }
def heldMint : MintHeld := { mode := .ws, pending := .ws, latches := [(1, {})], acc := none, cmds := [], by_ := [3] }
theorem witness_mintClaim : (claiming none).issuer 0 = some 0 ∧ ((claiming none).core 0).hold = some .claim ∧
    ((claiming none).core 0).claims.find?
      (fun y => decide (((claiming none).cardOf 0 y.c).rank < ((claiming none).card 0).rank)) =
        some { c := 1, v := [], q := [], flags := [], rings := [], mint := none } ∧
    ((claiming (some heldMint)).core 0).claims.find?
      (fun y => decide (((claiming none).cardOf 0 y.c).rank < ((claiming none).card 0).rank)) =
        some { c := 1, v := [], q := [], flags := [], rings := [], mint := some heldMint } ∧ 0 ∉ heldMint.by_ ∧
    ((claiming none).core 0).mint.queue = [] ∧ (demo.core 0).hold ≠ some .claim ∧
    ((claiming none).cardOf 0 0).hdr.getLsbD (120 + 0) = true ∧ Tab.has heldMint.latches 1 = true ∧
    Tab.has heldMint.latches 0 = false := by decide

def flightTwo : Flight := { dest := .x 5, val := .dword 9, r := 2, flags := 0, traps := 0, baddr := 0x1040, slot := 0, seq := 1 }
def evicting (fl : List Flight) : State := demo.modCtx 0 0 fun x => { x with ckFill := true, evictReq := true, flights := fl }
theorem witness_eviction : AtCheckpoint (evicting []) 0 0 ∧ AtCheckpoint (evicting [flightTwo]) 0 0 ∧
    ((evicting []).ctx 0 0).flights = [] ∧ ((evicting [flightTwo]).ctx 0 0).flights ≠ [] :=
  ⟨⟨by decide, by decide, by decide, by decide, by decide, by decide, by decide, by decide, by decide, by decide, by decide,
      by decide⟩,
    ⟨by decide, by decide, by decide, by decide, by decide, by decide, by decide, by decide, by decide, by decide, by decide,
      by decide⟩, by decide, by decide⟩

/-- Context 0 evicted, its save area of 20,480 bytes at 0x4000; its checkpoint entry, as all of the page, reads zero. -/
def saving : State :=
  (demo.modCtx 0 0 fun x => { x with st := .halted, evicted := true }).modCard 0 fun x =>
    { x with dw := [0x1001000, 0x1000, 0, 0x4000, 20480 <<< 32], hdr := x.hdr ||| 1 <<< 432 }
theorem witness_saves : (saving.ctx 0 0).card = some 0 ∧ (saving.ctx 0 0).st = .halted ∧ (saving.ctx 0 0).evicted = true ∧
    saving.saveReady 0 0 0 = true ∧ (saving.ctx 0 0).saveFailed = false ∧
    (withTransfers saving [copyIn]).saveReady 0 0 0 = false ∧
    ((saving.modCtx 0 0 fun x => { x with saveFailed := true }).ctx 0 0).saveFailed = true ∧
    (saving.modCard 0 fun x => { x with dw := [0, 0x1000, 0, 0x20000, 20480 <<< 32] }).saveAll 0 0 0 0 [] =
      .fault .translationFault 0x20000 ∧
    (saving.modCard 0 fun x => { x with dw := [0, 0x1000, 0, 0x20000, 20480 <<< 32] }).saveBegun 0 0 0 =
      .fault .translationFault 0x20000 := by decide +kernel

/-- A checkpoint that needs one byte, and an area of none. -/
def savingShort : State :=
  (saving.modCard 0 fun x => { x with dw := [0x1001000, 0x1000, 0, 0x4000, 0] }).writeModule [(3 * 65536 + 0x1000 + 20, 1)]
theorem witness_saveShort : savingShort.ckEntry 0 0 (savingShort.ctx 0 0).ckix.toNat = .ok (1 <<< 160, []) ∧
    ((savingShort.card 0).saveArea 0 0).2 < ckSavesz (1 <<< 160) ∧ savingShort.saveReady 0 0 0 = true ∧
    (savingShort.ctx 0 0).st = .halted := by decide +kernel
/-! A save that succeeds, shown without computing its 18,496 bytes: what translation reads stays as it is. -/

/-- Page 0 of ASID 0 lies in frame 3, readable and writable; nothing holds it, nothing of it is cached, and no L2 holds a byte. -/
structure Mapped (s : State) : Prop where
  space : s.space 0 0 = 1
  carve : s.carveGB = 0
  root : s.entryAt 0 = 0x10001
  mid : s.entryAt 65536 = 0x20001
  leaf : s.entryAt 131072 = 0x34073
  frame : s.frame 3 = {}
  tables : s.vaults = []
  power : (s.domain 32).power = .active
  tlb : (s.die 0).tlb = []
  walks : (s.die 0).walks = []
  clean : ∀ d, d < 2 → (s.die d).l2 = [] ∧ (s.die d).l2poison = []
  idle : s.units = []

/-- With no L2 holding a byte, a write at module scope is a write of memory. -/
theorem Mapped.writes {s : State} (h : Mapped s) (l : List (Nat × Byte)) :
    s.writeModule l =
      { s with
        mem := l.foldl (fun (m : Mem) (y : Nat × Byte) => m.write y.1 y.2) s.mem
        poison := clearSectors s.poison (l.map Prod.fst) } := by
  have c (e : Nat) (he : e < 2) : s.loseLines e (l.map Prod.fst) = s := by
    unfold State.loseLines
    simp [h.clean e he]
  unfold State.writeModule
  simp [c 0 (by decide), c 1 (by decide)]

theorem read_fold (l : List (Nat × Byte)) (m : Mem) {b : Nat} (h : ∀ x ∈ l, b < x.1) :
    (l.foldl (fun (m : Mem) (y : Nat × Byte) => m.write y.1 y.2) m).read b = m.read b := by
  induction l generalizing m with
  | nil => rfl
  | cons x t ih =>
    rw [List.foldl_cons, ih _ fun y hy => h y (.tail _ hy),
      Mem.read_write_other _ _ (Nat.ne_of_lt (h x (.head _)))]

theorem Mapped.entry {s : State} (w : Mapped s) (l : List (Nat × Byte)) (h : ∀ x ∈ l, 196608 ≤ x.1) {a : Nat} (ha : a ≤ 131072) :
    (s.writeModule l).entryAt a = s.entryAt a := by
  have r : ∀ n b, b + n ≤ 131080 → (s.writeModule l).mem.readList b n = s.mem.readList b n := by
    intro n
    induction n with
    | zero => intros; rfl
    | succ n ih =>
      intro b hb
      have := read_fold l s.mem (b := b) fun x hx => by have := h x hx; omega
      simp only [Mem.readList]
      rw [ih (b + 1) (by omega), w.writes l, this]
  unfold State.entryAt
  rw [r 8 a (by omega)]

theorem Mapped.write {s : State} (h : Mapped s) (l : List (Nat × Byte)) (hl : ∀ x ∈ l, 196608 ≤ x.1) : Mapped (s.writeModule l) where
  space := by rw [h.writes]; exact h.space
  carve := by rw [h.writes]; exact h.carve
  root := by rw [h.entry l hl (by omega), h.root]
  mid := by rw [h.entry l hl (by omega), h.mid]
  leaf := by rw [h.entry l hl (by omega), h.leaf]
  frame := by rw [h.writes]; exact h.frame
  tables := by rw [h.writes]; exact h.tables
  power := by rw [h.writes]; exact h.power
  tlb := by rw [h.writes]; exact h.tlb
  walks := by rw [h.writes]; exact h.walks
  clean := by rw [h.writes]; exact h.clean
  idle := by rw [h.writes]; exact h.idle

theorem Mapped.unheld {s : State} (h : Mapped s) (l : List Nat) : s.rowHeld l = none := by
  rw [State.rowHeld, h.idle]
  rfl

theorem Mapped.span {s : State} (h : Mapped s) (va n : Nat) (hv : va + n < 65536) :
    s.devSpan 0 0 .write (BitVec.ofNat 64 va) n = .ok ((List.range n).map fun i => 196608 + va + i) false := by
  by_cases hn : n = 0
  · subst hn
    show s.inService 0 (.ok [] false) = _
    simp [State.inService, h.unheld]
  have hn' : (BitVec.ofNat 64 va).toNat = va := Nat.mod_eq_of_lt (by omega)
  have hb : ∀ hi lo, 16 ≤ lo → bits va hi lo = 0 := by
    intro hi lo hl
    have : va / 2 ^ lo = 0 := Nat.div_eq_of_lt (Nat.lt_of_lt_of_le (by omega : va < 2 ^ 16) (Nat.pow_le_pow_right (by omega) hl))
    simp [bits, this]
  have fb : ∀ f, f < 16 → s.frameBase 0 f 1 = some (f * 65536) := by
    intro f hf
    have h1 : f / 2 ^ 23 = 0 := by omega
    have h2 : f / 2 ^ 20 = 0 := by omega
    have h3 : f % 2 ^ 20 = f := by omega
    have h4 : s.belowCarve f = true := by simp [State.belowCarve, h.carve, Config.stackBytes]; omega
    simp only [State.frameBase, h1, h2, h3, Nat.add_sub_cancel, h4, hbmAddr]
    simp
  have p1 : s.pointer 0x10001 = some 65536 := by
    show (if _ then s.frameBase 0 1 1 else none) = _
    rw [fb 1 (by omega)]; rfl
  have p2 : s.pointer 0x20001 = some 131072 := by
    show (if _ then s.frameBase 0 2 1 else none) = _
    rw [fb 2 (by omega)]; rfl
  have up : s.upper (s.asidRoot 0 none 0) = fun _ _ => none := by
    funext _ _
    simp [State.upper, State.asidRoot, h.walks]
  have aw : ∀ a, a < 2 ^ 36 → s.awaited a = none := by
    intro a ha
    have : physDomain a = some 32 := by
      unfold physDomain
      rw [if_pos (by omega)]
      congr 1
      omega
    simp [State.awaited, this, h.power]
  have bf : ∀ a, a < 2 ^ 36 → s.busyFor [a] = none := by
    intro a ha
    simp [State.busyFor, aw a ha, h.unheld]
  have w : s.walked (s.asidRoot 0 none 0) 0 va = .leaf ⟨0x34073, 131072, false⟩ := by
    have : s.walk (s.upper (s.asidRoot 0 none 0)) 0 va = .leaf ⟨0x34073, 131072, false⟩ := by
      unfold State.walk State.entryFor
      rw [up, hb 51 40 (by omega), hb 39 28 (by omega), hb 27 16 (by omega), Nat.zero_add, Nat.mul_zero, bf 0 (by omega)]
      simp only [h.root, p1, Nat.add_zero, bf 65536 (by omega), h.mid, p2, bf 131072 (by omega), h.leaf]
      rfl
    rw [State.walked, this]
    rfl
  have lk : s.look (s.asidRoot 0 none 0) 0 va = .leaf ⟨0x34073, 131072, false⟩ := by
    have : s.cached (s.asidRoot 0 none 0) 0 va = none := by
      simp [State.cached, State.asidRoot, State.yardCopies, h.tlb]
    rw [State.look, this]
    exact w
  have r : s.rootAddr 1 = some 0 := by
    show (if _ then s.frameBase 0 0 1 else none) = _
    rw [fb 0 (by omega)]; rfl
  have lo : s.leafOk 0x34073 false = true := by
    have f3 : s.frameBase (entTier 0x34073) (entFrame 0x34073) 1 = some 196608 := fb 3 (by omega)
    unfold State.leafOk
    simp only [Bool.false_eq_true, if_false, f3]
    simp [entV, entLeaf, entCow, entTier, entCa, entMov, entShr, entRun]
  have nt : ∀ i, i < 65536 → s.tableFrame va (196608 + i) = false := by
    intro i hi
    have : frameOf (196608 + i) = 3 := by unfold frameOf; omega
    simp [State.tableFrame, State.tablePage, this, h.frame, h.tables]
  have tr : s.translate (s.asidRoot 0 none 0) true .write (BitVec.ofNat 64 va) = .ok (196608 + va) false := by
    have f3 : s.frameBase 0 (entFrame 0x34073#64) 1 = some 196608 := fb 3 (by omega)
    have va0 : va / 2 ^ 52 = 0 := by omega
    have va1 : va % 2 ^ 16 = va := by omega
    have rw1 : s.rootAddr (s.asidRoot 0 none 0).word = some 0 := by
      show s.rootAddr (s.space 0 0) = _
      rw [h.space, r]
    unfold State.translate
    rw [hn', rw1]
    simp only [lk, lo, va0, va1]
    simp [entCow, entTier, entMov, entU, entW, entCa, f3, nt va (by omega)]
  have hd : s.held va (196608 + va) n = false := by
    simp [State.held, State.awaitedPiece, aw (196608 + va) (by omega), nt va (by omega)]
  have pc : s.pieceAddrs va (196608 + va) n = (List.range n).map fun i => 196608 + va + i := by
    simp [State.pieceAddrs, nt va (by omega)]
  have fu : n / 65536 + 2 = (n / 65536 + 1) + 1 := rfl
  have mn : min n (65536 - va % 65536) = n := by omega
  have z : ∀ x, s.span (s.asidRoot 0 none 0) true .write x (n / 65536 + 1) 0 = .ok [] false := fun x => by simp [State.span]
  unfold State.devSpan
  rw [fu, State.span, if_neg (by omega)]
  simp only [tr, hn', mn, Nat.sub_self, z, hd, pc]
  simp [State.inService, h.unheld]

/-- A write of a save area at 0x4000 of ASID 0. -/
theorem Mapped.area {s : State} (h : Mapped s) (hc : (s.card 0).asid = 0) (ha : ((s.card 0).saveArea 0 0).1 = 0x4000) (off : Nat)
    (l : List Byte) (hv : 0x4000 + off + l.length < 65536) :
    ∃ v, s.areaWrite 0 0 0 off l = .ok v ∧ Mapped v ∧ v.card 0 = s.card 0 ∧ v.cores = s.cores := by
  have e : ((s.card 0).saveArea 0 0).1 + BitVec.ofNat 64 off = BitVec.ofNat 64 (0x4000 + off) := by
    rw [ha]
    apply BitVec.eq_of_toNat_eq
    simp
  refine ⟨s.writeModule (((List.range l.length).map fun i => 196608 + (0x4000 + off) + i).zip l), ?_, ?_, by rw [h.writes]; rfl, by rw [h.writes]⟩
  · simp only [State.areaWrite, State.devWrite, hc, e, dieOf]
    rw [h.span _ _ hv]
    rfl
  · refine h.write _ fun x hx => ?_
    have := (List.of_mem_zip hx).1
    simp only [List.mem_map, List.mem_range] at this
    obtain ⟨i, -, e⟩ := this
    omega

theorem length_leBytes (n v : Nat) : (leBytes n v).length = n := by
  induction n generalizing v with
  | zero => rfl
  | succ n ih => simp [leBytes, ih]
theorem length_flatMap_const {α : Type} (l : List α) (f : α → List Byte) (n : Nat) (h : ∀ x, (f x).length = n) :
    (l.flatMap f).length = n * l.length := by
  induction l with
  | nil => rfl
  | cons x t ih => rw [List.flatMap_cons, List.length_append, h, ih, List.length_cons, Nat.mul_succ, Nat.add_comm]

theorem bind_ok {α β : Type} {x : Acc α} {a : α} (h : x = .ok a) (f : α → Acc β) : x.bind f = f a := by
  rw [h]
  rfl

theorem saveAll_ok (s0 : State) (m0 : Mapped s0) (hc : (s0.card 0).asid = 0) (ha : ((s0.card 0).saveArea 0 0).1 = 0x4000)
    (rec0 : (s0.ctx 0 0).records = []) (ev0 : (s0.ctx 0 0).landMint = s0.ctx 0 0) (none : (s0.core 0).stores = [])
    (l2 : ((saveHead (s0.card 0) (s0.ctx 0 0) 0 0 0 (decide (0 = (s0.card 0).patronCtx))).flatMap dwordBytes).length ≤ 1024)
    (l4 : (fixedBytes (s0.ctx 0 0) (s0.core 0).mint.mode).length ≤ 1024) (l6 : (sharedBytes (s0.core 0)).length ≤ 512)
    (l7 : (ckBytes (s0.core 0) 0 []).length ≤ 0) (pat : decide (0 = (s0.card 0).patronCtx) = true) :
    ∃ v, s0.saveAll 0 0 0 0 [] = .ok v := by
  have go : ∀ s : State, Mapped s → s.card 0 = s0.card 0 → s.cores = s0.cores → ∀ off l, 0x4000 + off + l.length < 65536 →
      ∃ v, s.areaWrite 0 0 0 off l = .ok v ∧ Mapped v ∧ v.card 0 = s0.card 0 ∧ v.cores = s0.cores := by
    intro s h hc' hk off l hv
    obtain ⟨v, e, m, c, k⟩ := h.area (by rw [hc', hc]) (by rw [hc', ha]) off l hv
    exact ⟨v, e, m, c.trans hc', k.trans hk⟩
  obtain ⟨s1, e1, m1, c1, k1⟩ := go s0 m0 rfl rfl 0 (dwordBytes (saveWord0 false)) (by decide)
  obtain ⟨s2, e2, m2, c2, k2⟩ := go s1 m1 c1 k1 8
    ((saveHead (s0.card 0) (s0.ctx 0 0) 0 0 0 (decide (0 = (s0.card 0).patronCtx))).flatMap dwordBytes) (by omega)
  obtain ⟨s3, e3, m3, c3, k3⟩ := go s2 m2 c2 k2 64
    ((List.range 512).flatMap fun i => leBytes 32 ((s0.ctx 0 0).vcwEntry (BitVec.ofNat 9 i)).toNat)
    (by rw [length_flatMap_const _ _ 32 fun _ => length_leBytes _ _, List.length_range]; decide)
  obtain ⟨s4, e4, m4, c4, k4⟩ := go s3 m3 c3 k3 16448 (fixedBytes (s0.ctx 0 0) (s0.core 0).mint.mode) (by omega)
  obtain ⟨s5, e5, m5, c5, k5⟩ := go s4 m4 c4 k4 17472 (List.replicate 512 0) (by rw [List.length_replicate]; decide)
  obtain ⟨s6, e6, m6, c6, k6⟩ := go s5 m5 c5 k5 17984 (sharedBytes (s0.core 0)) (by omega)
  obtain ⟨s7, e7, m7, c7, k7⟩ := go s6 m6 c6 k6 18496 (ckBytes (s0.core 0) 0 []) (by omega)
  obtain ⟨s8, e8, -⟩ := go s7 m7 c7 k7 0 (dwordBytes (saveWord0 true)) (by decide)
  have cx : ∀ s : State, s.cores = s0.cores → s.core 0 = s0.core 0 ∧ s.ctx 0 0 = s0.ctx 0 0 := by
    intro s h
    have : s.core 0 = s0.core 0 := by unfold State.core; rw [h]
    exact ⟨this, by unfold State.ctx; rw [this]⟩
  have body : s2.saveBody 0 0 0 true 0 [] = .ok s7 := by
    unfold State.saveBody
    simp only [(cx s2 k2).1, (cx s2 k2).2, ev0, rec0, bind_ok e3, bind_ok e4, List.flatMap_nil, List.length_nil, List.nil_append,
      Nat.sub_zero, bind_ok e5, if_true, bind_ok e6]
    exact e7
  have pw : s7.performWhere 0 true (fun p => decide (p.c = 0)) = s7 := by
    unfold State.performWhere
    rw [(cx s7 k7).1, none]
    rfl
  have sw : s7.storesWait 0 true (fun p => decide (p.c = 0)) = Option.none := by
    unfold State.storesWait
    rw [(cx s7 k7).1, none]
    simp [pickStores, State.busyFor, m7.unheld]
  refine ⟨s8, ?_⟩
  unfold State.saveAll State.saveBegun
  rw [pat] at e2
  simp only [bind_ok e1, (cx s1 k1).2, pat, bind_ok e2, bind_ok body, sw, pw, e8]

theorem saving_head :
    ((saveHead (saving.card 0) (saving.ctx 0 0) 0 0 0 (decide (0 = (saving.card 0).patronCtx))).flatMap dwordBytes).length ≤ 1024 := by
  decide +kernel
theorem saving_fixed : (fixedBytes (saving.ctx 0 0) (saving.core 0).mint.mode).length ≤ 1024 := by decide +kernel
theorem saving_shared : (sharedBytes (saving.core 0)).length ≤ 512 := by decide +kernel
theorem saving_ck : (ckBytes (saving.core 0) 0 []).length ≤ 0 := by decide +kernel
theorem saving_entry : saving.ckEntry 0 0 (saving.ctx 0 0).ckix.toNat = .ok (0, []) := by rfl
theorem mapped_saving : Mapped saving :=
  ⟨by decide, by decide, by decide, by decide, by decide, by decide, by decide, by decide, by decide, by decide, by decide, rfl⟩
theorem saving_card : (saving.card 0).asid = 0 ∧ ((saving.card 0).saveArea 0 0).1 = 0x4000 ∧
    ¬ ((saving.card 0).saveArea 0 0).2 < ckSavesz 0 ∧ (saving.ctx 0 0).records = [] ∧ (saving.core 0).stores = [] ∧
    decide (0 = (saving.card 0).patronCtx) = true := by decide

/-- `saveAll` of `saving` ends with its area written. -/
theorem witness_saveAll : ∃ v, saving.saveAll 0 0 0 0 [] = .ok v :=
  saveAll_ok saving mapped_saving saving_card.1 saving_card.2.1 saving_card.2.2.2.1 rfl
    saving_card.2.2.2.2.1 saving_head saving_fixed saving_shared saving_ck saving_card.2.2.2.2.2

/-- The same card launched again, with the header of a save of this context in its area, and without one. -/
def restoring (s : State) : State := s.modCtx 0 0 fun _ => { card := some 0, st := .halted, restoring := true }
def saved : State :=
  saving.writeModule (((List.range 24).zip ((dwordBytes (saveWord0 true) ++ dwordBytes 0 ++ dwordBytes 0x1000))).map fun x =>
    (3 * 65536 + 0x4000 + x.1, x.2))
theorem witness_restores : ((restoring saved).ctx 0 0).card = some 0 ∧ ((restoring saved).ctx 0 0).restoring = true ∧
    (match (restoring saved).restoreAll 0 0 0 with | .ok (some _) => true | _ => false) = true ∧
    (match (restoring saving).restoreAll 0 0 0 with | .ok none => true | _ => false) = true := by decide +kernel
/-- The card's other context is still to be restored, or is not there. -/
def restoringTwo : State :=
  (restoring saved |>.modCard 0 fun x => { x with dw := 0x1003000 :: x.dw.drop 1 }).modCtx 0 1 fun _ =>
    { card := some 0, st := .halted, restoring := true }
theorem witness_restoresAll :
    (match (restoring saved).restoreAll 0 0 0 with
      | .ok (some v) => (v.card 0).placed.all fun y => (v.ctx y.1 y.2).restored
      | _ => false) = true ∧
    (match restoringTwo.restoreAll 0 0 0 with
      | .ok (some v) => (v.card 0).placed.contains (0, 1) && v.holdsCtx 0 0 1 && (v.ctx 0 1).restoring && !(v.ctx 0 1).restored
      | _ => false) = true := by decide +kernel
/-- R313: where a save area holds `x5`, FPCR's dword and a window's limit. -/
theorem test_saveArea : (demo.ctx 0 0).inHandler = false ∧ dwordAt (fixedBytes (demo.ctx 0 0) .ws) 40 = 7 ∧
    dwordAt (fixedBytes (demo.ctx 0 0) .ws) 256 = 0x1040 := by decide +kernel
def failing : State := saving.modCard 0 fun x => { x with status := 10 }
theorem witness_tears : TearsDown failing 0 ∧ (0, 0) ∈ (failing.card 0).placed ∧ failing.holdsCtx 0 0 0 = true ∧
    0 ∈ (failing.card 0).coresOf ∧ (saving.card 0).torn = false := by
  unfold TearsDown
  decide +kernel

/-! ### Witnesses: the Exchange -/

/-- Group 5: two ranks, this module rank 0, XTMO 3; rank 1 behind port 2. -/
def grouped (s : State) : State :=
  { s with groups := [(5, 0x0000300000000101)], peers := [(4096 * 5 + 1, 1 <<< 80 ||| 1 <<< 66)] }
def subTransfer : Transfer := { copyIn with kind := .stage, started := true, sent := true, ch := 1, id := 5 }
/-- A stage of group 5 that the transfer handed over; its lists at 0, 64 of the W-buffer and 0x2000 of global memory. -/
def stageOf (code : Nat) : Stage :=
  { code, group := 5, ring := 3, blk := 4, trap := false, addrA := 0, addrB := 64, param := 2, by_ := .ctx 0 0, k := 0, ch := 1, id := 5
    card := 0, asid := 0, baddr := 0, uid := 9, tcr := [0, 0x0000000100000002, 0, 64, 128, 0, 0, 0] }
def staged (l : List Stage) : State :=
  grouped (((starting tableCmd []).modCore 0 fun q => { q with transfers := [subTransfer] }).modDie 0 fun x => { x with stages := l })
theorem held_stage (code : Nat) (st : Stage) (h : st = stageOf code) : HeldStage (staged [st]) 0 [] st [] subTransfer := by
  subst h
  exact ⟨rfl, by simp, ⟨0, 0, rfl, rfl⟩, rfl⟩
theorem witness_group : ((staged []).group 5).getLsbD 0 = true ∧ (grouped demo |>.group 4).getLsbD 0 = false ∧
    ranksOf ((staged []).group 5) = 2 ∧ groupRank ((staged []).group 5) = 0 ∧
    (∀ o, o < 2 → (staged []).peerReach 5 o = true) := by
  refine ⟨by decide, by decide, by decide, by decide, ?_⟩
  intro o h
  match o, h with
  | 0, _ | 1, _ => decide

theorem witness_bucket : (staged []).readPlace (.die 0) 0 0 (wordPlace 0 0) (8 * ((2 : Dword).extractLsb' 0 32).toNat) =
      .ok (List.replicate 16 0) ∧
    (match (staged []).writePlace (.die 0) 0 0 (wordPlace 0 64) (bucketBytes 4 2 0 (listInts 8 (List.replicate 16 0))) with
      | .ok _ => true | _ => false) = true := by decide +kernel
/-- R260: the spec's worked places: with B = 4 and two ranks, global row 13 is row 5 of rank 1. -/
theorem test_shard : shardOwner 4 2 13 = 1 ∧ shardLocal 4 2 13 = 5 := by decide
theorem witness_bucketBytes : ∀ i ∈ ([13, 2, 9] : List Int), 0 ≤ i := by decide

theorem witness_gather : descBad ((staged []).shardDesc (stageOf 2)) = false ∧
    (staged []).stageShort (stageOf 2) ((staged []).shardDesc (stageOf 2)) = false ∧
    (staged []).readPlace (.die 0) 0 0 (wordPlace 0 (dw (stageOf 2).tcr 2)) (8 * tcNidx (stageOf 2).tcr) = .ok (List.replicate 16 0) ∧
    (staged []).readPlace (.die 0) 0 0 (wordPlace 0 (dw (stageOf 2).tcr 3)) (4 * (tcNbags (stageOf 2).tcr + 1)) =
      .ok (List.replicate 8 0) ∧ tcWen (stageOf 2).tcr = false := by decide +kernel
/-- R367: a message behind one of its route, and the first of it. -/
theorem witness_routes :
    let a : Msg := .ack { vault := 0, die := 0, stage := 9, owner := 1, ok := true, dropped := [] }
    ¬ FirstOfRoute { staged [] with inbox := [a, a] } 1 a ∧ ({ staged [] with inbox := [a, a] } : State).inbox[1]? = some a ∧
    ∀ m, FirstOfRoute { staged [] with inbox := [m] } 0 m := by
  refine ⟨?_, rfl, fun m => .inr fun y hy => by cases hy⟩
  rintro (h | h)
  · exact absurd h (by decide)
  · exact h _ (.head _) (by decide)
theorem witness_release : NothingToRelease (staged []) 0 subTransfer := .inl (by decide)
def part5 : PartReq :=
  { group := 5, srcRank := 1, dm1 := 1, b := 4, die := 0, stage := 9, table := 0, mode := .sum, fence := false
    parts := [⟨0, [⟨0, 3, 0x3F800000⟩]⟩] }
theorem witness_parts : ({ staged [] with inbox := [.bagPart part5] } : State).inbox[0]? = some (.bagPart part5) ∧
    ranksOf ((staged []).group part5.group) = part5.dm1 + 1 ∧
    ranksOf ((staged []).group part5.group) ≠ { part5 with dm1 := 2 }.dm1 + 1 := by decide
def waitingStage : Stage := { stageOf 2 with started := true, awaits := [0, 1], bags := [bag1], nbags := 1 }
def partial1 (rank : Nat) (ok : Bool) : PartialMsg := { vault := 0, die := 0, stage := 9, rank, ok, parts := [⟨0, none, false, [1, 2]⟩] }
theorem witness_returns : ({ staged [waitingStage] with inbox := [.bagDone (partial1 1 true)] } : State).inbox[0]? =
      some (.bagDone (partial1 1 true)) ∧ HeldStage (staged [waitingStage]) 0 [] waitingStage [] subTransfer ∧
    (partial1 1 true).die = 0 ∧ (partial1 1 true).stage = waitingStage.uid ∧ (partial1 1 true).rank ∈ waitingStage.awaits ∧
    waitingStage.awaits ≠ [(partial1 1 true).rank] ∧ waitingStage.awaits.Nodup ∧ (partial1 2 true).rank ∉ waitingStage.awaits ∧
    ({ waitingStage with awaits := [1] } : Stage).awaits = [(partial1 1 false).rank] :=
  ⟨rfl, ⟨rfl, by simp, ⟨0, 0, rfl, rfl⟩, by decide⟩, rfl, rfl, by decide, by decide, by decide, by decide, rfl⟩
def doneStage : Stage := { waitingStage with awaits := [], bags := [{ bag1 with out := some ([1, 2], false) }] }
theorem witness_stageSlots : HeldStage (staged [doneStage]) 0 [] doneStage [] subTransfer ∧ doneStage.started = true ∧
    doneStage.ring < 16 ∧ VaultMayFill (((staged []).core 0).ring (BitVec.ofNat 4 doneStage.ring)) ∧
    doneStage.bags[doneStage.written]? = some { bag1 with out := some ([1, 2], false) } ∧ bag1.poison = none ∧
    doneStage.written + 1 = (doneStage.nbags + if doneStage.eos then 1 else 0) ∧
    ({ doneStage with eos := true } : Stage).written + 1 ≠ 1 + (if ({ doneStage with eos := true } : Stage).eos then 1 else 0) ∧
    (staged [doneStage]).stageSpoilt doneStage (((staged []).core 0).ring (BitVec.ofNat 4 doneStage.ring)) = false :=
  ⟨⟨rfl, by simp, ⟨0, 0, rfl, rfl⟩, by decide⟩, rfl, by decide, ⟨by decide, by decide, by decide, by decide⟩, rfl, rfl, by decide,
    by decide, by decide⟩
theorem witness_updates : (staged []).gradsOut (stageOf 3) (4 * descD ((staged []).shardDesc (stageOf 3)) * tcNidx (stageOf 3).tcr) = false ∧
    (staged []).readPlace (.die 0) 0 0 (wordPlace 0 (dw (stageOf 3).tcr 3))
      (4 * descD ((staged []).shardDesc (stageOf 3)) * tcNidx (stageOf 3).tcr) = .ok (List.replicate 16 0) := by decide +kernel
def count5 (rank : Nat) : CountMsg :=
  { group := 5, rank, dm1 := 1, b := 4, tag := 7, table := 0, prog := 0, seq := false, fence := false, consts := [], die := 0, stage := 9
    pairs := [⟨0, 3, 3, [1, 2]⟩] }
def collect5 : Collect := { group := 5, tag := 7, first := 100, counts := [count5 0] }
theorem witness_counts : ({ staged [] with inbox := [.count (count5 1)], collects := [collect5] } : State).collects = [] ++ collect5 :: [] ∧
    ranksOf ((staged []).group 5) = (count5 1).dm1 + 1 ∧ 0 < (count5 1).dm1 ∧ collect5.counts.length = (count5 1).dm1 ∧
    [count5 0, count5 1].Perm (count5 1 :: collect5.counts) ∧ [count5 0, count5 1].Pairwise (fun a b => a.rank < b.rank) ∧
    (∀ a ∈ [count5 0, count5 1], SameUpdate a (count5 1)) ∧ (∀ x ∈ (staged []).collects, ¬ (x.group = 5 ∧ x.tag = 7)) ∧ collect5.running = false ∧ collect5.expired = false ∧
    ((count5 1).group, (count5 1).rank, (count5 1).die, (count5 1).stage) ∉ (staged []).countsSeen ∧
    ((count5 1).group, (count5 1).rank, (count5 1).die, (count5 1).stage) ∈
      ({ staged [] with countsSeen := [(5, 1, 0, 9)] } : State).countsSeen := by
  refine ⟨rfl, by decide, by decide, rfl, .swap _ _ _, by decide, ?_, by decide, rfl, rfl, by decide, by decide⟩
  intro a h
  rcases List.mem_cons.1 h with rfl | h
  · exact ⟨rfl, rfl, rfl, rfl, rfl⟩
  · rw [List.mem_singleton.1 h]
    exact ⟨rfl, rfl, rfl, rfl, rfl⟩
theorem witness_xtmo : (((grouped demo).group 5).extractLsb' 44 20).toNat = 3 ∧ (3171 : Nat) < 100 + 1024 * 3 ∧
    100 + 1024 * 3 ≤ (3172 : Dword).toNat ∧ (0x101 : Dword).extractLsb' 44 20 = 0 ∧ collect5.counts = count5 0 :: [] ∧
    (count5 0).table.toNat / 8192 / 4 = 0 ∧ collect5.running = false := by decide
def ack5 : AckMsg := { vault := 0, die := 0, stage := 9, owner := 1, ok := true, dropped := [] }
theorem witness_acks : HeldStage (staged [{ stageOf 3 with started := true, awaits := [0, 1] }]) 0 []
      { stageOf 3 with started := true, awaits := [0, 1] } [] subTransfer ∧ ack5.owner ∈ [0, 1] ∧ [0, 1].erase ack5.owner ≠ [] ∧
    [1] = [ack5.owner] ∧ ack5.owner ∉ [0] :=
  ⟨⟨rfl, by simp, ⟨0, 0, rfl, rfl⟩, by decide⟩, by decide, by decide, by decide, by decide⟩
theorem witness_posts : ({ valid := true, pi := 7, ci := 0, qlog := 3 } : Qp).valid = true ∧
    ((7 : Dword) - 0).toNat + (((0 : Dword).extractLsb' 16 12).toNat + 1) ≤ 2 ^ (3 : BitVec 4).toNat ∧
    2 ^ (3 : BitVec 4).toNat < ((7 : Dword) - 0).toNat + (((0x10000 : Dword).extractLsb' 16 12).toNat + 1) := by decide

/-! ### Witnesses: the Clearing engine -/

/-- A copy of one word at 0x2000 to 0x3000 of rank `r` of group 5; counter 3 arms it at 2. -/
def copyWords (r : Nat) : List Dword := [BitVec.ofNat 64 (2 ^ 60 + 5 * 2 ^ 44 + r * 2 ^ 32), 0x2000, 0x3000, 0, 0x200000003, 0, 0]
def entryOf (w : List Dword) : Entry := { d := 0, qp := 6, eseq := 11, dw := w, va := 0x1000, asid := 0 }
def copyEntry : Entry := entryOf (copyWords 1)
def cleared (l : List Entry) : State := { grouped demo with entries := l, groupAsid := [(5, 0)] }
/-- Queue pair 6 of die 0 at 0x1000, its next entry this copy in slot 3. -/
def armed (ctr : Word) : State :=
  ((cleared []).modDie 0 fun x =>
    { x with qps := [(6, { valid := true, pi := 12, ci := 11, qbase := 1, qlog := 3 })], counters := [(3, ctr)] }).writeModule
    (((List.range 56).zip ((copyWords 1).flatMap dwordBytes)).map fun x => (3 * 65536 + 0x10C0 + x.1, x.2))
theorem witness_arm : (Tab.get {} ((armed 2).die 0).qps 6 : Qp) = { valid := true, pi := 12, ci := 11, qbase := 1, qlog := 3 } ∧
    ((armed 2).devRead 0 0 (((1 : BitVec 40).setWidth 64 <<< 12) + BitVec.ofNat 64 (64 * (11 % 2 ^ 3))) 56) =
      .ok ((copyWords 1).flatMap dwordBytes) ∧
    bytesDwords ((copyWords 1).flatMap dwordBytes) = copyWords 1 ∧
    ((dw (copyWords 1) 4).extractLsb' 32 32 : Word) ≤ Tab.get 0 ((armed 2).die 0).counters 3 ∧
    Tab.get 0 ((armed 1).die 0).counters 3 < ((dw (copyWords 1) 4).extractLsb' 32 32 : Word) ∧
    copyEntry.reserved = false ∧ (entryOf [5 <<< 60]).reserved = true ∧ (entryOf [(2 <<< 60) + (4 <<< 56) + 31]).reserved = false ∧
    ({ demo with featAcc := 1 } : State).accepted 8 = false ∧ (entryOf []).kind = 0 ∧ (entryOf []).reserved = false := by decide +kernel
theorem witness_send : (cleared [copyEntry]).entries[0]? = some copyEntry ∧ copyEntry.fail = none ∧
    chunkForm (.entryWriteCopy 0 0) 0 0 copyEntry = some .copy ∧ copyEntry.op? = some .copy ∧
    copyEntry.nchunks < (copyEntry.len + 1023) / 1024 ∧
    (cleared [copyEntry]).chunkData copyEntry .copy 0 = .ok [(0, 0)] ∧
    (cleared []).chunkData (entryOf [BitVec.ofNat 64 (2 ^ 60), 0x100000]) .copy 0 = .fault .translationFault 0x100000 ∧
    chunkForm (.entryBxsumAcc 0 0) 0 0 (entryOf [(2 <<< 60) + (5 <<< 56) + (1 <<< 54)]) = some .bxsum := by decide +kernel
theorem witness_resend : (0 ∈ ({ copyEntry with acked := [0] } : Entry).acked) ∧ 0 ∉ copyEntry.acked ∧
    0 < ({ copyEntry with nchunks := 1 } : Entry).nchunks := by decide
/-- Page 1 of ASID 0 is absent: its leaf, in no tier, may be read and written. -/
def absentPage : State :=
  (cleared []).writeModule ((List.range 8).zip (leBytes 8 0x403F) |>.map fun x => (131080 + x.1, x.2))
def chunk5 : Chunk :=
  { id := { group := 5, srcRank := 1, die := 0, qp := 6, eseq := 11 }, c := 0, last := true, op := .sum, ddie := 0, dst := 0x3000
    data := [0x3F800000] }
theorem witness_apply : (cleared []).chunkSeen chunk5 = false ∧
    ({ cleared [] with applied := [{ id := chunk5.id, chunks := [(0, 0)], closed := true }] } : State).chunkSeen chunk5 = true ∧
    (match (cleared []).applyChunk chunk5 with | .ok _ => true | _ => false) = true ∧
    (cleared []).applyChunk { chunk5 with dst := 0x100000 } = .fault .translationFault 0x100000 ∧
    (absentPage.applyChunk { chunk5 with dst := 0x10000 }) = .page false 0x10000 ∧ chunk5.parkBytes = 4 := by decide +kernel
theorem witness_messages : (cleared [copyEntry]).entries = [copyEntry] ∧ copyEntry.d = 0 ∧ copyEntry.qp = chunk5.id.qp ∧
    copyEntry.eseq = chunk5.id.eseq ∧
    ({ cleared [copyEntry] with inbox := [.counterAck chunk5.id 1, .chunkAck chunk5.id 0 0 none 0, .counter 5 0 1 7 true 4 none 0] } :
      State).inbox[2]? = some (.counter 5 0 1 7 true 4 none 0) := by decide
theorem witness_parkedChunks : demo.samePage chunk5 chunk5 = true ∧ demo.samePage chunk5 { chunk5 with dst := 0x20000 } = false ∧
    demo.samePage chunk5 { chunk5 with id := { chunk5.id with group := 6 } } = true ∧
    ({ demo with groupAsid := [(6, 2)] } : State).samePage chunk5 { chunk5 with id := { chunk5.id with group := 6 } } = false ∧
    0 < chunk5.size ∧
    ({ cleared [] with parkedChunks := [chunk5] } : State).parkedChunks = [] ++ chunk5 :: [] := by decide
/-- R270, R272: 1.0 + 2.0; the larger of −7 and 5; the sum of an accumulator. -/
theorem test_applyElem : (applyElem .sum (leBytes 4 0x3F800000) [0x40000000]).1 = leBytes 4 0x40400000 ∧
    (applyElem .bxexp (leBytes 4 5) [-7]).1 = leBytes 4 5 ∧
    (applyElem .bxsum (leBytes 16 (2 ^ 128 - 1)) [1]).1 = leBytes 16 0 ∧ (leBytes 16 3).length = 16 := by decide +kernel
/-- R273: the spec's worked example of the return from the grid. -/
theorem test_gridFloat : (gridFloat 24 (2 ^ 61 + 2 ^ 38)).1 = 0x4B800001 := by decide +kernel

/-- R379: stack 0 in RETENTION: the status of an entry must wait; else it need not. -/
theorem witness_statusWaits :
    ((cleared []).setDomain 32 { (cleared []).domain 32 with power := .retention }).devSpan 0 0 .write (copyEntry.va + 56) 8 =
      .wait (some (.domain 32)) ∧
    (∀ x, (cleared []).devSpan 0 0 .write (copyEntry.va + 56) 8 ≠ .wait x) := by
  refine ⟨by decide +kernel, fun x h => ?_⟩
  have e : (cleared []).devSpan 0 0 .write (copyEntry.va + 56) 8 = .ok ((List.range 8).map (3 * 65536 + 0x1038 + ·)) false := by
    decide +kernel
  rw [e] at h
  cases h
theorem witness_refusedChunk : ({ cleared [copyEntry] with inbox := [.chunkAck chunk5.id 0 0 (some .pagePermission) 0] } : State).inbox[0]? =
    some (.chunkAck chunk5.id 0 0 (some .pagePermission) 0) ∧ ({ cleared [copyEntry] with inbox := [.counterAck chunk5.id 0] } : State).inbox[0]? =
    some (.counterAck chunk5.id 0) := ⟨rfl, rfl⟩

def caddEntry : Entry := entryOf [BitVec.ofNat 64 (3 * 2 ^ 60 + 5 * 2 ^ 44 + 2 ^ 32), 0, 0, 0x100000000, 0x3, 0, 0]
/-- An entry whose AUX names the descriptor of a CADD stage at 0x2000. -/
def stageEntry : Entry := entryOf [BitVec.ofNat 64 (4 * 2 ^ 60), 0, 0, 0x2000, 0x3, 0, 0]
def stageDesc : State := (cleared [stageEntry]).writeModule [(3 * 65536 + 0x2007, 0xF0)]
theorem witness_entryActions : caddEntry.kind = 3 ∧ caddEntry.reserved = false ∧ stageEntry.kind = 4 ∧ stageEntry.reserved = false ∧
    caddEntry.sent = false ∧ stageDesc.entryRead stageEntry (stageEntry.dword 3) 0 64 = .ok (List.replicate 7 0 ++ 0xF0 :: List.replicate 56 0) ∧
    stageDesc.entryStage stageEntry (bytesDwords (List.replicate 7 0 ++ 0xF0 :: List.replicate 56 0)) =
      .ok (0xF000000000000000 :: List.replicate 7 0) := by decide +kernel
theorem witness_entryEnds :
    (∀ op, copyEntry.op? = some op → copyEntry.acked.length ≠ (copyEntry.len + 1023) / 1024) ∧ caddEntry.op? = none ∧
    ({ copyEntry with acked := [0] } : Entry).acked.length = (copyEntry.len + 1023) / 1024 ∧ noteEn (copyEntry.dword 6) = false ∧
    (entryOf []).kind = 0 ∧ (entryOf []).ramt = 0 ∧ (entryOf [0, 0, 0, 0, 0, 0x0004000700020003]).ramt = 4 ∧
    (entryOf [0, 0, 0, 0, 0, 0x0004000700020003]).lamt = 2 ∧ copyEntry.drank ≠ groupRank ((cleared []).group copyEntry.group) ∧
    ({ copyEntry with fail := some .remoteError } : Entry).fail = some .remoteError := by
  refine ⟨?_, by decide +kernel⟩
  intro op _
  decide

/-! ### Witnesses: the page service -/

/-- `demo` with these level-2 leaves of ASID 0, by page, and a request that waits for page 1. -/
def paged (leaves : List (Nat × Nat)) (cow : Bool) : State :=
  let s := (cleared []).writeModule (leaves.flatMap fun x => (List.range 8).zip (leBytes 8 x.2) |>.map fun y => (131072 + 8 * x.1 + y.1, y.2))
  { s with pageReqs := [{ asid := 0, va := 0x10040, cow, who := .chunk chunk5.id 0 }], defaultTier := [(0, 0)] }
def cowLeaf : Nat := 4 * 65536 + 0x193
def absentLeaf : Nat := 0x3F
theorem witness_cow : (paged [(1, cowLeaf)] true).leafOf 0 0x10040 = .leaf ⟨BitVec.ofNat 64 cowLeaf, 131080, false⟩ ∧
    entCow (BitVec.ofNat 64 cowLeaf) = true ∧ entCow 0x33 = false ∧
    (paged [(1, cowLeaf)] true).frameBase 0 4 1 = some (4 * 65536) ∧ entFrame (BitVec.ofNat 64 cowLeaf) = 4 ∧
    (((paged [(1, cowLeaf)] true).setFrame 4 { refc := 1 }).frame 4).refc = 1 ∧
    (((paged [(1, cowLeaf)] true).setFrame 4 { refc := 2 }).frame 4).refc ≠ 1 ∧
    (paged [(1, cowLeaf)] true).freeFrame 0 9 1 = some (9 * 65536) ∧ (9 * 65536) % 65536 = 0 ∧ 131080 + 8 ≤ 9 * 65536 ∧
    (paged [(1, cowLeaf)] true).mem.wf = true ∧
    (paged [(1, cowLeaf)] true).entryBusy ⟨BitVec.ofNat 64 cowLeaf, 131080, false⟩ = false ∧
    (paged [(1, cowLeaf)] true).entryBusy ⟨BitVec.ofNat 64 cowLeaf ||| 0x200, 131080, false⟩ = true ∧
    (paged [(1, cowLeaf)] true).freeFrame 0 (-1) 1 = none := by decide +kernel
theorem witness_absent : (paged [(1, absentLeaf)] false).leafOf 0 0x10040 = .leaf ⟨0x3F, 131080, false⟩ ∧ entMov 0x3F = 0 ∧
    entTier 0x3F = 3 ∧ entTier 0x33 ≠ 3 ∧ Tab.get 3 (paged [] false).defaultTier 0 ≠ (3 : BitVec 2) ∧
    (paged [(1, absentLeaf)] false).entryBusy ⟨0x3F, 131080, false⟩ = false ∧
    (paged [(1, absentLeaf)] false).entryBusy ⟨0x23F, 131080, false⟩ = true ∧
    ((paged [(1, absentLeaf)] false).freeFrame 0 9 1).isSome = true := by decide +kernel

/-- A request of die 0's queue in hand: operation, pages, source and destination addresses. -/
def asking (s : State) (op pages : Nat) (sva dva : Dword) : State :=
  s.modDie 0 fun x =>
    { x with pq := { x.pq with cur := some (0x3000, [BitVec.ofNat 64 (op * 2 ^ 60 + (pages - 1)), sva, dva], 0) } }
def shared : State := asking ((paged [(1, 4 * 65536 + 0x4033)] false).setFrame 4 { refc := 1 }) 1 2 0x10000 0x50000
theorem witness_requests : shared.rqBad [BitVec.ofNat 64 (2 ^ 60 + 1), 0x10000, 0x50000] = false ∧
    shared.rqBad [BitVec.ofNat 64 (5 * 2 ^ 60), 0, 0] = true ∧ shared.rqBad [BitVec.ofNat 64 (2 ^ 60), 0x10001, 0x50000] = true ∧
    shared.siltin = .ready ∧ State.reset.siltin ≠ .ready := by decide
theorem inHand_share : InHand shared 0 1 0x3000 [BitVec.ofNat 64 (2 ^ 60 + 1), 0x10000, 0x50000] 0 :=
  ⟨by decide, by decide, by decide, by decide⟩
theorem witness_share : 0 + 1 < rqPages [BitVec.ofNat 64 (2 ^ 60 + 1)] ∧
    shared.leafOf 0 (srcVa [0, 0x10000, 0x50000] 0) = .leaf ⟨BitVec.ofNat 64 (4 * 65536 + 0x4033), 131080, false⟩ ∧
    shared.entryBusy ⟨BitVec.ofNat 64 (4 * 65536 + 0x4033), 131080, false⟩ = false ∧
    shared.leafFrame ⟨BitVec.ofNat 64 (4 * 65536 + 0x4033), 131080, false⟩ = some (4 * 65536) ∧
    entRun (BitVec.ofNat 64 (4 * 65536 + 0x4033)) = false ∧
    shared.leafPlace 0 (0x50000 + 65536 * 0) = .leaf ⟨0, 131112, false⟩ ∧ entV (0 : Dword) = false ∧
    (shared.frame 4).refc < 65535 ∧ shared.tableFrame 0x10000 (4 * 65536) = false ∧ (shared.frame 4).pin = false ∧
    131080 + 8 ≤ 131112 ∧ shared.leafOf 0 0x70000 = .bad := by decide +kernel
/-- R347: the bits of the spec's worked example of a shared page. -/
theorem test_share : ∃ u, exec (.share 0) shared = .next u ∧ u.entryAt 131080 = BitVec.ofNat 64 (4 * 65536 + 0x4193) ∧
    (u.frame 4).refc = 2 := ⟨_, rfl, by decide +kernel, by decide +kernel⟩
/-- `PagesAreRefused`: what each operation's page breaks, beside what the other witnesses show. -/
theorem witness_refusedPages :
    shared.leafPlace 0 (2 ^ 52) = .bad ∧ shared.leafPlace 0 0x10000 = .leaf ⟨BitVec.ofNat 64 (4 * 65536 + 0x4033), 131080, false⟩ ∧
    entV (BitVec.ofNat 64 (4 * 65536 + 0x4033)) = true ∧ 65535 ≤ ((shared.setFrame 4 { refc := 65535 }).frame 4).refc ∧
    ((shared.setFrame 4 { refc := 1, pin := true }).frame 4).pin = true ∧
    (shared.setFrame 4 { refc := 1, table := true }).tableFrame 0x10000 (4 * 65536) = true ∧
    ((shared.setFrame 4 { refc := 2 }).frame 4).refc ≠ 1 ∧ shared.leafFrame ⟨0x3F, 131080, false⟩ = none ∧
    (⟨0x3F, 131080, true⟩ : Leaf).big = true ∧ entTier 0x3F = 3 ∧ entTier (2 ^ 51) ≠ 3 ∧
    shared.leafFrame ⟨2 ^ 51, 131080, false⟩ = none := by decide +kernel

/-- Every frame of the stacks holds a page. -/
def usedFrames (n : Nat) : Tab Frame := (List.range n).map fun i => (i, { refc := 1 })
def crowded (s : State) : State := { s with frames := usedFrames (2 ^ 23) }
theorem get_used (l : List Nat) {j : Nat} (h : j ∈ l) :
    Tab.get ({} : Frame) (l.map fun i => (i, ({ refc := 1 } : Frame))) j = { refc := 1 } := by
  induction l with
  | nil => cases h
  | cons x t ih =>
    by_cases e : x = j
    · simp [Tab.get, e]
    · have := ih ((List.mem_cons.1 h).resolve_left fun y => e y.symm)
      simp only [Tab.get, List.map_cons] at this ⊢
      simpa [e] using this
theorem frame_used (s : State) (n : Nat) {i : Nat} (h : i < n) : State.frame { s with frames := usedFrames n } i = { refc := 1 } :=
  get_used _ (List.mem_range.2 h)
theorem noneBelow_of (p : Nat → Bool) (n : Nat) (h : ∀ i, i < n → p i = false) : noneBelow p n = true := by
  induction n with
  | zero => rfl
  | succ n ih => simp [noneBelow, h n (by omega), ih fun i hi => h i (by omega)]
theorem witness_tierFull (s : State) : (crowded s).tierFull 0 1 = true := by
  refine noneBelow_of _ _ fun f hf => ?_
  have hf : f < 2 ^ 23 := hf
  have e : (BitVec.ofNat 36 f).toNat = f := Nat.mod_eq_of_lt (by omega)
  unfold State.freeFrame
  rw [e]
  cases h : (crowded s).frameBase 0 f 1 with
  | none => rfl
  | some b =>
    have hb : frameOf b = f := by
      unfold State.frameBase at h
      simp only at h
      split at h
      · cases h
        unfold hbmAddr frameOf
        omega
      · cases h
    have w : (crowded s).frame f = { refc := 1 } := frame_used s (2 ^ 23) hf
    simp [hb, w]

def unsharing : State := asking ((paged [(1, cowLeaf)] false).setFrame 4 { refc := 2 }) 2 2 0 0x10000
theorem witness_unshare : InHand unsharing 0 2 0x3000 [BitVec.ofNat 64 (2 * 2 ^ 60 + 1), 0, 0x10000] 0 ∧
    unsharing.leafOf 0 (dstVa [0, 0, 0x10000] 0) = .leaf ⟨BitVec.ofNat 64 cowLeaf, 131080, false⟩ ∧
    unsharing.entryBusy ⟨BitVec.ofNat 64 cowLeaf, 131080, false⟩ = false ∧
    unsharing.leafFrame ⟨BitVec.ofNat 64 cowLeaf, 131080, false⟩ = some (4 * 65536) ∧
    unsharing.leafFrame ⟨0x3F, 131080, false⟩ = none :=
  ⟨⟨by decide, by decide, by decide, by decide⟩, by decide +kernel⟩
def migrating : State := asking ((paged [(1, 4 * 65536 + 0x4033)] false).setFrame 4 { refc := 1 }) 3 2 0x10000 0
theorem witness_migrate : InHand migrating 0 3 0x3000 [BitVec.ofNat 64 (3 * 2 ^ 60 + 1), 0x10000, 0] 0 ∧
    (∀ m ∈ migrating.moves, m.req ≠ some 0) ∧
    migrating.leafOf 0 (srcVa [0, 0x10000, 0] 0) = .leaf ⟨BitVec.ofNat 64 (4 * 65536 + 0x4033), 131080, false⟩ ∧
    entTier (BitVec.ofNat 64 (4 * 65536 + 0x4033)) < 3 ∧ rqDtier [BitVec.ofNat 64 (3 * 2 ^ 60 + 1)] < 3 ∧ (migrating.frame 4).refc = 1 ∧
    migrating.entryBusy ⟨BitVec.ofNat 64 (4 * 65536 + 0x4033), 131080, false⟩ = false ∧
    migrating.leafFrame ⟨BitVec.ofNat 64 (4 * 65536 + 0x4033), 131080, false⟩ = some (4 * 65536) ∧
    migrating.tableFrame 0x10000 (4 * 65536) = false ∧ (migrating.frame 4).pin = false ∧
    migrating.freeFrame 0 9 1 = some (9 * 65536) := ⟨⟨by decide, by decide, by decide, by decide⟩, by decide +kernel⟩
def pageMove (long : Bool) (step : Nat) : PageMove :=
  { asid := 0, va := 0x10000, long, srcTier := if long then 3 else 0, srcFrame := 4, dstTier := 0, dstFrame := 9
    req := if long then none else some 0, at_ := 131080
    big := false, step }
theorem witness_moves_page : ({ migrating with moves := [pageMove false 0] } : State).moves = [] ++ pageMove false 0 :: [] ∧
    migrating.frameBase (pageMove false 0).srcTier.toNat (pageMove false 0).srcFrame.toNat 1 = some (4 * 65536) ∧
    migrating.frameBase (pageMove false 2).dstTier.toNat (pageMove false 2).dstFrame.toNat 1 = some (9 * 65536) ∧
    (pageMove false 0).at_ + 8 ≤ 9 * 65536 ∧ migrating.mem.wf = true ∧ (pageMove false 2).req = some 0 ∧
    (∀ r ∈ ({ migrating with pageReqs := [] } : State).pageReqs, r.asid ≠ (pageMove false 2).asid) ∧
    0 + 1 < rqPages [BitVec.ofNat 64 (3 * 2 ^ 60 + 1)] := by decide +kernel
/-- `FrameWordsAreReadable`: a frame of stack 1; a tier with a table, in page 0 of ASID 0, and one without. -/
theorem witness_frameTable : frameTier (2 ^ 20 + 5) = (0, 2 ^ 20 + 5) ∧ Tab.has demo.frameTab 0 = false ∧
    Tab.has [(0, (0x2000 : Dword))] 0 = true ∧
    (match (({ demo with frameTab := [(0, 0x2000)] } : State).setFrame 5 { refc := 1 }).devWrite 0 0 (0x2000 + BitVec.ofNat 64 (4 * 5))
        (leBytes 4 1) with | .ok _ => true | _ => false) = true := by decide +kernel
theorem witness_parties : ∀ k c, (Waits.chunk chunk5.id 0) ≠ .ctx k c := fun _ _ h => by cases h
theorem witness_longMove : (pageMove true 1).long = true ∧ (pageMove true 1).srcTier = 3 ∧ (pageMove true 1).big = false ∧
    migrating.frameBase (pageMove true 1).dstTier.toNat (pageMove true 1).dstFrame.toNat 1 = some (9 * 65536) ∧
    (({ bytes := [(0, 5), (9, 7)] } : HostPage).bytes.map Prod.fst).Nodup ∧ ({ pageMove true 1 with dstTier := 3 } : PageMove).dstTier = 3 ∧ (pageMove true 1).req = none ∧ (pageMove true 0).step ≠ 1 := by
  decide +kernel
theorem witness_inval : InHand (asking (paged [] false) 4 2 0x10000 0) 0 4 0x3000 [BitVec.ofNat 64 (4 * 2 ^ 60 + 1), 0x10000, 0] 0 ∧
    ∀ k, ((asking (paged [] false) 4 2 0x10000 0).core k).stores = [] := by
  refine ⟨⟨by decide, by decide, by decide, by decide⟩, ?_⟩
  intro k
  have e : (asking (paged [] false) 4 2 0x10000 0).cores = demo.cores := rfl
  have f : demo.cores.map Prod.fst = [0] := by decide
  unfold State.core
  rw [e]
  by_cases h : k = 0
  · subst h
    decide
  · have : demo.cores = [(0, (demo.cores.headD (0, {})).2)] := by decide
    rw [this]
    simp [Tab.get, Ne.symm h]

/-! ### Witnesses: the Dispatchers -/

/-- Page 0 of ASID 0 readable and writable; no card, no context. -/
def mapped : State := { demo with cards := [], cores := [] }
/-- Bytes at an offset of page 0. -/
def atPage (s : State) (o : Nat) (l : List Byte) : State :=
  s.writeModule (((List.range l.length).zip l).map fun x => (3 * 65536 + o + x.1, x.2))
/-- A card for context 0 of core 0 whose kernel, at 0x1000, the cache knows as good; it writes 0x3000 to 0x300F. -/
def goodCard : List Dword := [0x1001010, 0x1000, 0x2000] ++ List.replicate 13 0
/-- Stream 4 of die 0 holds this card; a card in flight reads what it writes. -/
def accepting (card : List Dword) : State :=
  let s := atPage (atPage (atPage mapped 0x4000 (card.flatMap dwordBytes)) 0x2000 ([0x3000, 15].flatMap dwordBytes)) 0x101E [1]
  let s := s.modDisp 0 fun x => { x with kcache := [(0, 0x1000, true, true)], lastStream := 9 }
  { s.setStream 0 4 { sqbase := 0x4000, cqbase := 0x5000, sqlog := 4, cqlog := 4, valid := true, spi := 1 } with
    cards := [(1, { die := 0, stream := 2, dw := [], st := .running, reads := [(0x300F, 4)] })], seqCtr := 2 }
theorem witness_accept : (accepting goodCard).siltin = .ready ∧ ((accepting goodCard).die 0).disp.lastStream < 64 ∧
    (accepting goodCard).mayAccept 0 4 = true ∧
    (∀ m, m < 64 → (accepting goodCard).mayAccept 0 m = true → streamTurn (accepting goodCard) 0 4 ≤ streamTurn (accepting goodCard) 0 m) ∧
    (∀ m, m < 64 → (mapped.mayAccept 0 m) = false) ∧
    (accepting goodCard).devRead 0 0 (((accepting goodCard).stream 0 4).sqbase + BitVec.ofNat 64 (128 * (0 % 2 ^ 4))) 128 =
      .ok (goodCard.flatMap dwordBytes) ∧
    (accepting goodCard).checkCard { die := 0, stream := 4, dw := goodCard } = .ok (0, [(0x3000, 16)], 1 <<< 240) := by
  decide +kernel
theorem witness_checks : ({ die := 0, stream := 4, dw := [8] } : Card).fieldsOk = false ∧
    ({ die := 0, stream := 4, dw := goodCard } : Card).fieldsOk = true ∧ (State.reset.space 0 0).getLsbD 0 = false ∧
    ({ die := 0, stream := 4, dw := [] } : Card).fieldsOk = true ∧ ({ die := 0, stream := 4, dw := [] } : Card).nread = 0 ∧
    ({ die := 0, stream := 4, dw := [] } : Card).cmask = 0 := by decide
theorem witness_doorbell : ((5 : Word) - ((accepting []).stream 0 4).sci).toNat ≤ 2 ^ ((accepting []).stream 0 4).sqlog.toNat ∧
    2 ^ ((accepting []).stream 0 4).sqlog.toNat < ((17 : Word) - ((accepting []).stream 0 4).sci).toNat := by decide

/-- A waiting card without ranges, on an idle core. -/
def waitingCard : Card := { die := 0, stream := 4, dw := [0x1001000, 0x1000], hdr := 1 <<< 240, admAt := 3 }
def launching (x : Card) : State := { mapped with cards := [(7, x)], timebase := 50 }
theorem witness_ages : (launching waitingCard).admissible 7 = true ∧
    ({ launching waitingCard with cards := [(6, { waitingCard with cleaned := true }), (7, { waitingCard with edges := [6] })] }
      : State).admissible 7 = true ∧
    ({ launching waitingCard with cards := [(6, waitingCard), (7, { waitingCard with edges := [6] })] }
      : State).admissible 7 = false ∧
    (launching { waitingCard with rejected := true }).admissible 7 = false := by decide
theorem witness_choice : (launching waitingCard).chosen 0 0 = some 7 ∧ (∀ z ∈ (launching waitingCard).cards, z.1 < 2 ^ 64) ∧
    ((launching waitingCard).cards.map Prod.fst).Nodup ∧ Tab.get 63 ((launching waitingCard).die 0).disp.yardStream 0 < 64 := by
  decide +kernel
theorem witness_launch : (agedAll (launching waitingCard)).chosen 0 0 = some 7 ∧
    ((agedAll (launching waitingCard)).card 7).urgent = false ∧ ((agedAll (launching waitingCard)).card 7).st = .waiting ∧
    (agedAll (launching waitingCard)).launchRead ((agedAll (launching waitingCard)).card 7) = .ok ([], []) ∧
    (agedAll (launching { waitingCard with rejected := true })).chosen 0 0 = none ∧
    (agedAll (launching { waitingCard with st := .evicted, saved := [(0, 0)] })).chosen 0 0 = some 7 := by decide +kernel

/-- Card 0 (class halt) runs on context 0; urgent card 8 wants context 1, then context 0. -/
def urging (word : Dword) (class_ : Nat) : State :=
  let s := demo.modCard 0 fun x => { x with dw := [BitVec.ofNat 64 (0x1001000 + class_ * 2 ^ 58), 0x1000] }
  { s with cards := s.cards ++ [(8, { waitingCard with dw := [word, 0x1000] })] }
theorem witness_preempt : ((urging 0xF000000001002000 1).card 8).urgent = true ∧ (urging 0xF000000001002000 1).launchable 8 = true ∧
    ((urging 0xF000000001002000 1).card 8).coresOf = [0] ∧ (urging 0xF000000001002000 1).victims 8 0 = [0] ∧
    0 ∈ bitsOf ((urging 0xF000000001002000 1).card 0).ctxmask 8 ∧ (urging 0xF000000001002000 1).holdsCtx 0 0 0 = true ∧
    ((urging 0xF000000001002000 1).ctx 0 0).st = .running ∧
    (urging 0xF000000001001000 2).launchable 8 = false ∧ (urging 0xF000000001001000 2).admissible 8 = true ∧
    (urging 0xF000000001001000 2).skipped 8 = false ∧ (urging 0xF000000001001000 2).mayEvict ((urging 0xF000000001001000 2).card 8) = true ∧
    (0, 0) ∈ (urging 0xF000000001001000 2).blockers ((urging 0xF000000001001000 2).card 8) ∧
    (0, 0) ∈ ((urging 0xF000000001001000 2).card 0).placed := by decide +kernel
theorem witness_completeCards :
    (Tab.has (launching { waitingCard with rejected := true, status := 5 }).cards 7 = true ∧
      PlainEnd ((launching { waitingCard with rejected := true, status := 5 }).card 7)) ∧
    (launching { waitingCard with st := .running, kept := [(0, 0, {})] }).finished 7 = true ∧
    (launching { waitingCard with st := .running }).skipped 7 = false ∧
    ({ launching { waitingCard with dw := [0x0200000001001000], edges := [6] } with
        cards := [(6, { waitingCard with st := .done, cleaned := true, status := 1 }), (7, { waitingCard with dw := [0x0200000001001000], edges := [6] })] }
      : State).skipped 7 = true ∧
    ({ waitingCard with dw := [0, 0, 0, 0, 0, 0, 0, 0x30002] } : Card).camt ≠ 0 := by
  unfold PlainEnd
  decide +kernel
theorem witness_unfinished : (urging 0xF000000001001000 2).finished 0 = false ∧ ((urging 0xF000000001001000 2).card 0).st ≠ .done ∧
    (urging 0xF000000001001000 2).skipped 0 = false := by decide +kernel
theorem witness_record : waitingCard.status < 256 ∧ waitingCard.stream < 64 ∧ waitingCard.die < 2 ∧ waitingCard.launchAt = none ∧
    ({ waitingCard with launchAt := some 9 } : Card).launchAt = some 9 ∧ (7 : Nat) < 2 ^ 64 := by decide
def wdrun (t : Nat) : State :=
  { demo with timebase := BitVec.ofNat 64 t } |>.modCard 0 fun x => { x with dw := [0x1001000, 0x1000, 0, 0, 0, 2], st := .running, runSince := 5 }
theorem witness_wdrun : ((wdrun 2097158).card 0).status = 0 ∧ (wdrun 2097158).failStatus 0 = 0 ∧
    (((wdrun 0).card 0).dword 5).extractLsb' 0 32 ≠ 0 ∧ 2 * 1048576 < 0 + (2097158 - 5) ∧ 0 + (2097157 - 5) ≤ 2 * 1048576 ∧
    ((wdrun 2097158).timebase.toNat = 2097158) := by decide +kernel

/-- A card whose steps 1 and 2 are done, with a report area at this address, on contexts of core 0. -/
def counted (a : Dword) : State :=
  launching { waitingCard with st := .running, cleaned := true, dw := [0x1001000, 0x1000, 0, 0, 0, 0, a] }
def reportDone : ReportRes → Nat
  | .done _ => 0
  | .bad _ => 1
  | .wait _ i => if i = some (.domain 32) then 2 else 3
theorem witness_report :
    ((counted 0).card 7).cleaned = true ∧ ((counted 0).card 7).dword 6 = 0 ∧ ((counted 0x3000).card 7).dword 6 ≠ 0 ∧
    reportDone ((counted 0x3000).writeReport ((counted 0x3000).card 7).die ((counted 0x3000).card 7).asid
      (reportPieces (counted 0x3000) 7)) = 0 ∧
    reportDone ((counted 0x100000).writeReport ((counted 0x100000).card 7).die ((counted 0x100000).card 7).asid
      (reportPieces (counted 0x100000) 7)) = 1 ∧
    reportDone (((counted 0x3000).setDomain 32 { power := .retention }).writeReport ((counted 0x3000).card 7).die
      ((counted 0x3000).card 7).asid (reportPieces (counted 0x3000) 7)) = 2 := by decide +kernel
/-- Ranges to clean: one that can be, and one whose stack is in RETENTION. -/
def ranged : State := launching { waitingCard with st := .running, kept := [(0, 0, {})], writes := [(0x3000, 16)] }
theorem witness_ranges : ranged.finished 7 = true ∧ (ranged.card 7).status ≠ 11 ∧
    (∀ r ∈ (ranged.card 7).writes, ranged.rangeWait 0 0 r = none) ∧
    (ranged.setDomain 32 { power := .retention }).rangeWait 0 0 (0x3000, 16) = some (some (.domain 32)) ∧ ranged.cores = [] ∧
    ranged.rangePieces 0 0 (0x3000, 16) = [(0x33000, 16)] ∧ ranged.mem.wf = true ∧
    ranged.rangePieces 0 0 (0xFFFF, 1) = [(0x3FFFF, 1)] ∧
    (0x33007, 9) ∈ ((ranged.modDie 0 fun d => { d with l2 := [(0x33007, 9)] }).die 0).l2 ∧
    (ranged.modDie 0 fun d => { d with l2 := [(0x33007, 9)] }).rangePieces 0 0 (0x3000, 16) = [(0x33000, 16)] := by decide +kernel
/-- An urgent card whose victim still runs, and has halted; one whose kernel's image cannot be read; one that was evicted. -/
theorem witness_launchWaits :
    ((urging 0xF000000001002000 1).card 8).coresOf.all ((urging 0xF000000001002000 1).victimsDone 8) = false ∧
    ((urging 0xF000000001002000 1).modCtx 0 0 fun x => { x with st := .halted }).victimsDone 8 0 = true ∧
    (match mapped.launchRead { waitingCard with dw := [0x1001000, 0x100000], hdr := 1 <<< 416 } with
      | .fault _ _ => true | _ => false) = true ∧
    ((launching waitingCard).setDomain 32 { power := .retention }).launchRead { waitingCard with hdr := 1 <<< 416 } = .wait (some (.domain 32)) ∧
    ({ waitingCard with st := .evicted, saved := [(0, 0)] } : Card).st = .evicted := by decide +kernel

/-! ### Witnesses: links, reset, power, temperature, wear, the host -/

/-- A copy between a buffer and global memory. -/
def farCopy : Transfer := { copyGo true 0 with xa := 0xC000000000003000 }
/-- What each kind of lost packet needs: a copy in flight, a stalled global access, a store in its queue, a work entry, a stage,
a message, and the chunk of an entry. -/
theorem witness_links : InFlight (withTransfers demo [farCopy]) 0 [] farCopy [] ∧
    farCopy.mayOverlap 0 = false ∧ farCopy.pending = [] ∧ demo.vaults = [] ∧ (demo.die 0).stages = [] ∧
    (demo.modCore 0 fun q => { q with hold := some .global }).issuer 0 = some 0 ∧
    (∃ p, (draining.core 0).stores = [] ++ p :: [] ∧ Tab.has draining.cards p.card = true) ∧
    (cleared [copyEntry]).entries = [copyEntry] ∧ HeldStage (staged [stageOf 2]) 0 [] (stageOf 2) [] subTransfer ∧
    ({ cleared [copyEntry] with inbox := [.counterAck chunk5.id 0, .chunk chunk5] } : State).inbox[1]? = some (.chunk chunk5) ∧
    copyEntry.d = chunk5.id.die ∧ copyEntry.qp = chunk5.id.qp ∧ copyEntry.eseq = chunk5.id.eseq :=
  ⟨⟨rfl, by decide⟩, by decide +kernel, rfl, rfl, rfl, by decide, ⟨_, rfl, by decide⟩, rfl, held_stage 2 _ rfl, rfl, by decide⟩
theorem witness_features : FeatGood 0x3FF 0x3FF ∧ FeatGood 0x3FF 1 ∧ ¬ FeatGood 0x3FF 0x401 ∧ ¬ FeatGood 1 3 ∧
    ({ State.reset with siltin := .published } : State).siltin = .published := by
  refine ⟨⟨rfl, ?_, ?_⟩, ⟨rfl, ?_, ?_⟩, fun h => absurd (h.2.1 10 (by decide) (by decide)) (by decide),
    fun h => absurd (h.2.2 1 (by decide) (by decide) (by decide)) (by decide), rfl⟩ <;>
  · intro b h1 h2
    revert h1
    revert b
    decide
/-- Domains 0, 24, 32 and 40 are the first of their classes. -/
theorem witness_power : powerForm (.powerRetention 0x400000) = some 0x1000002 ∧ commandFor 24 2 = 0x1000002 ∧
    commandFor 0 1 = 1 ∧ commandFor 32 3 = 0x2000003 ∧ commandFor 40 0 = 0x3000000 ∧
    (0x10000004 : BitVec 64).extractLsb' 28 36 ≠ 0 ∧ (0x10000004 : BitVec 64).extractLsb' 2 14 ≠ 0 ∧
    ({ State.reset with pwrQueue := [0x1000002] } : State).pwrQueue = [commandFor 24 Power.retention.code] ∧
    State.reset.powerBusy 24 .retention = false ∧ State.reset.powerBusy 0 .off = false ∧ demo.powerBusy 0 .off = true := by decide +kernel
/-- Readings at the thresholds: at WARN, one below it, 24 below it; at CRIT and around it; the last below 115 °C, and 115 °C. -/
theorem witness_thermal : (State.reset.domain 5).warn = 760 ∧ (State.reset.domain 5).crit = 840 ∧
    (760 : Int) ≤ (760 : Half).toInt ∧ (759 : Half).toInt < 760 ∧ 760 - 24 < (759 : Half).toInt ∧ (736 : Half).toInt ≤ 760 - 24 ∧
    (840 : Int) ≤ (840 : Half).toInt ∧ (839 : Half).toInt < 840 ∧ 840 - 24 < (839 : Half).toInt ∧ (816 : Half).toInt ≤ 840 - 24 ∧
    (919 : Half).toInt < 920 ∧ 920 ≤ (920 : Half).toInt ∧ State.reset.tripped = false := by decide
theorem witness_tripped : Instr.moduleReset.ok = true ∧ Instr.triplogRead.ok = true ∧ Instr.nop.ok = true ∧
    Instr.nop.afterTrip = false ∧
    ({ State.reset with tripped := true, schedule := [{ dt := 2, ev := .moduleReset }] } : State).schedule =
      { dt := 2, ev := Instr.moduleReset } :: [] := by decide
/-- Ratios of 0 over 0, of one, and of 1 in 3; the boundaries of the samples kept. -/
theorem witness_wear : Parts 0 (0, 0) ∧ Parts 65535 (4, 4) ∧ Parts 21845 (1, 3) ∧ (State.reset.domain 3).samples.length < 6 ∧
    (List.replicate 89 (0, 0) : List (Nat × Nat)).length < 90 ∧ (List.replicate 29 0 : List Nat).length < 30 ∧
    (3 < 24) ∧ 24 ≤ 39 ∧ 39 < 40 := by
  unfold Parts
  decide
theorem witness_registers : ({ State.reset with siltin := .ready } : State).siltin = .ready ∧ State.reset.siltin ≠ .ready ∧
    0x2002100 % 4 = 0 ∧ 0x3 % 4 ≠ 0 ∧ State.reset.bar0Read 0x2000000 = State.reset.bar0Read 0x2000000 := by decide
/-- BAR2: four bytes of the mapped page; past the window; a page that is not mapped. -/
theorem witness_bar2 : 0x3000 + ([1, 2, 3, 4] : List Byte).length ≤ 2 ^ 52 ∧ 2 ^ 52 < (2 ^ 52 - 1) + ([1, 2] : List Byte).length ∧
    mapped.devSpan 0 0 .write (BitVec.ofNat 64 0x3000) 4 = .ok [0x33000, 0x33001, 0x33002, 0x33003] false ∧
    ([0x33000, 0x33001, 0x33002, 0x33003] : List Nat).Nodup ∧
    mapped.devSpan 0 0 .write (BitVec.ofNat 64 0x200000) 1 = .fault .translationFault 0x200000 := by decide +kernel
/-- R380: TRIPLOG after a trip at 115 °C of domain 5. -/
theorem test_trip : ∃ u, exec (.thermalTrip 5 920) { State.reset with timebase := 77 } = .next u ∧ u.tripTime = 77 ∧ u.tripped = true :=
  ⟨_, rfl, by decide +kernel, by decide +kernel⟩

/-! ### Witnesses: what waits, and the clauses beside the others -/

/-- A row unit holds pseudo-channel group `g` of stack 0, each of which serves two of the blocks of 2,048 bytes of a frame. -/
def heldGroup (s : State) (g : Nat) : State := { s with units := [(0, { holds := [.stack 0 g] })] }
theorem witness_unheld : ((seen demo).rowHeld (place 4)) = none ∧
    (heldGroup demo 4).rowHeld [3 * 65536 + 0x2000] = some (.stack 0 4) ∧ (heldGroup demo 4).rowHeld [3 * 65536] = none := by
  decide +kernel

theorem witness_trapRegisters : ((seen inHandler).ctx 0 0).guard always = true ∧ ((seen inHandler).ctx 0 0).inHandler = true ∧
    ((seen inHandler).ctx 0 0).records.length ≤ 8 ∧ ((seen inHandler).ctx 0 0).lost ≤ 255 ∧
    ((seen inHandler).ctx 0 0).guard never = false ∧ ((seen demo).ctx 0 0).guard never = false ∧ (Csr.fflags).code.toNat < 0x100 ∧
    (∃ o g rd ra r, csrForm (.csrs never 1 2 .fflags) = some (o, g, rd, ra, r) ∧ csrAllowed ((seen demo).ctx 0 0) o ra r) :=
  ⟨by decide, by decide, by decide, by decide, by decide, by decide, by decide, _, _, _, _, _, rfl, .inr ⟨by decide, fun h => by cases h⟩⟩

/-- Two results of one bundle that are due together, for one register or for two. -/
def meeting (a b : Reg) : State :=
  demo.modCtx 0 0 fun x => { x with flights := [{ flight5 1 0 0 with dest := .x a }, { flight5 1 0 0 with dest := .x b, slot := 3 }] }
theorem witness_meeting : AtBoundary (meeting 5 5) 0 0 ∧
    (meeting 5 5).core 0 = { (meeting 5 5).core 0 with ctxs := [(0, (meeting 5 5).ctx 0 0)] } ∧
    ((meeting 5 5).ctx 0 0).mintEvs = [] ∧ Meet (.x 5) (.x 5) ∧ ¬ Meet (.x 5) (.x 6) :=
  ⟨⟨by decide, rfl, rfl, by decide, rfl, rfl⟩, rfl, rfl, by unfold Meet; decide, by unfold Meet; decide⟩
/-- A record that waits to trap while a result is due; its card's handler is not valid, and valid. -/
def recorded : State := demo.modCtx 0 0 fun x => { x with pend := true, flights := [flight5 1 0 0] }
theorem witness_recorded : recorded.issuer 0 = some 0 ∧ ((recorded.core 0).ctxs.map Prod.fst).Nodup ∧
    (recorded.core 0).stalled = false ∧ (recorded.ctx 0 0).pend = true ∧ (recorded.ctx 0 0).fpPend = none ∧
    (∀ f ∈ (recorded.ctx 0 0).flights, f.flags &&& f.traps = 0) ∧
    hvalid ((recorded.modDie 0 fun d => { d with handlers := [((recorded.cardOf 0 0).hsel, 1)] }).handler 0 0) = true := by
  decide

/-- The hand of `handDemo` with rings that name it: as consumer two filled slots of four, as producer all four filled. -/
def handRings (x5 : Dword) : State :=
  (handDemo.modHand 0 .load fun h => { h with x := [(5, x5)] }).modCore 0 fun q =>
    { q with rings := [(1, { ring1 with cons := .loadHand, prod := .loadHand }), (2, { ring1 with prod := .loadHand, fill := 4 })] }
theorem witness_handRings : HandConsumes (((handRings 3).core 0).ring 1) .load ∧ HandProduces (((handRings 3).core 0).ring 1) .load ∧
    (((handRings 3).core 0).ring 1).fill.toNat < 3 ∧ (3 : Nat) ≤ (((handRings 3).core 0).ring 1).slots.toNat + 1 ∧
    (((handRings 3).core 0).ring 1).slots.toNat + 1 < 3 + (((handRings 3).core 0).ring 1).fill.toNat ∧
    (((handRings 3).core 0).ring 1).slots.toNat + 1 < 5 ∧
    (((handRings 3).core 0).ring 2).slots.toNat + 1 ≤ (((handRings 3).core 0).ring 2).fill.toNat := by
  unfold HandConsumes HandProduces
  decide
/-- A store that the hand has acquired, and one that it has not; the place of the first is held, or not. -/
def acquired : State :=
  (handDemo.modHand 0 .load fun h => { h with acq := 1 }).modCore 0 fun q =>
    { q with
      stores := [{ c := 0, card := 0, bytes := [(3 * 65536 + 0x2000, 1)], va := 0x2000, level := .core, need := none, ord := 0, direct := false }]
      storeCtr := 1 }
theorem witness_acquired : acquired.storesWait 0 true (acquired.hand 0 .load).acquired = none ∧
    (heldGroup acquired 4).storesWait 0 true (acquired.hand 0 .load).acquired = some (.channel (.stack 0 4)) ∧
    Scope.module ≠ Scope.core ∧ 3 ≤ Scope.module.rank := by decide +kernel

/-- A started command and buffers in canonical form, one byte of the W-buffer written since. -/
theorem witness_settled : (begunCmd { kind := .stream }).started = true ∧
    (∀ m ∈ [(begunCmd { kind := .stream }).wsrc, (begunCmd { kind := .stream }).wbegun, (demo.core 0).wb, (demo.core 0).ab], m.wf = true) := by
  decide

/-- The unit of `gathering`, its Vault's memory in RETENTION. -/
theorem witness_retained : (gathering.setDomain 24 { power := .retention }).unitStopped (.vault 0 0) = true ∧
    gathering.unitStopped (.vault 0 0) = false ∧ (gathering.setDomain 24 { power := .retention }).focus = .unit (.vault 0 0) ∧
    (gathering.setDomain 24 { power := .retention }).rowEnv (.vault 0 0) = some gatherEnv := by decide +kernel
/-- A handed sector that may be written, and one whose Vault sleeps. -/
theorem witness_mayWrite : MayWrite gathering 0 { handedWrite with sector := 2 ^ 33 } ∧
    ¬ MayWrite (gathering.setDomain 24 { power := .retention }) 0 { handedWrite with sector := 2 ^ 33 } := by
  constructor
  · refine ⟨by decide +kernel, fun c h => ?_⟩
    have : (gathering.vault 0).writeChan { handedWrite with sector := 2 ^ 33 } = some (.vault 0 0) := by decide +kernel
    cases Option.some.inj (this.symm.trans h)
    decide +kernel
  · exact fun h => absurd h.1 (by decide +kernel)

/-- A transfer that notifies at module scope, behind a fenced store of its context. -/
def notifying : Transfer := { copyGo true 0 with notify := 1 ||| (3 <<< 6), fenceOrd := 1 }
def behind : State :=
  (withTransfers demo [notifying]).modCore 0 fun q =>
    { q with
      stores := [{ c := 0, card := 0, bytes := [(3 * 65536 + 0x2000, 1)], va := 0x2000, level := .core, need := some .module, ord := 0, direct := false }]
      storeCtr := 1 }
theorem witness_noteWait : behind.noteWait 0 notifying = none ∧
    (heldGroup behind 4).noteWait 0 notifying = some (.channel (.stack 0 4)) ∧
    (heldGroup behind 4).releaseWait 0 notifying 3 = some (.channel (.stack 0 4)) ∧ behind.releaseWait 0 notifying 3 = none ∧
    noteEn notifying.notify = true ∧ 3 ≤ noteScope notifying.notify ∧ notifying.pending = [] ∧
    NothingToRelease (withTransfers demo [notifying]) 0 notifying := by
  refine ⟨by decide +kernel, by decide +kernel, by decide +kernel, by decide +kernel, by decide, by decide, rfl, .inr rfl⟩
theorem witness_mayFlush : MayFlush behind notifying ∧
    MayFlush behind { notifying with pending := [{ va := 0x3000, pa := some (3 * 65536 + 0x3000), byte := 1, table := false }] } ∧
    ¬ MayFlush behind { notifying with pending := [{ va := 0x3000, pa := none, byte := 1, table := false }] } := by
  unfold MayFlush
  decide +kernel

/-- The last context of a card in its exit's fills, the others evicted. -/
def lastOut : State :=
  (demo.modCtx 0 0 fun x => { x with phase := .exitFill }).modCard 0 fun x => { x with st := .running, saved := [(1, 0)], dw := [0x3001000] }
theorem witness_lastOut : lastOut.issuer 0 = some 0 ∧ (lastOut.core 0).hold = none ∧ (lastOut.ctx 0 0).phase = .exitFill ∧
    (lastOut.ctx 0 0).card = some 0 ∧ (lastOut.card 0).st = .running ∧ (lastOut.card 0).saved ≠ [] ∧
    (∀ x ∈ (lastOut.core 0).ctxs, x.2.flights = []) ∧
    ∀ y ∈ (lastOut.card 0).placed, y ≠ (0, 0) → lastOut.holdsCtx 0 y.1 y.2 = false := by decide
/-- A card without a failure. -/
theorem witness_noFailure : (saving.card 0).status = 0 ∧ (∀ y ∈ (saving.card 0).placed, (saving.ctx y.1 y.2).st ≠ .stopped) ∧
    (∀ y ∈ (saving.card 0).kept, y.2.2.faultExit = false) := by decide

/-- An entry that notifies flag 3 of core 0: its context's kernel names the flag, or does not. -/
def notingEntry : Entry := { copyEntry with acked := [0], dw := copyWords 1 |>.set 6 (1 ||| (3 <<< 1)) }
theorem witness_entryNote : noteEn (notingEntry.dword 6) = true ∧ notingEntry.fail = none ∧
    ({ flagged with entries := [notingEntry] } : State).noteMay 0 (noteFlag (notingEntry.dword 6)) notingEntry.asid = true ∧
    ({ demo with entries := [notingEntry] } : State).noteMay 0 (noteFlag (notingEntry.dword 6)) notingEntry.asid = false := by
  decide +kernel
/-- R270: the narrowed word, the larger and the smaller, the merge of a triple into an empty one. -/
theorem test_applyElem_more : (applyElem .narrow (leBytes 4 0) [0x3F804000]).1 = leBytes 2 0x3F80 ∧
    (applyElem .max (leBytes 4 0x3F800000) [0x40000000]).1 = leBytes 4 0x40000000 ∧
    (applyElem .min (leBytes 4 0x3F800000) [0x40000000]).1 = leBytes 4 0x3F800000 ∧
    (applyElem .triple (leBytes 4 0 ++ leBytes 4 0 ++ leBytes 4 0) [0x3F800000, 0x40000000, 0]).1 =
      leBytes 4 0x3F800000 ++ leBytes 4 0x40000000 ++ leBytes 4 0 := by decide +kernel
theorem witness_firstOfRoute : FirstOfRoute { cleared [copyEntry] with inbox := [.chunkAck chunk5.id 0 0 none 0] } 0 (.chunkAck chunk5.id 0 0 none 0) ∧
    FirstOfRoute { cleared [copyEntry] with inbox := [.counter 5 0 1 7 true 4 none 0] } 0 (.counter 5 0 1 7 true 4 none 0) ∧
    ¬ FirstOfRoute { cleared [copyEntry] with inbox := [.counterAck chunk5.id 0, .chunkAck chunk5.id 0 0 none 0] } 1
      (.chunkAck chunk5.id 0 0 none 0) := by
  unfold FirstOfRoute
  decide

/-- The leaf of page 1, its entry in a block whose channel a row unit holds, or not. -/
def cowLeaf1 : Leaf := ⟨BitVec.ofNat 64 cowLeaf, 131080, false⟩
theorem witness_leafWait : (paged [(1, cowLeaf)] true).leafWait cowLeaf1 = none ∧
    (heldGroup (paged [(1, cowLeaf)] true) 0).leafWait cowLeaf1 = some (.channel (.stack 0 0)) ∧
    (paged [(1, cowLeaf)] true).pageWait (4 * 65536) 65536 = none ∧ (paged [(1, cowLeaf)] true).pageWait (9 * 65536) 65536 = none ∧
    shared.runWait ⟨BitVec.ofNat 64 (4 * 65536 + 0x4033), 131080, false⟩ = none ∧ shared.pageWait 131112 8 = none ∧
    (heldGroup shared 0).leafWait ⟨BitVec.ofNat 64 (4 * 65536 + 0x4033), 131080, false⟩ = some (.channel (.stack 0 0)) ∧
    shared.pageWait 131080 8 = none ∧ (heldGroup shared 0).pageWait 131080 8 = some (.channel (.stack 0 0)) := by decide +kernel
/-- A store of ASID 0 in the range of a request whose place is held. -/
theorem witness_invalWait : (heldGroup behind 4).cores.map Prod.fst = [0] ∧
    (heldGroup behind 4).storesWait 0 true (fun p => decide (((heldGroup behind 4).card p.card).asid = 0) &&
      decide (p.va.toNat < 0x10000) && decide (0 < p.va.toNat + p.bytes.length)) = some (.channel (.stack 0 4)) := by decide +kernel
/-- Frame 4's word: in a table of tier 0 at 0x3000 of ASID 0, in none, and where its place must wait. -/
theorem witness_frameTables : frameTier 4 = (0, 4) ∧ Tab.has ({ mapped with frameTab := [(0, 0x3000)] } : State).frameTab 0 = true ∧
    Tab.has mapped.frameTab 0 = false ∧
    (match (mapped.setFrame 4 { refc := 1 }).devWrite 0 0 0x3010 [1, 0, 0, 0] with | .ok _ => true | _ => false) = true ∧
    (match ((heldGroup mapped 6).setFrame 4 { refc := 1 }).devWrite 0 0 0x3010 [1, 0, 0, 0] with | .wait _ => true | _ => false) = true ∧
    ({ mapped with frames := [] }.setFrame 4 { refc := 1 }).frames = [(4, { refc := 1 })] := by decide +kernel

/-- A launch whose kernel is read and whose edges have nothing to clean, or a line whose place is held. -/
def edged (dirty : Bool) : State :=
  let s := { launching { waitingCard with edges := [6], hdr := 1 <<< 240, dw := [0x1001000, 0x1000, 0x3000] } with
    cards := [(6, { die := 0, stream := 4, dw := [], writes := [(0x3000, 16)] }), (7, { waitingCard with edges := [6], reads := [(0x3000, 16)] })] }
  if dirty then heldGroup (s.modDie 0 fun d => { d with l2 := [(0x33007, 9)] }) 6 else s
theorem witness_refreshWait : (edged false).refreshWait ((edged false).card 7) = none ∧
    (edged true).refreshWait ((edged true).card 7) = some (.channel (.stack 0 6)) := by decide +kernel
theorem witness_cleanWait : ranged.cleanWait 7 = none ∧
    (heldGroup (ranged.modDie 0 fun d => { d with l2 := [(0x33007, 9)] }) 6).cleanWait 7 = some (.channel (.stack 0 6)) := by
  decide +kernel

/-- What other lost packets need: a command of a Vault, the next stream of a Dispatcher, a card's report, a context to save. -/
theorem witness_lostPackets : (((tables [tableCmd] {}).vault 0).cmds[0]?).isSome = true ∧ (accepting goodCard).siltin = .ready ∧
    ((accepting goodCard).nextStream 0).isSome = true ∧ Tab.has (counted 0x3000).cards 7 = true ∧ ((counted 0x3000).card 7).st ≠ .done ∧
    ((counted 0x3000).card 7).cleaned = true ∧ ((counted 0x3000).card 7).dword 6 ≠ 0 ∧
    (saving.ctx 0 0).card = some 0 ∧ (saving.ctx 0 0).restoring = false ∧ (saving.ctx 0 0).st = .halted ∧
    (saving.ctx 0 0).evicted = true ∧ (saving.ctx 0 0).saveFailed = false ∧ saving.saveReady 0 0 0 = true := by decide +kernel
/-- The boundaries of the daily samples, and a reading that counts an hour. -/
theorem witness_samples : (List.replicate 90 (0, 0) : List (Nat × Nat)).length = 90 ∧ (List.replicate 30 0 : List Nat).length = 30 ∧
    ({ drift := (1, 3), temp := 760, volt := (9, 10), eye := (1, 1) } : WearSensors).volt.2 ≠ 0 ∧
    (({ State.reset with tripped := true } : State).schedule = [] ∧ State.reset.focus.ok = true) := by decide
/-- R373: the byte of domain 13 of PWRSTAT, in RETENTION. -/
theorem test_pwrstat : (State.reset.setDomain 13 { power := .retention }).bar0Read (0x2001010 + 13) = 2 ∧
    (State.reset.setDomain 13 { power := .retention }).bar0Read 0x2001018 = 2 <<< 40 := by decide +kernel
/-- Late host writes: one waits; one that waited lands. -/
theorem witness_late : ({ mapped with lateWrites := [(0x3000, [1])] } : State).lateWrites ≠ [] ∧
    (heldGroup mapped 6).devSpan 0 0 .write (BitVec.ofNat 64 0x3000) 1 = .wait (some (.channel (.stack 0 6))) ∧
    ({ mapped with lateWrites := [(0x3000, [1])] } : State).landLate.mem.read 0x33000 = 1 := by decide +kernel
/-- R382: an hour at 85 °C and its nominal voltage counts one hour, 65,535 / 61,362 of a part. -/
theorem test_agedHour : (Domain.ageHour {} { drift := (0, 1), temp := 680, volt := (1, 1), eye := (1, 1) }).ageParts 6 64 = 1 := by
  decide +kernel

end Sys2Proof.Tests
end

section
/-! SUPPORT. What a memory access of the device moves: memory, the second-level caches and translation caches, event queues and
what waits. Everything else of the module stays, the host port's registers and TIMEBASE among it. -/

namespace Sys2Proof.Machine

/-- `t` differs from `s` in nothing but what the device's own memory accesses move. -/
def State.MemFrame (s t : State) : Prop :=
  t = { s with
    mem := t.mem, poison := t.poison, dies := t.dies, yardTlb := t.yardTlb, cards := t.cards, hostMem := t.hostMem
    irqs := t.irqs, freeCtr := t.freeCtr, chansvc := t.chansvc, domains := t.domains
    lateWrites := t.lateWrites, lateFrames := t.lateFrames }

namespace State.MemFrame

theorem refl (s : State) : MemFrame s s := rfl

theorem trans {s t u : State} (h : MemFrame s t) (g : MemFrame t u) : MemFrame s u :=
  Eq.trans g (congrArg (fun x : State =>
    { x with
      mem := u.mem, poison := u.poison, dies := u.dies, yardTlb := u.yardTlb, cards := u.cards, hostMem := u.hostMem
      irqs := u.irqs, freeCtr := u.freeCtr, chansvc := u.chansvc, domains := u.domains
      lateWrites := u.lateWrites, lateFrames := u.lateFrames }) h)

theorem siltin {s t : State} (h : MemFrame s t) : t.siltin = s.siltin := by
  rw [show t = _ from h]
theorem featPub {s t : State} (h : MemFrame s t) : t.featPub = s.featPub := by
  rw [show t = _ from h]
theorem timebase {s t : State} (h : MemFrame s t) : t.timebase = s.timebase := by
  rw [show t = _ from h]

/-- Operations that keep the frame one by one keep it along a list. -/
theorem foldl {α : Type} {f : State → α → State} (h : ∀ s a, MemFrame s (f s a)) (l : List α) (s : State) :
    MemFrame s (l.foldl f s) := by
  induction l generalizing s with
  | nil => exact refl s
  | cons a l ih => exact (h s a).trans (ih (f s a))

theorem event (s : State) (d code : Nat) (src : Option Nat) (arg det : Option Dword) :
    MemFrame s (s.event d code src arg det) := by
  obtain ⟨h, i, f, x, e⟩ := s.event_frame d code src arg det
  rw [e]
  rfl

theorem awaitDomain (s : State) (d : Nat) (w : Option Await) : MemFrame s (s.awaitDomain d w) := by
  obtain ⟨h, i, f, x, c, m, e⟩ := s.awaitDomain_frame d w
  rw [e]
  rfl

/-! ### Writes of memory (R279, R334) -/

theorem reportBack (s : State) (d : Nat) (l : List Nat) : MemFrame s (s.reportBack d l) := by
  refine foldl (fun s u => ?_) _ s
  dsimp only
  split
  · exact (event s ..).trans rfl
  · exact event s ..

theorem writeBack (s : State) (d : Nat) (l : List (Nat × Byte)) : MemFrame s (s.writeBack d l) :=
  (reportBack s d (l.map Prod.fst)).trans rfl

theorem loseLines (s : State) (d : Nat) (l : List Nat) : MemFrame s (s.loseLines d l) := by
  unfold State.loseLines
  split
  · exact refl s
  · exact (writeBack s ..).trans rfl

theorem writeModule (s : State) (l : List (Nat × Byte)) (d : Option Nat) : MemFrame s (s.writeModule l d) := by
  have own (e : Nat) (s : State) (f : Die → Die) :
      MemFrame s (if d = some e then s.modDie e f else s.loseLines e (l.map Prod.fst)) := by
    split
    · rfl
    · exact loseLines s ..
  exact ((own 0 s _).trans (own 1 _ _)).trans rfl

theorem devWrite {s t : State} {d : Nat} {asid : BitVec 16} {va : Dword} {b : List Byte}
    (h : s.devWrite d asid va b = .ok t) : MemFrame s t := by
  unfold State.devWrite Acc.bind at h
  split at h
  · cases h
    exact writeModule s ..
  all_goals cases h

/-! ### What a translation leaves in the caches (R343) -/

theorem keepWalk (s : State) (q : Root) (root va : Nat) : MemFrame s (s.keepWalk q root va) := by
  unfold State.keepWalk
  dsimp only
  split
  · exact refl s
  · split <;> rfl

theorem keepCopy (s : State) (q : Root) (e : TlbEnt) : MemFrame s (s.keepCopy q e) := by
  unfold State.keepCopy
  dsimp only
  split <;> rfl

theorem forget (s : State) (q : Root) (gone : TlbEnt → Bool) : MemFrame s (s.forget q gone) := by
  unfold State.forget
  dsimp only
  split <;> rfl

theorem fill (s : State) (q : Root) (va : Nat) : MemFrame s (s.fill q va) := by
  unfold State.fill
  split
  · exact refl s
  next root _ =>
    split
    · exact keepCopy s ..
    · split
      · dsimp only
        split
        · exact (((keepWalk s q root va).trans (forget _ ..)).trans (keepCopy _ ..)).trans rfl
        · exact refl s
      · exact refl s

theorem devFill (s : State) (d : Nat) (va : Dword) (n : Nat) : MemFrame s (s.devFill d va n) :=
  foldl (fun s _ => fill s ..) _ s

/-! ### What waited lands (R345, R369, R379) -/

theorem hostWrite {s t : State} {va : Nat} {data : List Byte} (h : s.hostWrite va data = some t) : MemFrame s t := by
  unfold State.hostWrite at h
  split at h
  next u e =>
    cases h
    exact (devWrite e).trans (devFill u ..)
  · cases h
  · cases h
    exact refl s

theorem landWrites (l : List (Nat × List Byte)) (s : State) : MemFrame s (s.landWrites l) := by
  induction l generalizing s with
  | nil => rfl
  | cons w l ih =>
    unfold State.landWrites
    split
    next u e => exact (hostWrite e).trans (ih u)
    · rfl

theorem showFrame (s : State) (f : Nat) : MemFrame s (s.showFrame f) := by
  unfold State.showFrame
  dsimp only
  split
  · split
    next u e => exact (devWrite e).trans rfl
    next d _ => exact (awaitDomain s 0 d).trans rfl
    · rfl
  · rfl

theorem landLate (s : State) : MemFrame s s.landLate := by
  unfold State.landLate
  split
  · exact refl s
  · exact (landWrites s.lateWrites s).trans (foldl showFrame _ _)

end State.MemFrame

end Sys2Proof.Machine
end

section
/-! SUPPORT. Bring-up (R375, R384): the step out of reset, the cycle that ends training, and FEATACC before FEATPUB is
published. -/

namespace Sys2Proof.Machine

/-- R384: left to itself, a module in reset resets into training. -/
theorem step_of_siltin_reset {s : State} (idle : s.schedule = []) (ok : s.focus.ok = true) (up : s.tripped = false)
    (h : s.siltin = .reset) : step s = .next s.moduleReset := by
  simp [step, idle, ok, up, h, execModuleReset]

/-- There is nothing in a module fresh from reset that a reset would clear. -/
theorem State.moduleReset_reset : State.reset.moduleReset = { State.reset with siltin := .training } := rfl

/-- R375: outside PUBLISHED a write of FEATACC is ignored. -/
theorem State.featWrite_of_not_published {s : State} (h : s.siltin ≠ .published) (v : Dword) : s.featWrite v = s := if_pos h

theorem exec_featAccWrite (s : State) (v : Dword) : exec (.featAccWrite v) s = .next (s.featWrite v) := rfl

theorem State.trained_of_training {s : State} (h : s.siltin = .training) :
    s.trained = { s with siltin := .published, featPub := Config.featPublished } := if_pos h

/-- Cycles that pass while the module trains: they count, training ends, and what waited for memory lands. -/
theorem State.tick_of_training {s : State} {n : Nat} (h : s.siltin = .training) (up : s.tripped = false) (hn : n ≠ 0) :
    s.tick n = State.landLate
      { s with
        timebase := s.timebase + BitVec.ofNat 64 n, cycleTop := [], cycleTook := []
        siltin := .published, featPub := Config.featPublished } := by
  simp [State.tick, hn, up, State.trained_of_training, h]

/-- R5, R384: a cycle publishes FEATPUB. -/
theorem State.tick_publishes {s : State} {n : Nat} (h : s.siltin = .training) (up : s.tripped = false) (hn : n ≠ 0) :
    (s.tick n).siltin = .published ∧ (s.tick n).featPub = 0x3FF ∧ (s.tick n).timebase = s.timebase + BitVec.ofNat 64 n := by
  rw [State.tick_of_training h up hn]
  have kept := State.MemFrame.landLate
    { s with
      timebase := s.timebase + BitVec.ofNat 64 n, cycleTop := [], cycleTook := []
      siltin := .published, featPub := Config.featPublished }
  exact ⟨kept.siltin, kept.featPub, kept.timebase⟩

/-! ### What reset leaves on a core (R15, R17) -/

theorem State.core_reset (k : Nat) : State.reset.core k = {} := rfl
theorem State.ctx_reset (k c : Nat) : State.reset.ctx k c = {} := rfl

theorem VReg.zero_lane {l : Nat} (h : l < 128) : VReg.zero[l]? = some 0 := by
  rw [VReg.zero, List.getElem?_replicate, if_pos h]
theorem QReg.empty_lane {l : Nat} (h : l < 128) : QReg.empty[l]? = some Triple.empty := by
  rw [QReg.empty, List.getElem?_replicate, if_pos h]

theorem Core.vreg_new (r : BitVec 6) : ({} : Core).vreg r = VReg.zero := rfl
theorem Core.qreg_new (r : BitVec 4) : ({} : Core).qreg r = QReg.empty := rfl
theorem Mint.latch_new (l : Nat) : ({} : Mint).latch l = {} := rfl
theorem Latch.elem_new (k n : Nat) : ({} : Latch).elem k n = 0 := rfl

/-- R15: `x0` and every other register. -/
theorem Ctx.readX_new (r : Reg) : ({} : Ctx).readX r = 0 := ite_self _

/-- R15: `p0` alone reads true. -/
theorem Ctx.readP_new (p : PReg) : ({} : Ctx).readP p = decide (p = 0) := by
  by_cases h : p = 0
  · rw [Ctx.readP, if_pos h, decide_eq_true h]
  · rw [Ctx.readP, if_neg h, decide_eq_false h]
    rfl

/-- Settles O8: nothing is written at reset, so that every numbered thing reads as its file's default; the cycle that publishes
FEATPUB lands only memory writes, which leave the host port's registers alone (`State.MemFrame.landLate`). -/
theorem resetComesUpPublished : Obligations.ResetComesUpPublished := by
  unfold Obligations.ResetComesUpPublished
  refine ⟨⟨rfl, rfl⟩, rfl, rfl, rfl, ?step, fun s n h up hn => State.tick_publishes h up hn, ?early, ?core, ?ctx⟩
  case step => rw [step_of_siltin_reset rfl rfl rfl rfl, State.moduleReset_reset]
  case early =>
    intro s v h
    rw [exec_featAccWrite, State.featWrite_of_not_published (by simp [h])]
  case core =>
    rintro k q rfl
    rw [State.core_reset]
    refine ⟨fun r l hl => ?_, fun r l hl => ?_, fun l a b => ?_, rfl, rfl, fun h => rfl, fun f => rfl, rfl, fun ch => rfl,
      rfl, rfl, rfl, rfl⟩
    · rw [Core.vreg_new, VReg.zero_lane hl]
    · rw [Core.qreg_new, QReg.empty_lane hl]
    · rw [Mint.latch_new, Latch.elem_new]
  case ctx =>
    rintro k c x rfl
    rw [State.ctx_reset]
    exact ⟨rfl, rfl, Ctx.readX_new, Ctx.readP_new, fun w => rfl, fun m => rfl, fun lv => rfl⟩

end Sys2Proof.Machine
end

section
/-! SUPPORT. Triples (R75 to R77): what the bits of an FP32 word decode to, the class of a triple as a test of the bits of W,
and the update and the merge from the point where every early return has been passed. -/

namespace Sys2Proof.Machine

open Sys2Proof.Claims

/-! ### What an FP32 word decodes to (R48) -/

theorem finite32_iff_exponent (w : Word) : Finite32 w ↔ w.toNat / 2 ^ 23 % 2 ^ 8 ≠ 255 := by
  rw [Finite32, ne_eq, ← BitVec.toNat_inj, BitVec.extractLsb'_toNat, Nat.shiftRight_eq_div_pow]
  rfl

theorem zero32_iff_fields (w : Word) : Zero32 w ↔ w.toNat / 2 ^ 23 % 2 ^ 8 = 0 ∧ w.toNat % 2 ^ 23 = 0 := by
  have bound := w.isLt
  rw [Zero32, ← BitVec.toNat_inj, ← BitVec.toNat_inj, show (0 : Word).toNat = 0 from rfl,
    show (0x80000000 : Word).toNat = 0x80000000 from rfl]
  omega

theorem finite32_of_zero32 {w : Word} (zero : Zero32 w) : Finite32 w := by
  rw [finite32_iff_exponent, ((zero32_iff_fields w).mp zero).1]
  decide

/-- A word's value by its exponent field, its fraction field and its sign. -/
theorem f32_eq_fields (w : Word) :
    f32 w =
      if w.toNat / 2 ^ 23 % 2 ^ 8 = 255 then
        if w.toNat % 2 ^ 23 = 0 then .inf (w.getLsbD 31) else .nan (decide (w.toNat % 2 ^ 23 < 2 ^ 22))
      else if w.toNat / 2 ^ 23 % 2 ^ 8 = 0 then
        if w.toNat % 2 ^ 23 = 0 then .zero (w.getLsbD 31) else .num (w.getLsbD 31) (w.toNat % 2 ^ 23) (-149) false
      else
        .num (w.getLsbD 31) (2 ^ 23 + w.toNat % 2 ^ 23) (((w.toNat / 2 ^ 23 % 2 ^ 8 : Nat) : Int) - 127 - 23) false := by
  have sign : w.getLsbD 31 = decide (w.toNat / 2 ^ 31 % 2 = 1) := Nat.testBit_eq_decide_div_mod_eq
  rw [sign]
  by_cases ones : w.toNat / 2 ^ 23 % 2 ^ 8 = 255
  · rw [if_pos ones]
    exact if_pos (decide_eq_true ones)
  · rw [if_neg ones]
    exact if_neg (mt of_decide_eq_true ones)

theorem f32_not_finite {w : Word} (fin : ¬ Finite32 w) : (f32 w).isFinite = false ∧ (f32 w).isZero = false := by
  rw [finite32_iff_exponent, Classical.not_not] at fin
  rw [f32_eq_fields, if_pos fin]
  split <;> exact ⟨rfl, rfl⟩

theorem f32_zero {w : Word} (zero : Zero32 w) : f32 w = .zero (w.getLsbD 31) := by
  have fin := (finite32_iff_exponent w).mp (finite32_of_zero32 zero)
  obtain ⟨exponent, fraction⟩ := (zero32_iff_fields w).mp zero
  rw [f32_eq_fields, if_neg fin, if_pos exponent, if_pos fraction]

theorem f32_num {w : Word} (fin : Finite32 w) (zero : ¬ Zero32 w) : ∃ m e, f32 w = .num (w.getLsbD 31) m e false := by
  rw [finite32_iff_exponent] at fin
  rw [zero32_iff_fields] at zero
  rw [f32_eq_fields, if_neg fin]
  by_cases exponent : w.toNat / 2 ^ 23 % 2 ^ 8 = 0
  · rw [if_pos exponent, if_neg fun fraction => zero ⟨exponent, fraction⟩]
    exact ⟨_, _, rfl⟩
  · rw [if_neg exponent]
    exact ⟨_, _, rfl⟩

/-! ### The model's tests of a word, as tests of its bits -/

theorem notFinite_iff (w : Word) : notFinite w = true ↔ ¬ Finite32 w := by
  rw [notFinite, Bool.not_eq_true']
  refine ⟨fun test fin => ?_, fun fin => (f32_not_finite fin).1⟩
  by_cases zero : Zero32 w
  · rw [f32_zero zero] at test
    cases test
  · obtain ⟨m, e, num⟩ := f32_num fin zero
    rw [num] at test
    cases test

theorem anyNotFinite_iff (v w : Word) : (notFinite v || notFinite w) = true ↔ ¬ Finite32 v ∨ ¬ Finite32 w := by
  rw [Bool.or_eq_true, notFinite_iff, notFinite_iff]

theorem not_anyNotFinite {v w : Word} (finV : Finite32 v) (finW : Finite32 w) : ¬ (notFinite v || notFinite w) = true := by
  rw [anyNotFinite_iff, not_or, Classical.not_not, Classical.not_not]
  exact ⟨finV, finW⟩

theorem isZero_f32_iff (w : Word) : (f32 w).isZero = true ↔ Zero32 w := by
  refine ⟨fun test => ?_, fun zero => by rw [f32_zero zero]; rfl⟩
  refine Classical.byContradiction fun zero => ?_
  by_cases fin : Finite32 w
  · obtain ⟨m, e, num⟩ := f32_num fin zero
    rw [num] at test
    cases test
  · rw [(f32_not_finite fin).2] at test
    cases test

theorem isNeg_f32_iff_below0 {w : Word} (fin : Finite32 w) (zero : ¬ Zero32 w) : (f32 w).isNeg = true ↔ Below0 w := by
  obtain ⟨m, e, num⟩ := f32_num fin zero
  rw [num]
  exact ⟨fun sign => ⟨fin, zero, sign⟩, fun below => below.2.2⟩

/-- R75, R76: the test of a weight that makes a triple INVALID. -/
theorem invalidWeight_iff (w : Word) :
    (notFinite w || ((f32 w).isNeg && !(f32 w).isZero)) = true ↔ ¬ Finite32 w ∨ Below0 w := by
  rw [Bool.or_eq_true, notFinite_iff, Bool.and_eq_true, Bool.not_eq_true', ← Bool.not_eq_true, isZero_f32_iff]
  by_cases fin : Finite32 w
  · rw [or_iff_right (Classical.not_not.mpr fin), or_iff_right (Classical.not_not.mpr fin)]
    exact ⟨fun ⟨sign, zero⟩ => (isNeg_f32_iff_below0 fin zero).mp sign,
      fun below => ⟨(isNeg_f32_iff_below0 fin below.2.1).mpr below, below.2.1⟩⟩
  · exact iff_of_true (.inl fin) (.inl fin)

/-! ### The class of a triple (R75) -/

theorem qclass_of_not_finite {t : Triple} (fin : ¬ Finite32 t.w) : qclass t = .invalid :=
  if_pos ((notFinite_iff _).mpr fin)

theorem qclass_of_finite {t : Triple} (fin : Finite32 t.w) :
    qclass t = if (f32 t.w).isZero then .empty else if (f32 t.w).isNeg then .invalid else .normal :=
  if_neg fun test => (notFinite_iff _).mp test fin

theorem qclass_of_zero {t : Triple} (zero : Zero32 t.w) : qclass t = .empty := by
  rw [qclass_of_finite (finite32_of_zero32 zero), if_pos ((isZero_f32_iff _).mpr zero)]

theorem qclass_of_below0 {t : Triple} (below : Below0 t.w) : qclass t = .invalid := by
  obtain ⟨fin, zero, _⟩ := id below
  rw [qclass_of_finite fin, if_neg (mt (isZero_f32_iff _).mp zero), if_pos ((isNeg_f32_iff_below0 fin zero).mpr below)]

theorem qclass_of_above0 {t : Triple} (fin : Finite32 t.w) (below : ¬ Below0 t.w) (zero : ¬ Zero32 t.w) :
    qclass t = .normal := by
  rw [qclass_of_finite fin, if_neg (mt (isZero_f32_iff _).mp zero), if_neg (mt (isNeg_f32_iff_below0 fin zero).mp below)]

/-- The words of the three classes exclude each other, and each word is of one. -/
theorem qclass_iff (t : Triple) :
    (qclass t = .invalid ↔ ¬ Finite32 t.w ∨ Below0 t.w) ∧ (qclass t = .empty ↔ Zero32 t.w) ∧
      (qclass t = .normal ↔ Finite32 t.w ∧ ¬ Below0 t.w ∧ ¬ Zero32 t.w) := by
  by_cases fin : Finite32 t.w
  · by_cases zero : Zero32 t.w
    · have below : ¬ Below0 t.w := fun below => below.2.1 zero
      simp [qclass_of_zero zero, fin, zero, below]
    · by_cases below : Below0 t.w
      · simp [qclass_of_below0 below, zero, below]
      · simp [qclass_of_above0 fin below zero, fin, zero, below]
  · have zero : ¬ Zero32 t.w := mt finite32_of_zero32 fin
    simp [qclass_of_not_finite fin, fin, zero]

theorem QClass.normal_of_ne {q : QClass} (valid : q ≠ .invalid) (full : q ≠ .empty) : q = .normal := by
  cases q
  · exact absurd rfl valid
  · exact absurd rfl full
  · rfl

/-! ### The update (R76) -/

/-- What an update reads of its triple: three zeros for an EMPTY one. -/
theorem update_operand {t : Triple} {W mu M2 : Word} (valid : qclass t ≠ .invalid)
    (empty : qclass t = .empty → W = 0 ∧ mu = 0 ∧ M2 = 0) (normal : qclass t = .normal → t = ⟨W, mu, M2⟩) :
    (if qclass t = .empty then ⟨0, 0, 0⟩ else t) = (⟨W, mu, M2⟩ : Triple) := by
  by_cases isEmpty : qclass t = .empty
  · obtain ⟨rfl, rfl, rfl⟩ := empty isEmpty
    exact if_pos isEmpty
  · rw [if_neg isEmpty]
    exact normal (QClass.normal_of_ne valid isEmpty)

/-- The update once its operands are known to be finite and its weight to be none of the zeros. -/
theorem qupdate_steps {t : Triple} {x w W mu M2 W1 mu1 M2n : Word} (valid : qclass t ≠ .invalid) (weight : ¬ Zero32 w)
    (finX : Finite32 x) (finW : Finite32 w)
    (operand : (if qclass t = .empty then ⟨0, 0, 0⟩ else t) = (⟨W, mu, M2⟩ : Triple))
    (hW1 : W1 = plus W w) (hmu1 : mu1 = plus mu (times (minus x mu) (overW w W1)))
    (hM2n : M2n = plus M2 (times (times w (minus x mu)) (minus x mu1))) :
    qupdate t x w =
      if notFinite W1 || ((f32 W1).isNeg && !(f32 W1).isZero) then (Triple.invalid, fIV)
      else if (f32 W1).isZero then (Triple.empty, 0)
      else if notFinite mu1 || notFinite M2n then (Triple.invalid, fIV) else (⟨W1, mu1, M2n⟩, 0) := by
  subst hM2n hmu1 hW1
  rw [qupdate, if_neg valid, if_neg (mt (isZero_f32_iff w).mp weight), if_neg (not_anyNotFinite finX finW),
    operand]

theorem qupdate_follows_updateRule (t : Triple) (x w : Word) : UpdateRule t x w (qupdate t x w) := by
  refine ⟨fun invalid => if_pos invalid, fun valid zero => ?zeroWeight, fun valid zero notFin => ?notFinite, ?steps⟩
  case zeroWeight => rw [qupdate, if_neg valid, if_pos ((isZero_f32_iff w).mpr zero)]
  case notFinite =>
    rw [qupdate, if_neg valid, if_neg (mt (isZero_f32_iff w).mp zero), if_pos ((anyNotFinite_iff x w).mpr notFin)]
    rfl
  case steps =>
    rintro W mu M2 W1 d mu1 M2n valid weight finX finW empty normal hW1 rfl hmu1 hM2n
    rw [qupdate_steps valid weight finX finW (update_operand valid empty normal) hW1 hmu1 hM2n]
    refine ⟨fun bad => if_pos ((invalidWeight_iff W1).mpr bad), fun zero => ?gone, fun fin below zero => ?updated⟩
    case gone =>
      have good : ¬ (¬ Finite32 W1 ∨ Below0 W1) := by simp [finite32_of_zero32 zero, Below0, zero]
      rw [if_neg (mt (invalidWeight_iff W1).mp good), if_pos ((isZero_f32_iff W1).mpr zero)]
    case updated =>
      have good : ¬ (¬ Finite32 W1 ∨ Below0 W1) := by simp [fin, below]
      rw [if_neg (mt (invalidWeight_iff W1).mp good), if_neg (mt (isZero_f32_iff W1).mp zero)]
      exact ⟨fun bad => if_pos ((anyNotFinite_iff mu1 M2n).mpr bad), fun finMu finM2 => if_neg (not_anyNotFinite finMu finM2)⟩

/-! ### The merge (R77) -/

/-- The merge of two normal triples. -/
theorem qmerge_steps {a b : Triple} {W mu M2 : Word} (normalA : qclass a = .normal) (normalB : qclass b = .normal)
    (hW : W = plus a.w b.w) (hmu : mu = plus a.mu (times (minus b.mu a.mu) (overW b.w W)))
    (hM2 : M2 = plus (plus a.m2 b.m2)
      (times (times (minus b.mu a.mu) (minus b.mu a.mu)) (overW (times a.w b.w) W))) :
    qmerge a b =
      if notFinite W then (Triple.invalid, fIV)
      else if notFinite mu || notFinite M2 then (Triple.invalid, fIV) else (⟨W, mu, M2⟩, 0) := by
  subst hM2 hmu hW
  rw [qmerge, if_neg (by simp [normalA, normalB]), if_neg (by simp [normalA]), if_neg (by simp [normalB])]

theorem qmerge_follows_mergeRule (a b : Triple) : MergeRule a b (qmerge a b) := by
  refine ⟨fun invalid => if_pos invalid, fun emptyA validB => ?emptyA, fun normalA emptyB => ?emptyB, ?steps⟩
  case emptyA => rw [qmerge, if_neg (by simp [emptyA, validB]), if_pos emptyA]
  case emptyB => rw [qmerge, if_neg (by simp [normalA, emptyB]), if_neg (by simp [normalA]), if_pos emptyB]
  case steps =>
    rintro W d mu g M2 normalA normalB hW rfl hmu rfl hM2
    rw [qmerge_steps normalA normalB hW hmu hM2]
    refine ⟨fun bad => if_pos ((notFinite_iff W).mpr bad), fun fin => ?merged⟩
    rw [if_neg (mt (notFinite_iff W).mp (Classical.not_not.mpr fin))]
    exact ⟨fun bad => if_pos ((anyNotFinite_iff mu M2).mpr bad), fun finMu finM2 => if_neg (not_anyNotFinite finMu finM2)⟩

/-- Settles O25: `f32_eq_fields` makes each test of a word a test of its bits, and past the early returns the model's steps are
those of the rules. -/
theorem triplesFollowTheirRules : Obligations.TriplesFollowTheirRules :=
  ⟨qclass_iff, rfl, rfl, qupdate_follows_updateRule, qmerge_follows_mergeRule⟩

end Sys2Proof.Machine
end

section
/-! SUPPORT. The start of a queued Mint command (R168, R169, R171): which queue entry an identifier names, when the entry may
start, and what a start leaves. -/

namespace Sys2Proof.Machine

/-! ### The queue entry that an identifier names -/

theorem Mint.find_of_queue {m : Mint} {before after : List MintCmd} {c : MintCmd} (queue : m.queue = before ++ c :: after)
    (first : ∀ x ∈ before, x.id ≠ c.id) : m.find c.id = some (before, c) := by
  have passed : ∀ x ∈ before, (!decide (x.id = c.id)) = true := fun x hx => by simp [first x hx]
  simp [Mint.find, queue, List.dropWhile_append_of_pos passed, List.takeWhile_append_of_pos passed]

theorem MintCmd.map_replace_of_ne {l : List MintCmd} {id : Nat} (other : ∀ x ∈ l, x.id ≠ id) (d : MintCmd) :
    (l.map fun x => if x.id = id then d else x) = l := by
  rw [List.map_congr_left fun x hx => if_neg (other x hx), List.map_id']

/-! ### When a command may start (R168) -/

/-- Of a mode switch that stands first, the conditions on earlier commands hold for want of any. -/
theorem MintCmd.mayStart_iff (q : Core) (before : List MintCmd) (c : MintCmd) :
    c.mayStart q before = true ↔
      (∀ x ∈ before, x.op.unit ≠ c.op.unit ∧ x.conflicts q c = false ∧ ∀ r, x.op.kind ≠ .mode r) ∧
        ((∀ r, c.op.kind ≠ .mode r) ∨ before = []) := by
  by_cases switch : ∃ r, c.op.kind = .mode r
  · obtain ⟨r, switch⟩ := switch
    have alone : c.mayStart q before = before.isEmpty := by simp only [MintCmd.mayStart, switch]
    rw [alone, List.isEmpty_iff]
    refine ⟨?_, fun ⟨_, first⟩ => first.resolve_left fun other => other r switch⟩
    rintro rfl
    exact ⟨by simp, .inr rfl⟩
  · have other : ∀ r, c.op.kind ≠ .mode r := fun r e => switch ⟨r, e⟩
    unfold MintCmd.mayStart
    split
    · next r e => exact absurd e (other r)
    simp only [List.all_eq_true, Bool.and_eq_true, decide_eq_true_eq, Bool.not_eq_true']
    constructor
    · refine fun free => ⟨fun x hx => ?_, .inl other⟩
      obtain ⟨⟨kind, unit⟩, apart⟩ := free x hx
      refine ⟨unit, apart, fun r e => ?_⟩
      simp [e] at kind
    · rintro ⟨free, -⟩ x hx
      obtain ⟨unit, apart, kind⟩ := free x hx
      refine ⟨⟨?_, unit⟩, apart⟩
      split
      · next r e => exact absurd e (kind r)
      · rfl

/-! ### What a start leaves (R169) -/

theorem Mem.diff_self (m : Mem) : Mem.diff m m = [] := if_pos rfl

/-- R169: where no byte has changed there is no choice between old and new. -/
theorem mixSource_self (occ n : Nat) (keep : Nat → Bool) (m : Mem) : mixSource occ n keep m m = m := by
  rw [mixSource, Mem.diff_self, List.foldl_nil]

/-- R169: a command from its start on: its sources settled, with the bytes that a bundle may see before it retires. -/
def MintCmd.launched (c : MintCmd) (q : Core) (occ : Nat) : MintCmd :=
  { c.begun q occ with
    early := if (c.begun q occ).op.take q = .slot then (c.begun q occ).changes q occ else [] }

theorem MintCmd.launched_wsrc {c : MintCmd} {q : Core} (same : c.wsrc = q.wb) (occ : Nat) :
    (c.launched q occ).wsrc = c.wsrc := by
  simp only [MintCmd.launched, MintCmd.begun, ← same, mixSource_self]

theorem MintCmd.launched_asrc {c : MintCmd} {q : Core} (same : c.asrc = q.ab) (occ : Nat) :
    (c.launched q occ).asrc = c.asrc := by
  simp only [MintCmd.launched, MintCmd.begun, ← same, mixSource_self]

/-- The core after the start of its command `c`. -/
def Core.launch (q : Core) (occ : Nat) (c : MintCmd) : Core :=
  { q with mint := { q.mint with queue := q.mint.queue.map fun x => if x.id = c.id then c.launched q occ else x } }

/-- The state after the start of core `k`'s command `c`. -/
def State.mintStarted (s : State) (k : Nat) (c : MintCmd) : State :=
  { s.modCore k (fun q => q.launch s.freeCtr c) with freeCtr := s.freeCtr + 1 }

theorem State.mintStarted_queue (s : State) (k : Nat) (c : MintCmd) :
    ((s.mintStarted k c).core k).mint.queue =
      (s.core k).mint.queue.map fun x => if x.id = c.id then c.launched (s.core k) s.freeCtr else x :=
  congrArg (fun q : Core => q.mint.queue) (State.core_modCore s k fun q => q.launch s.freeCtr c)

/-- A start changes the queue and the count of free values alone. -/
theorem State.mintStarted_frame (s : State) (k : Nat) (c : MintCmd) :
    s.mintStarted k c =
      { s.modCore k (fun q => { q with mint := { q.mint with queue := ((s.mintStarted k c).core k).mint.queue } }) with
        freeCtr := s.freeCtr + 1 } := by
  rw [State.mintStarted_queue]
  rfl

theorem State.mintStarted_queue_split {s : State} {k : Nat} {before after : List MintCmd} {c : MintCmd}
    (queue : (s.core k).mint.queue = before ++ c :: after) (first : ∀ x ∈ before, x.id ≠ c.id)
    (last : ∀ x ∈ after, x.id ≠ c.id) :
    ((s.mintStarted k c).core k).mint.queue = before ++ c.launched (s.core k) s.freeCtr :: after := by
  rw [State.mintStarted_queue, queue, List.map_append, List.map_cons, if_pos rfl, MintCmd.map_replace_of_ne first,
    MintCmd.map_replace_of_ne last]

/-- R168, R171: what a start does, by the two tests of the entry that its identifier names. -/
theorem exec_mintCommandStart {s : State} {k : Nat} {before after : List MintCmd} {c : MintCmd}
    (queue : (s.core k).mint.queue = before ++ c :: after) (first : ∀ x ∈ before, x.id ≠ c.id) (fresh : c.started = false) :
    exec (.mintCommandStart k c.id) s =
      .next (if c.mayStart (s.core k) before && c.ringReady (s.core k) then s.mintStarted k c else s) := by
  show execMintCommandStart k c.id s = _
  simp only [execMintCommandStart, Mint.find_of_queue queue first, fresh, Bool.not_false, Bool.true_and]
  rfl

/-- Settles O27: the tests of `exec_mintCommandStart` read off by `MintCmd.mayStart_iff`, whose conditions each refusal denies. -/
theorem mintCommandsStartInOrder : Obligations.MintCommandsStartInOrder := by
  unfold Obligations.MintCommandsStartInOrder
  intro s k before c after queue first fresh
  have outcome := exec_mintCommandStart queue first fresh
  have refused (barred : ¬ c.mayStart (s.core k) before = true) : exec (.mintCommandStart k c.id) s = .next s := by
    rw [outcome, Bool.eq_false_iff.mpr barred]
    rfl
  rw [MintCmd.mayStart_iff] at refused
  refine ⟨fun free head ready => ?starts, fun behind ⟨r, switch⟩ => refused ?behind, fun ⟨x, hx, r, switch⟩ => refused ?barrier,
    fun ⟨x, hx, unit⟩ _ => refused ?busy, fun notReady => ?ring⟩
  case starts =>
    refine ⟨s.mintStarted k c, ?_, s.mintStarted_frame k c, fun last => ?_⟩
    · rw [outcome, (MintCmd.mayStart_iff ..).mpr ⟨free, head⟩, ready]
      rfl
    · exact ⟨c.launched (s.core k) s.freeCtr, State.mintStarted_queue_split queue first last, rfl, rfl,
        fun same => MintCmd.launched_wsrc same _, fun same => MintCmd.launched_asrc same _⟩
  case behind => exact fun ⟨_, head⟩ => head.elim (fun other => other r switch) behind
  case barrier => exact fun ⟨free, _⟩ => (free x hx).2.2 r switch
  case busy => exact fun ⟨free, _⟩ => (free x hx).1 unit
  case ring =>
    rw [outcome, notReady, Bool.and_false]
    rfl

end Sys2Proof.Machine
end

section
/-! SUPPORT. Row units (R237 to R246): registers read back after a write, and what a micro-word of the unit in focus leaves, or
that it leaves everything where the unit is stopped (R379). -/

namespace Sys2Proof.Machine

open Sys2Proof.Claims

/-! ### Registers of a row unit (R237) -/

section
variable (r : RowUnit) (d : Nat)

@[simp] theorem RowUnit.readG_writeG_self (n : RowReg) (l : List Word) : (r.writeG n l).readG d n = l :=
  Tab.get_put_self _ _ _ _
theorem RowUnit.readG_writeG_other {n m : RowReg} (l : List Word) (h : m ≠ n) : (r.writeG n l).readG d m = r.readG d m :=
  Tab.get_put_other _ _ _ fun same => h (BitVec.eq_of_toNat_eq same)

@[simp] theorem RowUnit.readT_writeT_self (n : Bool) (l : List Triple) : (r.writeT n l).readT d n = l :=
  Tab.get_put_self _ _ _ _
theorem RowUnit.readT_writeT_other {n m : Bool} (l : List Triple) (h : m ≠ n) : (r.writeT n l).readT d m = r.readT d m :=
  Tab.get_put_other _ _ _ (by revert h; cases n <;> cases m <;> decide)

/-- R237: what a written scalar register reads as; `s0` stays +0. -/
theorem RowUnit.readS_writeS_self (n : BitVec 4) (w : Word) : (r.writeS n w).readS n = if n = 0 then 0 else w := by
  by_cases zero : n = 0
  · rw [RowUnit.readS, if_pos zero, if_pos zero]
  · rw [RowUnit.writeS, if_neg zero, RowUnit.readS, if_neg zero, if_neg zero]
    exact Tab.get_put_self ..
theorem RowUnit.readS_writeS_other {n m : BitVec 4} (w : Word) (h : m ≠ n) : (r.writeS n w).readS m = r.readS m := by
  unfold RowUnit.writeS
  split
  · rfl
  · rw [RowUnit.readS, Tab.get_put_other _ _ _ fun same => h (BitVec.eq_of_toNat_eq same)]
    rfl

/-- A write of a scalar register changes the scalar registers alone. -/
theorem RowUnit.writeS_frame (n : BitVec 4) (w : Word) : r.writeS n w = { r with s := (r.writeS n w).s } := by
  unfold RowUnit.writeS
  split <;> rfl

theorem RowUnit.writeS_rowFrame (n : BitVec 4) (w : Word) : RowFrame (r.writeS n w) r := by
  rw [RowFrame, RowUnit.writeS_frame]
@[simp] theorem RowUnit.readG_writeS (n : BitVec 4) (w : Word) (m : RowReg) : (r.writeS n w).readG d m = r.readG d m := by
  rw [RowUnit.writeS_frame]
  rfl
@[simp] theorem RowUnit.readT_writeS (n : BitVec 4) (w : Word) (m : Bool) : (r.writeS n w).readT d m = r.readT d m := by
  rw [RowUnit.writeS_frame]
  rfl

end

/-! ### The micro-word of the unit in focus (R242) -/

theorem State.rowEnv_unit {s : State} {u : UnitId} {e : RowEnv} (item : s.rowEnv u = some e) : e.u = u := by
  unfold State.rowEnv at item
  split at item
  · cases item
  · split at item
    · cases item
    · obtain ⟨_, _, rfl⟩ := Option.map_eq_some_iff.mp item
      rfl

/-- What the end of a micro-word of unit `u` makes of the state. -/
def RowRes.after (s : State) (u : UnitId) : RowRes → State
  | .go r => s.setUnit u r
  | .stall t => t
  | .stop t => t

/-- A unit that runs executes the micro-word on its registers as they stand, past the word. -/
theorem State.unitDo_of_runs {s : State} {u : UnitId} {e : RowEnv} (runs : UnitRuns s u e)
    (f : State → RowEnv → RowUnit → RowRes) : s.unitDo f = (f s e (stepped (s.unit u))).after s u := by
  obtain ⟨focus, item, image, below, awake⟩ := runs
  have limit : decide (Config.itemWords ≤ (s.unit u).words) = false := decide_eq_false (Nat.not_le.mpr below)
  simp only [State.unitDo, focus, item, awake, image, limit, Bool.or_false, Bool.false_eq_true, if_false]
  rw [← stepped]
  cases f s e (stepped (s.unit u)) <;> rfl

/-- R379: a unit that is stopped executes nothing. -/
theorem State.unitDo_of_stopped {s : State} {u : UnitId} (focus : s.focus = .unit u) (stopped : s.unitStopped u = true)
    (f : State → RowEnv → RowUnit → RowRes) : s.unitDo f = s := by
  unfold State.unitDo
  rw [focus]
  dsimp only
  split
  · rfl
  · rw [stopped]
    rfl

theorem exec_of_runs {s : State} {u : UnitId} {e : RowEnv} {i : Instr} {f : State → RowEnv → RowUnit → RowRes}
    (runs : UnitRuns s u e) (word : exec i s = .next (s.unitDo f)) :
    exec i s = .next ((f s e (stepped (s.unit u))).after s u) := by
  rw [word, State.unitDo_of_runs runs]

/-! ### Operations that write one register (R242 to R244) -/

/-- A lane that a list of lanes computed one by one holds. -/
theorem getD_map_range {α : Type} (f : Nat → α) (a : α) {d l : Nat} (below : l < d) :
    ((List.range d).map f).getD l a = f l := by
  rw [List.getD_eq_getElem?_getD, List.getElem?_map, List.getElem?_range below]
  rfl

/-- The lanes of a row that is all +0. -/
theorem getD_replicate_zero (d l : Nat) : (List.replicate d (0 : Word)).getD l 0 = 0 := by
  rw [List.getD_eq_getElem?_getD, List.getElem?_replicate]
  split <;> rfl

section
variable {e : RowEnv} {r : RowUnit} {i : Instr}

/-- An element operation is a micro-word that writes one row register. -/
theorem exec_of_rowLanesOf {gd : RowReg} {f : Nat → Word} (s : State) (op : rowLanesOf e r i = some (gd, f)) :
    ∃ F x, exec i s = .next (s.unitDo F) ∧ F s e (stepped r) = .go ((stepped r).writeG gd x) ∧
      ∀ l, l < e.d → x.getD l 0 = f l := by
  unfold rowLanesOf at op
  split at op <;> cases op
  -- `ldg` takes its lanes from the item, where the others compute each from the registers.
  case h_10 =>
    refine ⟨_, _, rfl, rfl, fun l _ => ?_⟩
    split
    · rfl
    · exact getD_replicate_zero _ l
  all_goals exact ⟨_, _, rfl, rfl, fun l below => getD_map_range _ _ below⟩

/-- A scalar operation is a micro-word that writes one scalar register. -/
theorem exec_of_rowScalarOf {sd : BitVec 4} {v : Word} (s : State) (op : rowScalarOf e r i = some (sd, v)) :
    ∃ F, exec i s = .next (s.unitDo F) ∧ F s e (stepped r) = .go ((stepped r).writeS sd v) := by
  unfold rowScalarOf at op
  split at op <;> cases op
  all_goals exact ⟨_, rfl, rfl⟩

/-- A triple operation is a micro-word that writes one accumulator. -/
theorem exec_of_rowTriplesOf {t : Bool} {f : Nat → Triple} (s : State) (op : rowTriplesOf e r i = some (t, f)) :
    ∃ F x, exec i s = .next (s.unitDo F) ∧ F s e (stepped r) = .go ((stepped r).writeT t x) ∧
      ∀ l, l < e.d → x.getD l Triple.empty = f l := by
  unfold rowTriplesOf at op
  split at op <;> cases op
  all_goals exact ⟨_, _, rfl, rfl, fun l below => getD_map_range _ _ below⟩

end

/-- Settles O42: each operation is a micro-word that writes one register of the unit past its word (`exec_of_rowLanesOf` and its
like), and a write of a register leaves the others. -/
theorem rowOperationsWriteTheirRegister : Obligations.RowOperationsWriteTheirRegister := by
  unfold Obligations.RowOperationsWriteTheirRegister
  intro s u e i runs
  refine ⟨fun gd f op => ?lanes, fun sd v op => ?scalar, fun t f op => ?triples, ?nop⟩
  case lanes =>
    obtain ⟨F, x, word, result, lanes⟩ := exec_of_rowLanesOf s op
    refine ⟨(stepped (s.unit u)).writeG gd x, ?_, rfl,
      ⟨fun _ _ => rfl, fun m other => RowUnit.readG_writeG_other _ _ _ other, fun _ _ => rfl⟩, fun l below => ?_⟩
    · rw [exec_of_runs runs word, result]
      rfl
    · rw [RowUnit.lane, RowUnit.readG_writeG_self, lanes l below]
  case scalar =>
    obtain ⟨F, word, result⟩ := exec_of_rowScalarOf s op
    refine ⟨(stepped (s.unit u)).writeS sd v, ?_, RowUnit.writeS_rowFrame _ sd v,
      ⟨fun m other => RowUnit.readS_writeS_other _ _ other, fun m _ => RowUnit.readG_writeS _ _ sd v m,
        fun m _ => RowUnit.readT_writeS _ _ sd v m⟩, RowUnit.readS_writeS_self _ sd v⟩
    rw [exec_of_runs runs word, result]
    rfl
  case triples =>
    obtain ⟨F, x, word, result, triples⟩ := exec_of_rowTriplesOf s op
    refine ⟨(stepped (s.unit u)).writeT t x, ?_, rfl,
      ⟨fun _ _ => rfl, fun _ _ => rfl, fun m other => RowUnit.readT_writeT_other _ _ _ other⟩, fun l below => ?_⟩
    · rw [exec_of_runs runs word, result]
      rfl
    · rw [RowUnit.triple, RowUnit.readT_writeT_self, triples l below]
  case nop => exact exec_of_runs (f := fun _ _ r => .go r) runs rfl

end Sys2Proof.Machine
end

section
/-! SUPPORT. Row programs (R244 to R246): the request of a row (R323, R325), the end of an item (R334), loads and stores, and
what RETENTION stops (R379). -/

namespace Sys2Proof.Machine

open Sys2Proof.Claims

/-! ### A unit past its micro-word keeps its registers, its position and its poison -/

theorem readS_stepped (r : RowUnit) (n : BitVec 4) : (stepped r).readS n = r.readS n := rfl
theorem RowEnv.row_stepped (e : RowEnv) (r : RowUnit) : e.row (stepped r) = e.row r := rfl
theorem poison_stepped (r : RowUnit) : (stepped r).poison = r.poison := rfl

/-! ### Requesting a row (R323, R325) -/

theorem mayRequest_iff (s : State) (u : UnitId) (l : List ChanId) :
    MayRequest s u l ↔ (l.any fun c => s.turnPending c || s.readBusy u c) = false := by
  simp [MayRequest]

/-- Channels that a request marks are all that it changes. -/
theorem State.foldl_setChan (f : State → ChanId → ChanSvc) (l : List ChanId) (s : State) :
    ∃ x, l.foldl (fun s c => s.setChan c (f s c)) s = { s with chansvc := x } := by
  induction l generalizing s with
  | nil => exact ⟨_, rfl⟩
  | cons c l ih =>
    obtain ⟨x, marked⟩ := ih (s.setChan c (f s c))
    exact ⟨x, marked⟩

/-- When what a unit requests of its row's state record is complete; never, where the table has no state area. -/
def State.stateReadDue (s : State) (e : RowEnv) (row : Nat) : Option Nat :=
  if descSsz e.desc = 0 then none else some (s.readDue e.v e.slot row true)

/-- The unit once it has requested row `row`, at position `p` of its item. -/
def RowUnit.requested (r : RowUnit) (s : State) (e : RowEnv) (p row : Nat) : RowUnit :=
  { r with
    pos := some p, holds := s.rowChans e.v e.slot row, rowDue := some (s.readDue e.v e.slot row false)
    stateDue := s.stateReadDue e row, suspended := false }

theorem State.rowRequest_of_barred {s : State} {e : RowEnv} {row : Nat}
    (barred : ¬ MayRequest s e.u (s.rowChans e.v e.slot row)) (r : RowUnit) (p : Nat) : s.rowRequest e r p row = none := by
  rw [mayRequest_iff, Bool.not_eq_false] at barred
  exact if_pos barred

theorem State.rowRequest_of_mayRequest {s : State} {e : RowEnv} {row : Nat}
    (free : MayRequest s e.u (s.rowChans e.v e.slot row)) (r : RowUnit) (p : Nat) :
    ∃ x, s.rowRequest e r p row =
      some (State.setUnit { s.rowFill e.v e.slot row with chansvc := x } e.u (r.requested s e p row)) := by
  rw [mayRequest_iff, ← Bool.not_eq_true] at free
  unfold State.rowRequest
  dsimp only
  rw [if_neg free]
  obtain ⟨x, marked⟩ := State.foldl_setChan
    (fun t c => { t.chan c with reader := some (e.u, max (s.readDue e.v e.slot row false)
      ((s.stateReadDue e row).getD (s.readDue e.v e.slot row false))) })
    (s.rowChans e.v e.slot row) (s.rowFill e.v e.slot row)
  exact ⟨x, congrArg (fun t : State => some (t.setUnit e.u (r.requested s e p row))) marked⟩

theorem State.stateReadDue_eq_none_iff (s : State) (e : RowEnv) (row : Nat) :
    s.stateReadDue e row = none ↔ descSsz e.desc = 0 := by
  by_cases noArea : descSsz e.desc = 0 <;> simp [State.stateReadDue, noArea]

theorem le_foldl_max {l : List Nat} {a : Nat} (mem : a ∈ l) : a ≤ l.foldl max 0 := by
  rw [List.foldl_max, Nat.zero_max]
  exact List.le_max?_getD_of_mem mem

theorem add_foldl_max_attained (a : Nat) (l : List Nat) : a + l.foldl max 0 = a ∨ ∃ b ∈ l, a + l.foldl max 0 = a + b := by
  rw [List.foldl_max, Nat.zero_max]
  cases top : l.max? with
  | none => exact .inl rfl
  | some b => exact .inr ⟨b, List.max?_mem top, rfl⟩

theorem length_filter_ne_zero_iff {α β : Type} [DecidableEq β] (l : List α) (f : α → β) (b : β) :
    (l.filter fun a => decide (f a = b)).length ≠ 0 ↔ b ∈ l.map f := by
  simp

/-- R325: the longest of the times that the channels of a read take. -/
theorem State.readDue_isDue (s : State) (v slot row : Nat) (rec_ : Bool) :
    ReadIsDue s v slot row rec_ (s.readDue v slot row rec_) := by
  unfold ReadIsDue State.readDue sectorsIn
  cases s.rowAddrs v slot row rec_ .read with
  | ok l =>
    simp only [List.filter_map, List.length_map, Function.comp_def, length_filter_ne_zero_iff]
    refine ⟨fun c used => Nat.add_le_add_left (le_foldl_max ?_) s.now,
      (add_foldl_max_attained _ _).imp_right fun ⟨b, mem, top⟩ => ?_⟩
    · exact List.mem_map.mpr ⟨c, used, rfl⟩
    · obtain ⟨c, used, rfl⟩ := List.mem_map.mp mem
      exact ⟨c, used, top⟩
  | _ => exact ⟨fun c used => absurd rfl used, .inl rfl⟩

theorem State.stateReadDue_isDue (s : State) (e : RowEnv) (row t : Nat) (due : s.stateReadDue e row = some t) :
    ReadIsDue s e.v e.slot row true t := by
  unfold State.stateReadDue at due
  split at due
  · cases due
  · cases due
    exact State.readDue_isDue s e.v e.slot row true

/-! ### Control (R244) -/

section
variable {s : State} {u : UnitId} {e : RowEnv}

/-- A counter is down to zero exactly where it stood at one. -/
theorem sub_one_eq_zero_iff (w : Word) : w - 1 = 0 ↔ w = 1 := BitVec.sub_eq_iff_eq_add

/-- `next` with no position left. -/
theorem exec_rowNext_of_end (runs : UnitRuns s u e) (last : e.item.poss[nextPos (s.unit u)]? = none) (lbl : BitVec 10) :
    exec (.rowNext lbl) s =
      .next (s.setUnit u { stepped (s.unit u) with pc := lbl, holds := [], rowDue := none, stateDue := none }) := by
  rw [exec_of_runs runs rfl]
  dsimp only
  split
  · rfl
  next m here => cases last.symm.trans here

/-- `next` at a position: it requests its row, or the unit is suspended as it stood. -/
theorem exec_rowNext_of_position (runs : UnitRuns s u e) {m : ItemPos} (here : e.item.poss[nextPos (s.unit u)]? = some m)
    (lbl : BitVec 10) :
    exec (.rowNext lbl) s =
      .next ((s.rowRequest e ((stepped (s.unit u)).writeS 12 m.wt) (nextPos (s.unit u)) m.row).getD
        (s.suspend u (s.unit u))) := by
  obtain rfl := State.rowEnv_unit runs.item
  rw [exec_of_runs runs rfl]
  dsimp only
  split
  next last => cases here.symm.trans last
  next m' same =>
    cases here.symm.trans same
    split
    next t request => rw [show s.rowRequest e _ (nextPos (s.unit e.u)) m.row = some t from request]; rfl
    next request => rw [show s.rowRequest e _ (nextPos (s.unit e.u)) m.row = none from request]; rfl

theorem exec_rowLoop_of_runs (runs : UnitRuns s u e) (sa : BitVec 4) (lbl : BitVec 10) :
    exec (.rowLoop sa lbl) s = .next (s.setUnit u
      { (stepped (s.unit u)).writeS sa ((s.unit u).readS sa - 1) with
        pc := if (s.unit u).readS sa = 1 then (s.unit u).pc + 1 else lbl }) := by
  rw [exec_of_runs runs rfl]
  dsimp only [RowRes.after]
  rw [readS_stepped]
  split
  next more => rw [if_neg fun one => more ((sub_one_eq_zero_iff _).mpr one)]
  next last =>
    rw [if_pos ((sub_one_eq_zero_iff _).mp (Classical.not_not.mp last)), RowUnit.writeS_frame]
    rfl

end

theorem rowControl : RowControl := by
  intro s u e lbl sa runs
  have unit : e.u = u := State.rowEnv_unit runs.item
  refine ⟨exec_of_runs (f := fun _ _ r => .go { r with pc := lbl }) runs rfl, ⟨_, exec_rowLoop_of_runs runs sa lbl, ?loop⟩,
    fun last => exec_rowNext_of_end runs last lbl, fun m here => ⟨fun barred => ?suspends, fun free => ?requests⟩⟩
  case loop =>
    refine ⟨?_, fun kept => ?_, fun n other => RowUnit.readS_writeS_other (stepped (s.unit u)) _ other, rfl⟩
    · rw [RowUnit.writeS_frame]
    · exact (RowUnit.readS_writeS_self (stepped (s.unit u)) sa _).trans (if_neg kept)
  case suspends =>
    subst unit
    rw [exec_rowNext_of_position runs here, State.rowRequest_of_barred barred]
    rfl
  case requests =>
    subst unit
    obtain ⟨x, request⟩ := State.rowRequest_of_mayRequest free ((stepped (s.unit e.u)).writeS 12 m.wt) (nextPos (s.unit e.u))
    refine ⟨((stepped (s.unit e.u)).writeS 12 m.wt).requested s e (nextPos (s.unit e.u)) m.row, _, x, ?_, ?_,
      RowUnit.readS_writeS_self (stepped (s.unit e.u)) 12 m.wt,
      fun n other => RowUnit.readS_writeS_other (stepped (s.unit e.u)) m.wt other,
      State.readDue_isDue .., State.stateReadDue_eq_none_iff s e m.row, State.stateReadDue_isDue s e m.row⟩
    · rw [exec_rowNext_of_position runs here, request]
      rfl
    · rw [RowUnit.writeS_frame]
      rfl

/-! ### The end of an item (R244, R334) -/

/-- R334: a record goes to the context that issued its command; there is none for a part or a collective update. -/
theorem State.cmdRecord_eq (s : State) (c : TblCmd) (cause : Cause) (trap : Bool) (pay : List Dword) :
    s.cmdRecord c cause trap pay =
      { s with recQueue := s.recQueue ++ (c.by_.ctx?.map fun x => (c.card, x.1, x.2, c.record cause trap pay)).toList } := by
  unfold State.cmdRecord State.sendTo
  cases c.by_.ctx? with
  | none => rw [Option.map_none, Option.toList_none, List.append_nil]
  | some x => rfl

/-- The records that an item's end sends. -/
def TblCmd.poisonRecords (c : TblCmd) : Option Dword → List (Nat × Nat × Nat × EngRec)
  | none => []
  | some va => (c.by_.ctx?.map fun x => (c.card, x.1, x.2, c.record .memoryError true [va])).toList

theorem State.itemPoison_eq (s : State) (c : TblCmd) (p : Option Dword) :
    s.itemPoison c p = { s with recQueue := s.recQueue ++ c.poisonRecords p } := by
  cases p with
  | none => rw [TblCmd.poisonRecords, List.append_nil]; rfl
  | some va => exact s.cmdRecord_eq c .memoryError true [va]

/-- An item once its unit has ended it. -/
def RowEnv.ended (e : RowEnv) (r : RowUnit) : Item :=
  { e.item with done := true, out := if e.upd then none else some (r.out.getD (blankOut e.d false)), nanIn := r.poison.isSome }

section
variable (s : State) (e : RowEnv) (r : RowUnit)

/-- What the end of an item leaves. -/
theorem State.endItem_eq : s.endItem e r =
    { (s.setUnit e.u r.free).modVault e.v fun x =>
        (x.dropPoisoned e.cmd.order e.it r.poison).putCmd (e.cmd.setItem e.it (e.ended r)) with
      recQueue := s.recQueue ++ e.cmd.poisonRecords r.poison } := State.itemPoison_eq ..

theorem State.endItem_vault : (s.endItem e r).vault e.v =
    ((s.vault e.v).dropPoisoned e.cmd.order e.it r.poison).putCmd (e.cmd.setItem e.it (e.ended r)) := by
  rw [State.endItem_eq]
  exact Tab.get_put_self {} s.vaults e.v _

theorem State.endItem_unit : (s.endItem e r).unit e.u = r.free := by
  rw [State.endItem_eq]
  exact s.unit_setUnit e.u r.free

theorem State.endItem_mem : (s.endItem e r).mem = s.mem := by
  rw [State.endItem_eq]
  rfl

theorem State.endItem_recQueue : (s.endItem e r).recQueue = s.recQueue ++ e.cmd.poisonRecords r.poison := by
  rw [State.endItem_eq]

end

theorem Vault.dropPoisoned_cmds (x : Vault) (order it : Nat) (p : Option Dword) :
    (x.dropPoisoned order it p).cmds = x.cmds := by
  unfold Vault.dropPoisoned
  split <;> rfl

theorem haltEndsTheItem : HaltEndsTheItem := by
  intro s u e runs
  obtain rfl := State.rowEnv_unit runs.item
  refine ⟨s.endItem e (stepped (s.unit e.u)), exec_of_runs (f := fun s e r => .stop (s.endItem e r)) runs rfl, ?_, ?_,
    State.endItem_mem .., ⟨_, rfl, ?command⟩, fun clean => ⟨?kept, ?silent⟩, fun va bad => ⟨?dropped, ?recorded⟩⟩
  · rw [State.endItem_unit]
    rfl
  · rw [State.endItem_unit]
    rfl
  case command =>
    rw [State.endItem_vault, Vault.putCmd, Vault.dropPoisoned_cmds]
    rfl
  case kept =>
    rw [State.endItem_vault, poison_stepped, clean]
    rfl
  case silent =>
    rw [State.endItem_recQueue, poison_stepped, clean]
    exact List.append_nil _
  case dropped =>
    rw [State.endItem_vault, poison_stepped, bad]
    rfl
  case recorded =>
    rw [State.endItem_recQueue, poison_stepped, bad, TblCmd.poisonRecords]
    cases e.cmd.by_.ctx? <;> rfl

/-! ### Loads (R244, R246) -/

section
variable {s : State} {u : UnitId} {e : RowEnv} {due : RowEnv → RowUnit → Option Nat}
  {f : State → RowEnv → RowUnit → Nat → Acc RowUnit} {zero : RowEnv → RowUnit → RowUnit} {i : Instr}

/-- A load before the first `next`. -/
theorem exec_of_rowLoad_before (runs : UnitRuns s u e) (load : exec i s = rowLoad due f zero s)
    (before : e.row (s.unit u) = none) : exec i s = .next (s.setUnit u (zero e (stepped (s.unit u)))) := by
  rw [exec_of_runs runs load, RowEnv.row_stepped, before]
  rfl

/-- A load whose sectors are not there yet. -/
theorem exec_of_rowLoad_waits (runs : UnitRuns s u e) (load : exec i s = rowLoad due f zero s) {row : Nat}
    (here : e.row (s.unit u) = some row) (waits : (due e (stepped (s.unit u))).isSome = true) : exec i s = .next s := by
  rw [exec_of_runs runs load, RowEnv.row_stepped, here]
  dsimp only
  rw [if_pos waits]
  rfl

/-- A load whose sectors are there. -/
theorem exec_of_rowLoad_reads (runs : UnitRuns s u e) (load : exec i s = rowLoad due f zero s) {row : Nat} {r : RowUnit}
    (here : e.row (s.unit u) = some row) (present : due e (stepped (s.unit u)) = none)
    (reads : f s e (stepped (s.unit u)) row = .ok r) : exec i s = .next (s.setUnit u r) := by
  rw [exec_of_runs runs load, RowEnv.row_stepped, here]
  dsimp only
  rw [present, reads]
  rfl

end

theorem rowLoadsReadTheCurrentRow : RowLoadsReadTheCurrentRow := by
  intro s u e gd sd p q runs
  refine ⟨fun before => ⟨(exec_of_rowLoad_before (i := .rowLdt gd) runs rfl before :),
    (exec_of_rowLoad_before (i := .rowLds gd p) runs rfl before :),
    (exec_of_rowLoad_before (i := .rowLdss sd q) runs rfl before :)⟩,
    fun row here => ⟨fun waits => exec_of_rowLoad_waits runs rfl here waits,
      fun waits => ⟨fun has => ?ldsWaits, fun has => ?ldssWaits⟩,
      fun x pz present reads => ?ldt, fun lacks => exec_of_rowLoad_reads runs rfl here (if_pos lacks) (if_pos lacks),
      fun x pz present has reads => ?lds, fun lacks => exec_of_rowLoad_reads runs rfl here (if_pos lacks) (if_pos lacks),
      fun x pz present has reads => ?ldss⟩⟩
  case ldsWaits =>
    refine exec_of_rowLoad_waits runs rfl here ?_
    rwa [if_neg (Nat.not_le.mpr has)]
  case ldssWaits =>
    refine exec_of_rowLoad_waits runs rfl here ?_
    rwa [if_neg (Nat.not_le.mpr has)]
  case ldt =>
    refine exec_of_rowLoad_reads runs rfl here present ?_
    rw [show s.readLanes e.v e.slot row (s.handedTo e) = .ok (x, pz) from reads]
    rfl
  case lds =>
    refine exec_of_rowLoad_reads runs rfl here ((if_neg (Nat.not_le.mpr has)).trans present) ?_
    rw [if_neg (Nat.not_le.mpr has), reads]
    rfl
  case ldss =>
    refine exec_of_rowLoad_reads runs rfl here ((if_neg (Nat.not_le.mpr has)).trans present) ?_
    rw [if_neg (Nat.not_le.mpr has), reads]
    rfl

/-! ### Stores and outputs (R244 to R246) -/

/-- R235: the padding of a state record follows its rows and its scalars. -/
theorem statePadding_eq (e : RowEnv) (l : List Nat) :
    statePadding e.desc l = (l.drop (4 * e.d * descNsr e.desc + 4 * descNss e.desc)).map fun a => (a, 0) := by
  have size : descNsr e.desc * descD e.desc * 4 + descNss e.desc * 4 = 4 * e.d * descNsr e.desc + 4 * descNss e.desc := by
    rw [RowEnv.d]
    ac_rfl
  rw [statePadding, size]

theorem stqBytes_of_upd {e : RowEnv} (upd : e.upd = true) (rq : Bool) (ga : RowReg) (s : State) (r : RowUnit) (row : Nat) :
    stqBytes rq ga s e r row = (s.rowAddrs e.v e.slot row false .write).bind fun l =>
      .ok (l.zip (quantise e.desc rq (s.rowBytes (s.vault e.v).writes l) (r.readG e.d ga))) := by
  rw [stqBytes, State.handedTo, if_pos upd]

theorem stateStore_eq (e : RowEnv) (s : State) (row o : Nat) (w : List Word) :
    stateStore e s row o w = (s.rowAddrs e.v e.slot row true .write).bind fun l =>
      .ok ((l.drop o).zip (w.flatMap fun x => leBytes 4 x.toNat) ++
        (l.drop (4 * e.d * descNsr e.desc + 4 * descNss e.desc)).map fun a => (a, 0)) := by
  simp only [stateStore, statePadding_eq]

/-- A store is a micro-word that hands, for an update item, the bytes that the rules name. -/
theorem exec_of_rowStored {s : State} {e : RowEnv} {r : RowUnit} {row : Nat} {i : Instr} {x : Acc (List (Nat × Byte))}
    (store : rowStored s e r row i = some x) :
    ∃ f, exec i s = rowStore f s ∧ (e.upd = true → f s e (stepped r) row = x) := by
  unfold rowStored at store
  split at store <;> cases store
  next ga => exact ⟨_, rfl, fun upd => stqBytes_of_upd upd false ga s (stepped r) row⟩
  next ga => exact ⟨_, rfl, fun upd => stqBytes_of_upd upd true ga s (stepped r) row⟩
  next ga p => exact ⟨_, rfl, fun _ => by rw [stateStore_eq]; rfl⟩
  next sa q => exact ⟨_, rfl, fun _ => by rw [stateStore_eq, List.flatMap_singleton]; rfl⟩

section
variable {s : State} {u : UnitId} {e : RowEnv} {f : State → RowEnv → RowUnit → Nat → Acc (List (Nat × Byte))} {i : Instr}

/-- A store of a gather item, or before the first `next` (log entry 26). -/
theorem exec_of_rowStore_idle (runs : UnitRuns s u e) (store : exec i s = rowStore f s)
    (idle : e.upd = false ∨ e.row (s.unit u) = none) : exec i s = .next (s.setUnit u (stepped (s.unit u))) := by
  rw [exec_of_runs runs store]
  split
  · rfl
  next row here =>
    obtain gather | before := idle
    · rw [gather]
      rfl
    · cases before.symm.trans here

/-- A store of an update item on its current row. -/
theorem exec_of_rowStore_hands (runs : UnitRuns s u e) (store : exec i s = rowStore f s) (upd : e.upd = true) {row : Nat}
    {l : List (Nat × Byte)} (here : e.row (s.unit u) = some row) (bytes : f s e (stepped (s.unit u)) row = .ok l) :
    exec i s = .next ((s.modVault e.v fun y => y.hand e.cmd e.u e.it row l).setUnit u (stepped (s.unit u))) := by
  have unit : e.u = u := State.rowEnv_unit runs.item
  rw [exec_of_runs runs store, RowEnv.row_stepped, here]
  dsimp only
  rw [upd, bytes, unit]
  rfl

end

theorem rowStoresAndOutputs : RowStoresAndOutputs := by
  intro s u e i ga t runs
  refine ⟨fun row x stored => ?stores, fun upd => ⟨?_, ?_⟩, fun gather => ⟨?_, ?_⟩⟩
  case stores =>
    obtain ⟨f, store, bytes⟩ := exec_of_rowStored stored
    refine ⟨fun idle => exec_of_rowStore_idle runs store idle, fun l upd here handed => ?_⟩
    exact exec_of_rowStore_hands runs store upd here ((bytes upd).trans handed)
  all_goals
    rw [exec_of_runs runs rfl]
    dsimp only [RowRes.after]
  · rw [if_pos upd]
  · rw [if_pos upd]
  · rw [gather]
    rfl
  · rw [gather]
    rfl

/-! ### RETENTION (R379) -/

theorem exec_of_stopped {s : State} {u : UnitId} {i : Instr} {f : State → RowEnv → RowUnit → RowRes} (focus : s.focus = .unit u)
    (stopped : s.unitStopped u = true) (word : exec i s = .next (s.unitDo f)) : exec i s = .next s := by
  rw [word, State.unitDo_of_stopped focus stopped]

/-- The row of a shipped program's item arrives at a stopped unit. -/
theorem State.shippedStep_of_stopped {s : State} {e : RowEnv} {p : Nat} {m : ItemPos} {t : Nat}
    (stopped : s.unitStopped e.u = true) (pos : (s.unit e.u).pos = some p) (here : e.item.poss[p]? = some m)
    (due : (s.unit e.u).rowDue = some t) : s.shippedStep e = s := by
  unfold State.shippedStep
  simp only [pos, here, due, stopped, Bool.true_or, if_true]

theorem exec_rowSectorReadDone_of_shipped {s : State} {u : UnitId} {e : RowEnv} (shipped : (s.unit u).shipped = true)
    (item : s.rowEnv u = some e) : exec (.rowSectorReadDone u) s = .next (s.shippedStep e) := by
  show execRowSectorReadDone u s = _
  simp only [execRowSectorReadDone, shipped, item, if_true]

theorem exec_rowSectorReadDone_of_no_item {s : State} {u : UnitId} (shipped : (s.unit u).shipped = true)
    (idle : s.rowEnv u = none) : exec (.rowSectorReadDone u) s = .next s := by
  show execRowSectorReadDone u s = _
  simp only [execRowSectorReadDone, shipped, idle, if_true]

theorem retentionStopsRowUnits : RetentionStopsRowUnits := by
  intro s u stopped
  refine ⟨fun shipped started due current => ?arrival, fun focus i word => ?bare, fun focus i e item word => ?words⟩
  case arrival =>
    obtain ⟨p, pos⟩ := Option.isSome_iff_exists.mp started
    obtain ⟨t, due⟩ := Option.isSome_iff_exists.mp due
    cases item : s.rowEnv u with
    | none => exact exec_rowSectorReadDone_of_no_item shipped item
    | some e =>
      obtain rfl := State.rowEnv_unit item
      have within : p < e.item.poss.length := by simpa [pos] using current e item
      rw [exec_rowSectorReadDone_of_shipped shipped item,
        State.shippedStep_of_stopped stopped pos (List.getElem?_eq_getElem within) due]
  case bare =>
    simp only [List.mem_cons, List.not_mem_nil, or_false] at word
    obtain rfl | rfl := word
    · exact exec_of_stopped focus stopped rfl
    · exact exec_of_stopped focus stopped rfl
  case words =>
    obtain lanes | scalar | triples | ⟨_, rfl⟩ | ⟨_, _, rfl⟩ | ⟨_, rfl⟩ | ⟨_, rfl⟩ | ⟨_, _, rfl⟩ | ⟨_, _, rfl⟩ | ⟨_, store⟩ |
      ⟨_, rfl⟩ | ⟨_, rfl⟩ := word
    · obtain ⟨_, op⟩ := Option.isSome_iff_exists.mp lanes
      obtain ⟨_, _, word, -⟩ := exec_of_rowLanesOf s op
      exact exec_of_stopped focus stopped word
    · obtain ⟨_, op⟩ := Option.isSome_iff_exists.mp scalar
      obtain ⟨_, word, -⟩ := exec_of_rowScalarOf s op
      exact exec_of_stopped focus stopped word
    · obtain ⟨_, op⟩ := Option.isSome_iff_exists.mp triples
      obtain ⟨_, _, word, -⟩ := exec_of_rowTriplesOf s op
      exact exec_of_stopped focus stopped word
    -- `br`, `loop`, `next` and the loads
    iterate 6 exact exec_of_stopped focus stopped rfl
    · obtain ⟨_, stored⟩ := Option.isSome_iff_exists.mp store
      obtain ⟨_, word, -⟩ := exec_of_rowStored stored
      exact exec_of_stopped focus stopped word
    -- `emit` and `emitq`
    iterate 2 exact exec_of_stopped focus stopped rfl

/-- Settles O43, part by part: what each word does is read off its meaning on the unit past the word (`exec_of_runs`), and a
stopped unit executes none (`exec_of_stopped`). -/
theorem rowProgramsControlAndAccess : Obligations.RowProgramsControlAndAccess :=
  ⟨rowControl, haltEndsTheItem, rowLoadsReadTheCurrentRow, rowStoresAndOutputs, retentionStopsRowUnits⟩

end Sys2Proof.Machine
end
